-- ==== Sys2Proof/Word.lean ====
section
/-!
DEFINITION. Word types and the table type that holds sparse data by number (00_scope.md R3, R4).
-/
namespace Sys2Proof

abbrev Byte := BitVec 8
/-- An X register's 64 bits (R9, R40). -/
abbrev Word := BitVec 64
/-- A virtual address (R29). -/
abbrev VAddr := BitVec 54
/-- A register number of a 5-bit field (R31). -/
abbrev Reg := Fin 32

/-- Data kept by number: the pairs in rising order of their keys. -/
abbrev Tab (α : Type) := List (Nat × α)

namespace Tab

/-- The entry at `k`, or `d` where the table lists none. -/
def get {α : Type} (d : α) (k : Nat) : Tab α → α
  | [] => d
  | (i, v) :: rest => if i = k then v else get d k rest

/-- The table without the key `k`. -/
def erase {α : Type} (k : Nat) : Tab α → Tab α
  | [] => []
  | (i, v) :: rest => if i = k then erase k rest else (i, v) :: erase k rest

/-- Places `(k, v)` before the first larger key. -/
def place {α : Type} (k : Nat) (v : α) : Tab α → Tab α
  | [] => [(k, v)]
  | (i, w) :: rest => if k < i then (k, v) :: (i, w) :: rest else (i, w) :: place k v rest

/-- The table with `v` at `k`. -/
def put {α : Type} (k : Nat) (v : α) (t : Tab α) : Tab α := place k v (erase k t)

/-- The table with `v` at `k`, listing nothing there when `v` is what an unlisted key reads as. -/
def set {α : Type} [DecidableEq α] (d : α) (k : Nat) (v : α) (t : Tab α) : Tab α :=
  if v = d then erase k t else put k v t

/-- Whether the table lists `k`. -/
def has {α : Type} (k : Nat) (t : Tab α) : Bool := t.any fun e => e.1 == k

/-- Keys strictly rising. -/
def sorted {α : Type} : Tab α → Bool
  | [] => true
  | [_] => true
  | (i, _) :: (j, w) :: rest => i < j && sorted ((j, w) :: rest)

end Tab
end Sys2Proof
end

