-- ==== Sys2Proof/Syntax.lean ====
section
/-!
DEFINITION. The instructions and the events of spec/opcode_table.json: one constructor for each row. An instruction word's
constructor carries its fields as 03_encoding.md gives them; an event's constructor carries what the event brings with it
(which core, strand, request or launch it concerns, and data that is measured or comes from outside).
-/
namespace Sys2Proof

/-- A global core number (R10). -/
abbrev CoreId := Fin 8192
/-- A strand of a core (R9). -/
abbrev StrandId := Fin 4

/-- The mode field (R24). -/
inductive Mode where
  | L | C | G | N
  deriving DecidableEq, Repr

/-- The scopes (Table 9.1). -/
inductive Scope where
  | strand | core | cluster | die | package | system
  deriving DecidableEq, Repr

/-- The order of an atomic (Table 3.6). -/
inductive Order where
  | relaxed | acq | rel | ar
  deriving DecidableEq, Repr

/-- The fence kinds (Table 3.6). -/
inductive FenceKind where
  | full | acq | rel | eng
  deriving DecidableEq, Repr

/-- Barrier levels (R212). -/
inductive BLevel where
  | cluster | die | package
  deriving DecidableEq, Repr

/-- Register classes (Table 3.5). -/
inductive RClass where
  | x | v
  deriving DecidableEq, Repr

/-- Float types of the scalar and vector float instructions (Tables 3.4, 3.5). -/
inductive FTy where
  | f32 | f16 | b16
  deriving DecidableEq, Repr

/-- Integer element types, codes 0 to 7 (Table 3.4). -/
inductive ITy where
  | i8 | i16 | i32 | i64 | n8 | n16 | n32 | n64
  deriving DecidableEq, Repr

/-- All element types, codes 0 to 10 (Table 3.4). -/
inductive ETy where
  | int (t : ITy)
  | flt (t : FTy)
  deriving DecidableEq, Repr

/-- FCMP conditions (Table 3.5). -/
inductive FCond where
  | eq | lt | le | un
  deriving DecidableEq, Repr

/-- Width codes of a predicate (R112). -/
inductive Width where
  | w8 | w16 | w32 | w64
  deriving DecidableEq, Repr

/-- Rounding modes (R45), in VFRND's coding (Table 3.7). -/
inductive RMode where
  | rne | rtz | rdn | rup | sr
  deriving DecidableEq, Repr

/-- VSFU functions (Table 6.10). -/
inductive SfuFn where
  | recip | rsqrt | exp2 | log2 | sin | cos | tanh | logistic
  deriving DecidableEq, Repr

/-- Semirings (Table 7.4). -/
inductive Semiring where
  | plusTimes | minPlus | maxPlus | maxTimes | orAnd
  deriving DecidableEq, Repr

/-- MSTZ element formats (Table 3.8). -/
inductive ZFmt where
  | native | b16 | f16
  deriving DecidableEq, Repr

/-- What the TSC answers (R268). -/
inductive TscAnswer where
  | entry (bits : BitVec 128)
  | noMapping
  | unavailable
  | uncorrectable
  deriving DecidableEq, Repr

/-- The four TLBs of a core (Table 14.6). -/
inductive TlbKind where
  | loadStore | matrix | engine | fetch
  deriving DecidableEq, Repr

/-- The operations of Table 9.6. -/
inductive AtomicKind where
  | add | and | or | xor | min | max | swp | cas
  deriving DecidableEq, Repr

/-- What a peer or the host asks for at a window (R309, R313): `w` is the 4-byte form of an atomic, `un` its unsigned one (R201). -/
inductive RemoteOp where
  | read (n : Fin 9)
  | write (n : Fin 9) (v : BitVec 64)
  | atomic (k : AtomicKind) (w un : Bool) (v cmp : BitVec 64)
  deriving DecidableEq, Repr

/-- How a read of a launch packet ends (R310). -/
inductive PacketRead where
  | ok | readError | uncorrectable
  deriving DecidableEq, Repr

/-- Where a start loads its image from (R317): a link port, or host memory that the host names. -/
inductive BootSource where
  | link (p : Fin 16)
  | host (a : VAddr)
  deriving DecidableEq, Repr

/-- A firmware image (R317): its header's public keys (the RSA key: the 384 bytes of the modulus, then the exponent, most significant byte
first), its body, and its signatures. The spec does not give the header's layout (log 71). -/
structure BootImage where
  rsaKey : List Byte
  slhKey : List Byte
  body : List Byte
  rsaSig : List Byte
  slhSig : List Byte
  deriving DecidableEq, Repr

/-- What comes to a start from outside and from its measurements (R316, R317): the image requested, the identity key as the SRAM PUF gives it,
the outcome of training, of the measurement and of the in-field sweep as steps; the peer number of the configuration image (R313). -/
structure StartData where
  image : BootImage
  identity : BitVec 256
  trainOk : Bool
  measureOk : Bool
  sweepOk : Bool
  source : BootSource
  peer : BitVec 6
  /-- cores whose in-field sweep fails -/
  failed : List Nat
  ms : BitVec 32
  version : BitVec 32
  deriving DecidableEq, Repr

inductive Instr where
  -- Flow (R49), 0x00 to 0x10
  | nop
  | bra (off : BitVec 23)
  | call (off : BitVec 23)
  | ret
  | jmpr (a : Reg)
  | callr (a : Reg)
  | beq (d a : Reg) (off : BitVec 13)
  | bne (d a : Reg) (off : BitVec 13)
  | blt (d a : Reg) (off : BitVec 13)
  | bge (d a : Reg) (off : BitVec 13)
  | bltn (d a : Reg) (off : BitVec 13)
  | bgen (d a : Reg) (off : BitVec 13)
  | beqi (d : Reg) (i : BitVec 5) (off : BitVec 13)
  | bnei (d : Reg) (i : BitVec 5) (off : BitVec 13)
  | bz (d : Reg) (off : BitVec 18)
  | bnz (d : Reg) (off : BitVec 18)
  | yield (dl : BitVec 10) (kv : Bool)
  -- System and state, 0x11 to 0x1D
  | gets (d : Reg) (sel : BitVec 12)
  | sets (sel : BitVec 12) (a : Reg)
  | swaps (d : Reg) (sel : BitVec 12) (a : Reg)
  | trap (n : BitVec 16)
  | eret
  | uevret
  | evwait (d : Reg)
  | evmask (d a : Reg)
  /-- `c` is the count less 1 -/
  | spill (cls : RClass) (d c : Reg)
  | fill (cls : RClass) (d c : Reg)
  | mkrcap (d a : Reg) (cls : RClass) (wm : Bool)
  | rvoke
  | iflush (a b : Reg)
  -- Scalar memory, 0x20 to 0x2A
  | ld (d b : Reg) (m : Mode) (off : BitVec 11)
  | lds (d b : Reg) (m : Mode) (off : BitVec 11)
  | lda (d b : Reg) (m : Mode) (off : BitVec 11)
  | lde (d b : Reg) (m : Mode) (off : BitVec 11)
  | st (d b : Reg) (m : Mode) (off : BitVec 11)
  | stf (d b : Reg) (m : Mode) (off : BitVec 11)
  | stl (d b : Reg) (m : Mode) (off : BitVec 11)
  | ldp (d b : Reg) (m : Mode) (off : BitVec 11)
  | stp (d b : Reg) (m : Mode) (off : BitVec 11)
  | pfch (b : Reg) (m : Mode) (off : BitVec 11)
  | clfe (a b : Reg) (m : Mode)
  -- Atomics and synchronisation, 0x30 to 0x3F
  | aadd (d a b : Reg) (w : Bool) (o : Order) (s : Scope) (m : Mode)
  | aand (d a b : Reg) (w : Bool) (o : Order) (s : Scope) (m : Mode)
  | aor (d a b : Reg) (w : Bool) (o : Order) (s : Scope) (m : Mode)
  | axor (d a b : Reg) (w : Bool) (o : Order) (s : Scope) (m : Mode)
  | amin (d a b : Reg) (w : Bool) (o : Order) (s : Scope) (m : Mode)
  | amax (d a b : Reg) (w : Bool) (o : Order) (s : Scope) (m : Mode)
  | aswp (d a b : Reg) (w : Bool) (o : Order) (s : Scope) (m : Mode)
  | acas (d a b : Reg) (w : Bool) (o : Order) (s : Scope) (m : Mode)
  | accf (a b : Reg) (f : FTy) (s : Scope) (m : Mode)
  | cellrd (d a : Reg) (clr : Bool) (f : FTy) (s : Scope) (m : Mode)
  | fence (k : FenceKind) (s : Scope)
  | promote (a : Reg) (s : Scope) (m : Mode)
  | bar (k : BitVec 4) (lv : BLevel)
  | bari (k : BitVec 4) (lv : BLevel)
  | barw (k : BitVec 4) (lv : BLevel)
  | bset (d : Reg) (k : BitVec 4) (lv : BLevel)
  -- Messaging and register fabric, 0x40 to 0x4A
  | send (d a : Reg)
  | rsend (a b : Reg)
  | rsendv (a b : Reg) (pg : Fin 8)
  | recv (d : Reg)
  | rpeek (d : Reg)
  | rack
  | post (d a : Reg)
  | take (d : Reg) (wait : Bool)
  | next (d : Reg)
  | mcast (d a : Reg)
  | msgmov (a : Reg) (st : Bool) (m : Mode)
  -- Exchange, 0x4B to 0x4E
  | xphase (k : BitVec 4)
  | xmit (slot : BitVec 13) (l : Reg) (g : BitVec 4)
  | xsel (slot : BitVec 13) (l : Reg) (e : BitVec 5)
  | xend
  -- Engines and tape, 0x50 to 0x5B
  | cpy (a b c : Reg) (clfe ev : Bool) (sm dm : Mode)
  | cpys (g : Fin 4) (b c : Reg) (clfe ev : Bool) (sm : Mode)
  | cpyg (a b c : Reg) (clfe ev : Bool) (sm dm : Mode)
  | cpysc (a b c : Reg) (clfe ev : Bool) (sm dm : Mode)
  | cpyq (d : Reg)
  | ringdef (g : Fin 4) (b c : Reg) (m : Mode)
  | ringst (d : Reg) (g : Fin 4)
  | tguard (a : Reg) (i : BitVec 6)
  | tslot (a : Reg) (i : BitVec 6)
  | cbinit (a b : Reg)
  | cbwait (d a : Reg)
  | cbtest (d a : Reg)
  -- Vector memory, 0x60 to 0x67
  | vld (d a : Reg) (pg : Fin 8) (m : Mode)
  | vlds (d a b : Reg) (pg : Fin 8) (m : Mode)
  | vldg (d a b : Reg) (pg : Fin 8) (m : Mode)
  | vst (d a : Reg) (pg : Fin 8) (m : Mode)
  | vsts (d a b : Reg) (pg : Fin 8) (m : Mode)
  | vstg (d a b : Reg) (pg : Fin 8) (m : Mode)
  | vldb (d a : Reg) (pg : Fin 8) (m : Mode)
  | vldsy (d a : Reg) (pg : Fin 8) (m : Mode)
  -- Vector control, 0x70 to 0x79
  | vclaim (d : Reg) (n : BitVec 7)
  | vfree
  /-- `len` is the body length less 1 -/
  | vseq (a : Reg) (len step : BitVec 4)
  | vrep (a : Reg) (len stride : BitVec 4)
  | pset (d : Fin 8) (a : Reg) (w : Width)
  | pseti (d : Fin 8) (c : BitVec 16) (w : Width)
  | pget (d : Reg) (a : Fin 8)
  | rbset (v : BitVec 4)
  | rbget (d : Reg)
  | dtload (a : Reg) (m : Mode)
  -- Scalar integer, 0x80 to 0xA3
  | add (d a b : Reg) (w : Bool)
  | addi (d a : Reg) (i : BitVec 13)
  | sub (d a b : Reg) (w : Bool)
  | mul (d a b : Reg) (w : Bool)
  | mulh (d a b : Reg) (w : Bool)
  | mulhn (d a b : Reg) (w : Bool)
  | div (d a b : Reg) (w : Bool)
  | divn (d a b : Reg) (w : Bool)
  | rem (d a b : Reg) (w : Bool)
  | remn (d a b : Reg) (w : Bool)
  | and (d a b : Reg)
  | andi (d a : Reg) (i : BitVec 13)
  | or (d a b : Reg)
  | ori (d a : Reg) (i : BitVec 13)
  | xor (d a b : Reg)
  | xori (d a : Reg) (i : BitVec 13)
  | shl (d a b : Reg) (w : Bool)
  | shli (d a : Reg) (s : BitVec 6)
  | shr (d a b : Reg) (w : Bool)
  | shri (d a : Reg) (s : BitVec 6)
  | sra (d a b : Reg) (w : Bool)
  | srai (d a : Reg) (s : BitVec 6)
  | slt (d a b : Reg)
  | sltn (d a b : Reg)
  | slti (d a : Reg) (i : BitVec 13)
  | min (d a b : Reg)
  | max (d a b : Reg)
  | movi (d : Reg) (i : BitVec 18)
  | movhi (d : Reg) (i : BitVec 18)
  | clz (d a : Reg)
  | popc (d a : Reg)
  | padd (d a b : Reg)
  | paddi (d a : Reg) (i : BitVec 13)
  | ptag (d a : Reg) (f : BitVec 6) (e : BitVec 4)
  | pstrip (d a : Reg)
  | sel (d a b : Reg)
  -- Scalar float, 0xA4 to 0xA8
  | fadd (d a b : Reg) (t : FTy) (sr : Bool)
  | fmul (d a b : Reg) (t : FTy) (sr : Bool)
  | fma (d a b : Reg) (t : FTy) (sr : Bool)
  | fcvt (d a : Reg) (dt st : ETy) (sr : Bool)
  | fcmp (d a b : Reg) (t : FTy) (c : FCond)
  -- Vector integer, 0xA9 to 0xBB
  | vadd (d a b : Reg) (pg : Fin 8) (t : ITy) (sat : Bool)
  | vsub (d a b : Reg) (pg : Fin 8) (t : ITy) (sat : Bool)
  | vmul (d a b : Reg) (pg : Fin 8) (t : ITy)
  | vmulh (d a b : Reg) (pg : Fin 8) (t : ITy)
  | vand (d a b : Reg) (pg : Fin 8) (t : ITy)
  | vor (d a b : Reg) (pg : Fin 8) (t : ITy)
  | vxor (d a b : Reg) (pg : Fin 8) (t : ITy)
  | vshl (d a b : Reg) (pg : Fin 8) (t : ITy)
  | vshr (d a b : Reg) (pg : Fin 8) (t : ITy)
  | vsra (d a b : Reg) (pg : Fin 8) (t : ITy)
  | vmin (d a b : Reg) (pg : Fin 8) (t : ITy)
  | vmax (d a b : Reg) (pg : Fin 8) (t : ITy)
  | vcmp (d a b : Reg) (pg : Fin 8) (t : ITy) (lt : Bool)
  | vsel (d a b : Reg) (pg : Fin 8) (t : ITy)
  | vbcst (d a : Reg) (pg : Fin 8) (t : ITy)
  | vext (d a b : Reg) (pg : Fin 8) (t : ITy)
  | vperm (d a b : Reg) (pg : Fin 8) (t : ITy)
  | vslide (d a b : Reg) (pg : Fin 8) (t : ITy) (up : Bool)
  | viota (d : Reg) (pg : Fin 8) (t : ITy)
  -- Vector float, 0xBC to 0xD2
  | vfadd (d a b : Reg) (pg : Fin 8) (t : FTy) (sr : Bool)
  | vfsub (d a b : Reg) (pg : Fin 8) (t : FTy) (sr : Bool)
  | vfmul (d a b : Reg) (pg : Fin 8) (t : FTy) (sr : Bool)
  | vfma (d a b : Reg) (pg : Fin 8) (t : FTy) (sr : Bool)
  | vfms (d a b : Reg) (pg : Fin 8) (t : FTy) (sr : Bool)
  | vfmin (d a b : Reg) (pg : Fin 8) (t : FTy)
  | vfmax (d a b : Reg) (pg : Fin 8) (t : FTy)
  | vfabs (d a : Reg) (pg : Fin 8) (t : FTy)
  | vfcmp (d a b : Reg) (pg : Fin 8) (t : FTy) (lt : Bool)
  | vfcvt (d a : Reg) (pg : Fin 8) (dt st : ETy) (sr : Bool)
  | vfrnd (d a : Reg) (pg : Fin 8) (t : FTy) (mode : RMode)
  | vaddx (d a b : Reg) (pg : Fin 8) (t : FTy)
  | vsubx (d a b : Reg) (pg : Fin 8) (t : FTy)
  | vmulx (d a b : Reg) (pg : Fin 8) (t : FTy)
  | dwadd (d a b : Reg) (pg : Fin 8)
  | dwsub (d a b : Reg) (pg : Fin 8)
  | dwmul (d a b : Reg) (pg : Fin 8)
  | dwnorm (d a : Reg) (pg : Fin 8)
  | vsum (d a : Reg) (pg : Fin 8) (t : FTy)
  | vsumc (d a : Reg) (pg : Fin 8)
  | vredmax (d a : Reg) (pg : Fin 8) (t : FTy)
  | vscale (d a b : Reg) (pg : Fin 8) (t : FTy) (sr : Bool)
  | vsfu (d a : Reg) (pg : Fin 8) (t : FTy) (f : SfuFn)
  -- Matrix, 0xD3 to 0xDD
  | mzero (c : Fin 2)
  | mma (c : Fin 2) (ga gb : Fin 4) (clr : Bool)
  | mmas (c : Fin 2) (ga gb : Fin 4) (clr : Bool)
  | msemi (s : Semiring)
  | mprog (a : Reg) (m : Mode)
  | mrun (c : Fin 2) (ga gb : Fin 4) (clr : Bool)
  | mstz (a : Reg) (c : Fin 2) (m : Mode) (f : ZFmt)
  | mldz (c : Fin 2) (a : Reg) (m : Mode)
  | mmovzv (a : Reg) (c : Fin 2) (row : BitVec 4)
  | msync
  | mstat (a : Reg)
  -- Events
  | rbaseWrite (c : CoreId) (t : StrandId) (v : Word)
  | pailheadWrite (c : CoreId) (t : StrandId) (v : Word)
  | pailGeometryWrite (c : CoreId) (t : StrandId) (size : Bool) (v : Word)
  | xsrcentWrite (c : CoreId) (t : StrandId) (v : Word)
  | mscopeWrite (c : CoreId) (t : StrandId) (v : Word)
  | engerrWrite (c : CoreId) (t : StrandId) (v : Word)
  | stateRegisterWrite (c : CoreId) (t : StrandId) (sel : BitVec 12) (v : Word)
  /-- `unc`: an uncorrectable error in the strand's registers is found (0x3F) -/
  | faultEntry (c : CoreId) (t : StrandId) (unc : Bool)
  | userEventDelivery (c : CoreId) (t : StrandId)
  | sequencerEntryStart (c : CoreId) (t : StrandId)
  | sfuRequestAccept (c : CoreId) (t : StrandId)
  | sfuResult (o : Fin 1024)
  | churnEntryStart (c : CoreId)
  | churnEntryRetire (c : CoreId)
  | ringStarved (c : CoreId)
  | copyCommandStart (c : CoreId)
  | cpysTilePush (c : CoreId)
  | ringRoomTimeout (c : CoreId)
  | completionArrival (c : CoreId)
  | recvWake (c : CoreId) (t : StrandId)
  | fullWaitWake (c : CoreId) (t : StrandId)
  | waitRequestRetry (c : CoreId) (t : StrandId)
  | cbwaitWake (c : CoreId) (t : StrandId)
  | evwaitWake (c : CoreId) (t : StrandId)
  | takeWaitWake (c : CoreId) (t : StrandId)
  /-- the domain: level, the cluster or die it belongs to, and its number -/
  | barrierRelease (lv : BLevel) (inst : Fin 256) (k : BitVec 4)
  | atomicAtUnit (c : CoreId) (t : StrandId) (id : Nat)
  | messageAccept (id : Nat)
  | messageResend (id : Nat)
  | sendAcknowledge (id : Nat)
  | sendRefusal (id : Nat)
  | registerArrival (id : Nat)
  | reassemblyTimeout (id : Nat)
  | postDelivery (id : Nat)
  | exchangePhaseStart (c : CoreId)
  | xmitDrive (c : CoreId) (t : StrandId)
  | xselSample (c : CoreId)
  /-- new points, point i in bits [16i + 15 : 16i] -/
  | remeasurement (c : CoreId) (cvf cvl : BitVec 128)
  | curveUpdateTimeout (c : CoreId)
  | laneRemeasurement (o : Fin 1024) (lane : Fin 128) (pts : BitVec 128)
  | laneCapApply (c : CoreId)
  | powerControlTick
  | railSettle (q : Fin 2048)
  /-- what the machine's meters do not show of the period (log 22): bytes moved at the memory rails, core cycles waited, mW of the array; and the
  permit class that comes first among those that have spent alike -/
  | budgetTick (bw st est : Nat) (cls : Fin 4)
  | junctionSample (c : CoreId) (tj : Int)
  | submissionCommit (req : Nat) (v : Word)
  | substatWrite (v : Word)
  | eqheadWrite (v : Word)
  | bar0RegisterWrite (req : Nat) (off : BitVec 16) (v : Word)
  /-- an offset in BAR2 -/
  | hostBar2Access (off : BitVec 36) (op : RemoteOp)
  | submissionTake (rd : PacketRead)
  | launchRelease (id : Nat)
  | replayRecord (c : CoreId)
  | taskEnd (c : CoreId)
  | eventQueueWrite
  | launchTimeout (id : Nat)
  | stealReport (id : Nat) (die : Fin 4)
  | contextSwitchOut (c : CoreId)
  | holdTimeout (c : CoreId)
  | contextRestore (img : Nat) (c : CoreId)
  | forwardingWindowEnd (img : Nat)
  | walkerQueueRetry (c : CoreId) (k : TlbKind) (t : StrandId)
  | tscReply (cl : Fin 256) (ans : TscAnswer)
  /-- every entry of `asid` whose page meets the addresses from `lo` to `hi` -/
  | shootdown (asid : BitVec 16) (lo hi : VAddr)
  | containmentFence (d x0 y0 w h : Nat)
  | containmentFenced (r : Nat)
  | containmentReset (r : Nat)
  | containmentTest (r : Nat)
  /-- `failed`: the global numbers of the cores whose pattern fails -/
  | containmentTestEnd (r : Nat) (failed : List Nat)
  | dualMismatch (c : CoreId)
  | dualPartnerTimeout (c : CoreId)
  | infieldTestStart (c : CoreId)
  | infieldTestAbort (c : CoreId)
  | infieldTestPass (c : CoreId)
  | infieldTestFail (c : CoreId)
  | infieldPassExpiry (c : CoreId)
  | softErrorCorrected (c : CoreId) (oct : Bool)
  | peerRequest (p : Fin 64) (pa : Nat) (op : RemoteOp)
  | linkPortDown (p : Fin 16)
  | peerNoPortTimeout (c : CoreId) (t : StrandId) (id : Nat)
  /-- the standby boots an image of `version` and can or cannot read the state table's version -/
  | liveUpdate (image : BootImage) (readable : Bool) (version : BitVec 32)
  | roleSwap
  | failover
  | coldStart (d : StartData)
  | warmStart (d : StartData)
  | accessPerformed (c : CoreId) (t : StrandId) (id : Nat)
  | accessReply (c : CoreId) (t : StrandId) (id : Nat)
  | nackResend (id : Nat)
  | detectedLinkError (id : Nat)
  | linkPortUp (p : Fin 16)
  deriving DecidableEq, Repr

end Sys2Proof
end

