-- ==== Sys2Proof/WellFormed.lean ====
section
/-!
DEFINITION. Codes of the small fields (Tables 3.4 to 3.8) and well-formedness: the limits of step 6 of Table 3.9 that the
fields' own types do not carry.
-/
namespace Sys2Proof

def Mode.code : Mode → Nat
  | .L => 0 | .C => 1 | .G => 2 | .N => 3
def Mode.of : Nat → Mode
  | 0 => .L | 1 => .C | 2 => .G | _ => .N
def Scope.code : Scope → Nat
  | .strand => 0 | .core => 1 | .cluster => 2 | .die => 3 | .package => 4 | .system => 5
def Scope.of : Nat → Option Scope
  | 0 => some .strand | 1 => some .core | 2 => some .cluster | 3 => some .die | 4 => some .package
  | 5 => some .system | _ => none
def Order.code : Order → Nat
  | .relaxed => 0 | .acq => 1 | .rel => 2 | .ar => 3
def Order.of : Nat → Order
  | 0 => .relaxed | 1 => .acq | 2 => .rel | _ => .ar
def FenceKind.code : FenceKind → Nat
  | .full => 0 | .acq => 1 | .rel => 2 | .eng => 3
def FenceKind.of : Nat → FenceKind
  | 0 => .full | 1 => .acq | 2 => .rel | _ => .eng
def BLevel.code : BLevel → Nat
  | .cluster => 0 | .die => 1 | .package => 2
def BLevel.of : Nat → Option BLevel
  | 0 => some .cluster | 1 => some .die | 2 => some .package | _ => none
def RClass.code : RClass → Nat
  | .x => 0 | .v => 1
def RClass.of : Nat → Option RClass
  | 0 => some .x | 1 => some .v | _ => none
/-- The scalar float code: 0 F32, 1 F16, 2 B16 (Table 3.5). -/
def FTy.code : FTy → Nat
  | .f32 => 0 | .f16 => 1 | .b16 => 2
def FTy.of : Nat → Option FTy
  | 0 => some .f32 | 1 => some .f16 | 2 => some .b16 | _ => none
/-- The curd-cell code: 0 FP32, 1 BF16, 2 FP16 (Table 3.6). -/
def FTy.cell : FTy → Nat
  | .f32 => 0 | .b16 => 1 | .f16 => 2
def FTy.ofCell : Nat → Option FTy
  | 0 => some .f32 | 1 => some .b16 | 2 => some .f16 | _ => none
/-- The element type code of a float (Table 3.4). -/
def FTy.codeV : FTy → Nat
  | .f32 => 8 | .f16 => 9 | .b16 => 10
def FTy.ofV : Nat → Option FTy
  | 8 => some .f32 | 9 => some .f16 | 10 => some .b16 | _ => none
def ITy.code : ITy → Nat
  | .i8 => 0 | .i16 => 1 | .i32 => 2 | .i64 => 3 | .n8 => 4 | .n16 => 5 | .n32 => 6 | .n64 => 7
def ITy.of : Nat → Option ITy
  | 0 => some .i8 | 1 => some .i16 | 2 => some .i32 | 3 => some .i64 | 4 => some .n8 | 5 => some .n16
  | 6 => some .n32 | 7 => some .n64 | _ => none
def ETy.code : ETy → Nat
  | .int t => t.code
  | .flt t => t.codeV
def ETy.of (n : Nat) : Option ETy :=
  match ITy.of n, FTy.ofV n with
  | some t, _ => some (.int t)
  | none, some t => some (.flt t)
  | none, none => none
def FCond.code : FCond → Nat
  | .eq => 0 | .lt => 1 | .le => 2 | .un => 3
def FCond.of : Nat → FCond
  | 0 => .eq | 1 => .lt | 2 => .le | _ => .un
def Width.code : Width → Nat
  | .w8 => 0 | .w16 => 1 | .w32 => 2 | .w64 => 3
def Width.of : Nat → Width
  | 0 => .w8 | 1 => .w16 | 2 => .w32 | _ => .w64
def RMode.code : RMode → Nat
  | .rne => 0 | .rtz => 1 | .rdn => 2 | .rup => 3 | .sr => 4
def RMode.of : Nat → Option RMode
  | 0 => some .rne | 1 => some .rtz | 2 => some .rdn | 3 => some .rup | 4 => some .sr | _ => none
def SfuFn.code : SfuFn → Nat
  | .recip => 0 | .rsqrt => 1 | .exp2 => 2 | .log2 => 3 | .sin => 4 | .cos => 5 | .tanh => 6 | .logistic => 7
def SfuFn.of : Nat → SfuFn
  | 0 => .recip | 1 => .rsqrt | 2 => .exp2 | 3 => .log2 | 4 => .sin | 5 => .cos | 6 => .tanh | _ => .logistic
def Semiring.code : Semiring → Nat
  | .plusTimes => 0 | .minPlus => 1 | .maxPlus => 2 | .maxTimes => 3 | .orAnd => 4
def Semiring.of : Nat → Option Semiring
  | 0 => some .plusTimes | 1 => some .minPlus | 2 => some .maxPlus | 3 => some .maxTimes | 4 => some .orAnd
  | _ => none
def ZFmt.code : ZFmt → Nat
  | .native => 0 | .b16 => 1 | .f16 => 2
def ZFmt.of : Nat → Option ZFmt
  | 0 => some .native | 1 => some .b16 | 2 => some .f16 | _ => none

/-- The limits of step 6 of Table 3.9 that the constructors' types leave open: the range of SPILL and FILL (R36), the request
of VCLAIM (R108), P0 as a destination (R40), and the modes L and C alone of RINGDEF and MPROG (Table 3.8). -/
def Instr.wf : Instr → Bool
  | .spill _ d c => d.val + c.val ≤ 31
  | .fill _ d c => d.val + c.val ≤ 31
  | .vclaim _ n => 4 ≤ n.toNat && n.toNat ≤ 64
  | .pset d _ _ => d.val != 0
  | .pseti d _ _ => d.val != 0
  | .ringdef _ _ _ m => m == .L || m == .C
  | .mprog _ m => m == .L || m == .C
  | _ => true

end Sys2Proof
end

