-- ==== Sys2Proof/Decode.lean ====
section
/-!
DEFINITION. Decoding of instruction words (03_encoding.md R30 to R42, Tables 3.1 to 3.8) and, after it, the encoder. Words are
natural numbers below 2^32; bit 31 is L. `decodeWord` answers for the word alone: step 4 of Table 3.9 (illegal opcode) and
step 6 (illegal function). The other steps of the table belong to the bundle (Machine/Bundle.lean).
-/
namespace Sys2Proof

/-- What a word decodes to. -/
inductive Dec where
  | instr (i : Instr)
  /-- step 4 of Table 3.9: fault 0x01 -/
  | opcode
  /-- step 6 of Table 3.9: fault 0x02 -/
  | func
  deriving DecidableEq, Repr

/-- Fields of Table 3.1. -/
def fd (w : Nat) : Nat := w / 2 ^ 18 % 32
def fa (w : Nat) : Nat := w / 2 ^ 13 % 32
def fb (w : Nat) : Nat := w / 2 ^ 8 % 32
def fn (w : Nat) : Nat := w % 256
def fe (w : Nat) : Nat := w % 32
def fD (w : Nat) : Nat := w % 2 ^ 23
def rd (w : Nat) : Reg := Fin.ofNat 32 (w / 2 ^ 18)
def ra (w : Nat) : Reg := Fin.ofNat 32 (w / 2 ^ 13)
def rb (w : Nat) : Reg := Fin.ofNat 32 (w / 2 ^ 8)
def pg (w : Nat) : Fin 8 := Fin.ofNat 8 (w / 2 ^ 5)
def i13 (w : Nat) : BitVec 13 := BitVec.ofNat 13 w
def i18 (w : Nat) : BitVec 18 := BitVec.ofNat 18 w
def tile (w : Nat) : Fin 2 := Fin.ofNat 2 (w / 2 ^ 8)
def flag (w k : Nat) : Bool := w / 2 ^ k % 2 == 1
def bit (b : Bool) : Nat := if b then 1 else 0

/-- The mode of forms A and E, fn[1:0], and of form G, [12:11] (R24). -/
def mode (w : Nat) : Mode := Mode.of (w % 4)
def modeG (w : Nat) : Mode := Mode.of (w / 2 ^ 11 % 4)

def guardD (c : Bool) (i : Instr) : Dec := if c then .instr i else .func
def ofOpt {α : Type} (o : Option α) (f : α → Dec) : Dec :=
  match o with
  | some a => f a
  | none => .func

/-- The control-class words, opcodes 0x00 to 0x7F (Tables 3.2 to 3.8). -/
def decodeControl (op w : Nat) : Dec :=
  match op with
  | 0x0 => guardD (fD w == 0) .nop
  | 0x1 => .instr (.bra (BitVec.ofNat 23 w))
  | 0x2 => .instr (.call (BitVec.ofNat 23 w))
  | 0x3 => guardD (fD w == 0) .ret
  | 0x4 => guardD (fd w == 0 && fb w == 0 && fn w == 0) (.jmpr (ra w))
  | 0x5 => guardD (fd w == 0 && fb w == 0 && fn w == 0) (.callr (ra w))
  | 0x6 => .instr (.beq (rd w) (ra w) (i13 w))
  | 0x7 => .instr (.bne (rd w) (ra w) (i13 w))
  | 0x8 => .instr (.blt (rd w) (ra w) (i13 w))
  | 0x9 => .instr (.bge (rd w) (ra w) (i13 w))
  | 0xa => .instr (.bltn (rd w) (ra w) (i13 w))
  | 0xb => .instr (.bgen (rd w) (ra w) (i13 w))
  | 0xc => .instr (.beqi (rd w) (BitVec.ofNat 5 (fa w)) (i13 w))
  | 0xd => .instr (.bnei (rd w) (BitVec.ofNat 5 (fa w)) (i13 w))
  | 0xe => .instr (.bz (rd w) (i18 w))
  | 0xf => .instr (.bnz (rd w) (i18 w))
  | 0x10 => guardD (fd w == 0 && w / 2 ^ 11 % 128 == 0) (.yield (BitVec.ofNat 10 w) (flag w 10))
  | 0x11 => guardD (fa w == 0 && w / 2 ^ 12 % 2 == 0) (.gets (rd w) (BitVec.ofNat 12 w))
  | 0x12 => guardD (fd w == 0 && w / 2 ^ 12 % 2 == 0) (.sets (BitVec.ofNat 12 w) (ra w))
  | 0x13 => guardD (w / 2 ^ 12 % 2 == 0) (.swaps (rd w) (BitVec.ofNat 12 w) (ra w))
  | 0x14 => guardD (fd w == 0 && w / 2 ^ 16 % 4 == 0) (.trap (BitVec.ofNat 16 w))
  | 0x15 => guardD (fD w == 0) .eret
  | 0x16 => guardD (fD w == 0) .uevret
  | 0x17 => guardD (fa w == 0 && fb w == 0 && fn w == 0) (.evwait (rd w))
  | 0x18 => guardD (fb w == 0 && fn w == 0) (.evmask (rd w) (ra w))
  | 0x19 => ofOpt (RClass.of (fn w)) fun c => guardD (fb w == 0 && fd w + fa w ≤ 31) (.spill c (rd w) (ra w))
  | 0x1a => ofOpt (RClass.of (fn w)) fun c => guardD (fb w == 0 && fd w + fa w ≤ 31) (.fill c (rd w) (ra w))
  | 0x1b => ofOpt (RClass.of (w % 2)) fun c => guardD (fb w == 0 && fn w / 4 == 0) (.mkrcap (rd w) (ra w) c (flag w 1))
  | 0x1c => guardD (fD w == 0) .rvoke
  | 0x1d => guardD (fd w == 0 && fn w == 0) (.iflush (ra w) (rb w))
  | 0x20 => .instr (.ld (rd w) (ra w) (modeG w) (BitVec.ofNat 11 w))
  | 0x21 => .instr (.lds (rd w) (ra w) (modeG w) (BitVec.ofNat 11 w))
  | 0x22 => .instr (.lda (rd w) (ra w) (modeG w) (BitVec.ofNat 11 w))
  | 0x23 => .instr (.lde (rd w) (ra w) (modeG w) (BitVec.ofNat 11 w))
  | 0x24 => .instr (.st (rd w) (ra w) (modeG w) (BitVec.ofNat 11 w))
  | 0x25 => .instr (.stf (rd w) (ra w) (modeG w) (BitVec.ofNat 11 w))
  | 0x26 => .instr (.stl (rd w) (ra w) (modeG w) (BitVec.ofNat 11 w))
  | 0x27 => .instr (.ldp (rd w) (ra w) (modeG w) (BitVec.ofNat 11 w))
  | 0x28 => .instr (.stp (rd w) (ra w) (modeG w) (BitVec.ofNat 11 w))
  | 0x29 => guardD (fd w == 0) (.pfch (ra w) (modeG w) (BitVec.ofNat 11 w))
  | 0x2a => guardD (fd w == 0 && fn w / 4 == 0) (.clfe (ra w) (rb w) (mode w))
  | 0x30 => ofOpt (Scope.of (w / 4 % 8)) fun s => .instr (.aadd (rd w) (ra w) (rb w) (flag w 7) (Order.of (w / 32 % 4)) s (mode w))
  | 0x31 => ofOpt (Scope.of (w / 4 % 8)) fun s => .instr (.aand (rd w) (ra w) (rb w) (flag w 7) (Order.of (w / 32 % 4)) s (mode w))
  | 0x32 => ofOpt (Scope.of (w / 4 % 8)) fun s => .instr (.aor (rd w) (ra w) (rb w) (flag w 7) (Order.of (w / 32 % 4)) s (mode w))
  | 0x33 => ofOpt (Scope.of (w / 4 % 8)) fun s => .instr (.axor (rd w) (ra w) (rb w) (flag w 7) (Order.of (w / 32 % 4)) s (mode w))
  | 0x34 => ofOpt (Scope.of (w / 4 % 8)) fun s => .instr (.amin (rd w) (ra w) (rb w) (flag w 7) (Order.of (w / 32 % 4)) s (mode w))
  | 0x35 => ofOpt (Scope.of (w / 4 % 8)) fun s => .instr (.amax (rd w) (ra w) (rb w) (flag w 7) (Order.of (w / 32 % 4)) s (mode w))
  | 0x36 => ofOpt (Scope.of (w / 4 % 8)) fun s => .instr (.aswp (rd w) (ra w) (rb w) (flag w 7) (Order.of (w / 32 % 4)) s (mode w))
  | 0x37 => ofOpt (Scope.of (w / 4 % 8)) fun s => .instr (.acas (rd w) (ra w) (rb w) (flag w 7) (Order.of (w / 32 % 4)) s (mode w))
  | 0x38 => ofOpt (FTy.ofCell (w / 32 % 4)) fun f => ofOpt (Scope.of (w / 4 % 8)) fun s => guardD (fd w == 0 && w / 128 % 2 == 0) (.accf (ra w) (rb w) f s (mode w))
  | 0x39 => ofOpt (FTy.ofCell (w / 32 % 4)) fun f => ofOpt (Scope.of (w / 4 % 8)) fun s => guardD (fb w == 0) (.cellrd (rd w) (ra w) (flag w 7) f s (mode w))
  | 0x3a => ofOpt (Scope.of (w / 4 % 8)) fun s => guardD (fd w == 0 && fa w == 0 && fb w == 0 && fn w / 32 == 0) (.fence (FenceKind.of (w % 4)) s)
  | 0x3b => ofOpt (Scope.of (w / 4 % 8)) fun s => guardD (fd w == 0 && fb w == 0 && fn w / 32 == 0) (.promote (ra w) s (mode w))
  | 0x3c => ofOpt (BLevel.of (w / 16 % 4)) fun lv => guardD (fd w == 0 && w / 64 % 4096 == 0) (.bar (BitVec.ofNat 4 w) lv)
  | 0x3d => ofOpt (BLevel.of (w / 16 % 4)) fun lv => guardD (fd w == 0 && w / 64 % 4096 == 0) (.bari (BitVec.ofNat 4 w) lv)
  | 0x3e => ofOpt (BLevel.of (w / 16 % 4)) fun lv => guardD (fd w == 0 && w / 64 % 4096 == 0) (.barw (BitVec.ofNat 4 w) lv)
  | 0x3f => ofOpt (BLevel.of (w / 16 % 4)) fun lv => guardD (w / 64 % 4096 == 0) (.bset (rd w) (BitVec.ofNat 4 w) lv)
  | 0x40 => guardD (fb w == 0 && fn w == 0) (.send (rd w) (ra w))
  | 0x41 => guardD (fd w == 0 && fn w == 0) (.rsend (ra w) (rb w))
  | 0x42 => guardD (fd w == 0 && fe w == 0) (.rsendv (ra w) (rb w) (pg w))
  | 0x43 => guardD (fa w == 0 && fb w == 0 && fn w == 0) (.recv (rd w))
  | 0x44 => guardD (fa w == 0 && fb w == 0 && fn w == 0) (.rpeek (rd w))
  | 0x45 => guardD (fD w == 0) .rack
  | 0x46 => guardD (fb w == 0 && fn w == 0) (.post (rd w) (ra w))
  | 0x47 => guardD (fa w == 0 && fb w == 0 && fn w / 2 == 0) (.take (rd w) (flag w 0))
  | 0x48 => guardD (fa w == 0 && fb w == 0 && fn w == 0) (.next (rd w))
  | 0x49 => guardD (fb w == 0 && fn w == 0) (.mcast (rd w) (ra w))
  | 0x4a => guardD (fd w == 0 && fb w == 0 && fn w / 8 == 0) (.msgmov (ra w) (flag w 2) (mode w))
  | 0x4b => guardD (fd w == 0 && w / 16 % 16384 == 0) (.xphase (BitVec.ofNat 4 w))
  | 0x4c => guardD (w / 16 % 2 == 0) (.xmit (BitVec.ofNat 13 (w / 2 ^ 10)) (Fin.ofNat 32 (w / 32)) (BitVec.ofNat 4 w))
  | 0x4d => .instr (.xsel (BitVec.ofNat 13 (w / 2 ^ 10)) (Fin.ofNat 32 (w / 32)) (BitVec.ofNat 5 w))
  | 0x4e => guardD (fD w == 0) .xend
  | 0x50 => guardD (w % 4 == 0) (.cpy (rd w) (ra w) (rb w) (flag w 7) (flag w 6) (Mode.of (w / 16 % 4)) (Mode.of (w / 4 % 4)))
  | 0x51 => guardD (fd w / 4 == 0 && w % 16 == 0) (.cpys (Fin.ofNat 4 (fd w)) (ra w) (rb w) (flag w 7) (flag w 6) (Mode.of (w / 16 % 4)))
  | 0x52 => guardD (w % 4 == 0) (.cpyg (rd w) (ra w) (rb w) (flag w 7) (flag w 6) (Mode.of (w / 16 % 4)) (Mode.of (w / 4 % 4)))
  | 0x53 => guardD (w % 4 == 0) (.cpysc (rd w) (ra w) (rb w) (flag w 7) (flag w 6) (Mode.of (w / 16 % 4)) (Mode.of (w / 4 % 4)))
  | 0x54 => guardD (fa w == 0 && fb w == 0 && fn w == 0) (.cpyq (rd w))
  | 0x55 => guardD (fd w / 4 == 0 && fn w / 2 == 0) (.ringdef (Fin.ofNat 4 (fd w)) (ra w) (rb w) (mode w))
  | 0x56 => guardD (fa w / 4 == 0 && fb w == 0 && fn w == 0) (.ringst (rd w) (Fin.ofNat 4 (fa w)))
  | 0x57 => guardD (fd w == 0 && w / 64 % 128 == 0) (.tguard (ra w) (BitVec.ofNat 6 w))
  | 0x58 => guardD (fd w == 0 && w / 64 % 128 == 0) (.tslot (ra w) (BitVec.ofNat 6 w))
  | 0x59 => guardD (fd w == 0 && fn w == 0) (.cbinit (ra w) (rb w))
  | 0x5a => guardD (fb w == 0 && fn w == 0) (.cbwait (rd w) (ra w))
  | 0x5b => guardD (fb w == 0 && fn w == 0) (.cbtest (rd w) (ra w))
  | 0x60 => guardD (fb w == 0 && fe w / 4 == 0) (.vld (rd w) (ra w) (pg w) (mode w))
  | 0x61 => guardD (fe w / 4 == 0) (.vlds (rd w) (ra w) (rb w) (pg w) (mode w))
  | 0x62 => guardD (fe w / 4 == 0) (.vldg (rd w) (ra w) (rb w) (pg w) (mode w))
  | 0x63 => guardD (fb w == 0 && fe w / 4 == 0) (.vst (rd w) (ra w) (pg w) (mode w))
  | 0x64 => guardD (fe w / 4 == 0) (.vsts (rd w) (ra w) (rb w) (pg w) (mode w))
  | 0x65 => guardD (fe w / 4 == 0) (.vstg (rd w) (ra w) (rb w) (pg w) (mode w))
  | 0x66 => guardD (fb w == 0 && fe w / 4 == 0) (.vldb (rd w) (ra w) (pg w) (mode w))
  | 0x67 => guardD (fb w == 0 && fe w / 4 == 0) (.vldsy (rd w) (ra w) (pg w) (mode w))
  | 0x70 => guardD (w / 128 % 2048 == 0 && (4 ≤ w % 128 && w % 128 ≤ 64)) (.vclaim (rd w) (BitVec.ofNat 7 w))
  | 0x71 => guardD (fD w == 0) .vfree
  | 0x72 => guardD (fd w == 0 && w / 256 % 32 == 0) (.vseq (ra w) (BitVec.ofNat 4 w) (BitVec.ofNat 4 (w / 16)))
  | 0x73 => guardD (fd w == 0 && w / 256 % 32 == 0) (.vrep (ra w) (BitVec.ofNat 4 w) (BitVec.ofNat 4 (w / 16)))
  | 0x74 => guardD (fd w / 8 == 0 && fd w != 0 && fb w == 0 && fn w / 4 == 0) (.pset (Fin.ofNat 8 (fd w)) (ra w) (Width.of (w % 4)))
  | 0x75 => guardD (fd w / 8 == 0 && fd w != 0) (.pseti (Fin.ofNat 8 (fd w)) (BitVec.ofNat 16 w) (Width.of (w / 2 ^ 16 % 4)))
  | 0x76 => guardD (fa w / 8 == 0 && fb w == 0 && fn w == 0) (.pget (rd w) (Fin.ofNat 8 (fa w)))
  | 0x77 => guardD (fd w == 0 && w / 16 % 16384 == 0) (.rbset (BitVec.ofNat 4 w))
  | 0x78 => guardD (fa w == 0 && fb w == 0 && fn w == 0) (.rbget (rd w))
  | 0x79 => guardD (fd w == 0 && fb w == 0 && fn w / 4 == 0) (.dtload (ra w) (mode w))
  | _ => .opcode

/-- The arithmetic-class words, opcodes 0x80 to 0xFF (Tables 3.2 to 3.8). -/
def decodeArith (op w : Nat) : Dec :=
  match op with
  | 0x80 => guardD (fn w / 2 == 0) (.add (rd w) (ra w) (rb w) (flag w 0))
  | 0x81 => .instr (.addi (rd w) (ra w) (i13 w))
  | 0x82 => guardD (fn w / 2 == 0) (.sub (rd w) (ra w) (rb w) (flag w 0))
  | 0x83 => guardD (fn w / 2 == 0) (.mul (rd w) (ra w) (rb w) (flag w 0))
  | 0x84 => guardD (fn w / 2 == 0) (.mulh (rd w) (ra w) (rb w) (flag w 0))
  | 0x85 => guardD (fn w / 2 == 0) (.mulhn (rd w) (ra w) (rb w) (flag w 0))
  | 0x86 => guardD (fn w / 2 == 0) (.div (rd w) (ra w) (rb w) (flag w 0))
  | 0x87 => guardD (fn w / 2 == 0) (.divn (rd w) (ra w) (rb w) (flag w 0))
  | 0x88 => guardD (fn w / 2 == 0) (.rem (rd w) (ra w) (rb w) (flag w 0))
  | 0x89 => guardD (fn w / 2 == 0) (.remn (rd w) (ra w) (rb w) (flag w 0))
  | 0x8a => guardD (fn w == 0) (.and (rd w) (ra w) (rb w))
  | 0x8b => .instr (.andi (rd w) (ra w) (i13 w))
  | 0x8c => guardD (fn w == 0) (.or (rd w) (ra w) (rb w))
  | 0x8d => .instr (.ori (rd w) (ra w) (i13 w))
  | 0x8e => guardD (fn w == 0) (.xor (rd w) (ra w) (rb w))
  | 0x8f => .instr (.xori (rd w) (ra w) (i13 w))
  | 0x90 => guardD (fn w / 2 == 0) (.shl (rd w) (ra w) (rb w) (flag w 0))
  | 0x91 => guardD (w / 64 % 128 == 0) (.shli (rd w) (ra w) (BitVec.ofNat 6 w))
  | 0x92 => guardD (fn w / 2 == 0) (.shr (rd w) (ra w) (rb w) (flag w 0))
  | 0x93 => guardD (w / 64 % 128 == 0) (.shri (rd w) (ra w) (BitVec.ofNat 6 w))
  | 0x94 => guardD (fn w / 2 == 0) (.sra (rd w) (ra w) (rb w) (flag w 0))
  | 0x95 => guardD (w / 64 % 128 == 0) (.srai (rd w) (ra w) (BitVec.ofNat 6 w))
  | 0x96 => guardD (fn w == 0) (.slt (rd w) (ra w) (rb w))
  | 0x97 => guardD (fn w == 0) (.sltn (rd w) (ra w) (rb w))
  | 0x98 => .instr (.slti (rd w) (ra w) (i13 w))
  | 0x99 => guardD (fn w == 0) (.min (rd w) (ra w) (rb w))
  | 0x9a => guardD (fn w == 0) (.max (rd w) (ra w) (rb w))
  | 0x9b => .instr (.movi (rd w) (i18 w))
  | 0x9c => .instr (.movhi (rd w) (i18 w))
  | 0x9d => guardD (fb w == 0 && fn w == 0) (.clz (rd w) (ra w))
  | 0x9e => guardD (fb w == 0 && fn w == 0) (.popc (rd w) (ra w))
  | 0x9f => guardD (fn w == 0) (.padd (rd w) (ra w) (rb w))
  | 0xa0 => .instr (.paddi (rd w) (ra w) (i13 w))
  | 0xa1 => guardD (w / 1024 % 8 == 0) (.ptag (rd w) (ra w) (BitVec.ofNat 6 w) (BitVec.ofNat 4 (w / 64)))
  | 0xa2 => guardD (fb w == 0 && fn w == 0) (.pstrip (rd w) (ra w))
  | 0xa3 => guardD (fn w == 0) (.sel (rd w) (ra w) (rb w))
  | 0xa4 => ofOpt (FTy.of (w % 4)) fun t => guardD (fn w / 8 == 0) (.fadd (rd w) (ra w) (rb w) t (flag w 2))
  | 0xa5 => ofOpt (FTy.of (w % 4)) fun t => guardD (fn w / 8 == 0) (.fmul (rd w) (ra w) (rb w) t (flag w 2))
  | 0xa6 => ofOpt (FTy.of (w % 4)) fun t => guardD (fn w / 8 == 0) (.fma (rd w) (ra w) (rb w) t (flag w 2))
  | 0xa7 => ofOpt (ETy.of (w % 16)) fun dt => ofOpt (ETy.of (fb w % 16)) fun st => guardD (fb w / 16 == 0 && fn w / 32 == 0) (.fcvt (rd w) (ra w) dt st (flag w 4))
  | 0xa8 => ofOpt (FTy.of (w % 4)) fun t => guardD (fn w / 16 == 0) (.fcmp (rd w) (ra w) (rb w) t (FCond.of (w / 4 % 4)))
  | 0xa9 => ofOpt (ITy.of (w / 2 % 16)) fun t => .instr (.vadd (rd w) (ra w) (rb w) (pg w) t (flag w 0))
  | 0xaa => ofOpt (ITy.of (w / 2 % 16)) fun t => .instr (.vsub (rd w) (ra w) (rb w) (pg w) t (flag w 0))
  | 0xab => ofOpt (ITy.of (w / 2 % 16)) fun t => guardD (w % 2 == 0) (.vmul (rd w) (ra w) (rb w) (pg w) t)
  | 0xac => ofOpt (ITy.of (w / 2 % 16)) fun t => guardD (w % 2 == 0) (.vmulh (rd w) (ra w) (rb w) (pg w) t)
  | 0xad => ofOpt (ITy.of (w / 2 % 16)) fun t => guardD (w % 2 == 0) (.vand (rd w) (ra w) (rb w) (pg w) t)
  | 0xae => ofOpt (ITy.of (w / 2 % 16)) fun t => guardD (w % 2 == 0) (.vor (rd w) (ra w) (rb w) (pg w) t)
  | 0xaf => ofOpt (ITy.of (w / 2 % 16)) fun t => guardD (w % 2 == 0) (.vxor (rd w) (ra w) (rb w) (pg w) t)
  | 0xb0 => ofOpt (ITy.of (w / 2 % 16)) fun t => guardD (w % 2 == 0) (.vshl (rd w) (ra w) (rb w) (pg w) t)
  | 0xb1 => ofOpt (ITy.of (w / 2 % 16)) fun t => guardD (w % 2 == 0) (.vshr (rd w) (ra w) (rb w) (pg w) t)
  | 0xb2 => ofOpt (ITy.of (w / 2 % 16)) fun t => guardD (w % 2 == 0) (.vsra (rd w) (ra w) (rb w) (pg w) t)
  | 0xb3 => ofOpt (ITy.of (w / 2 % 16)) fun t => guardD (w % 2 == 0) (.vmin (rd w) (ra w) (rb w) (pg w) t)
  | 0xb4 => ofOpt (ITy.of (w / 2 % 16)) fun t => guardD (w % 2 == 0) (.vmax (rd w) (ra w) (rb w) (pg w) t)
  | 0xb5 => ofOpt (ITy.of (w / 2 % 16)) fun t => .instr (.vcmp (rd w) (ra w) (rb w) (pg w) t (flag w 0))
  | 0xb6 => ofOpt (ITy.of (w / 2 % 16)) fun t => guardD (w % 2 == 0) (.vsel (rd w) (ra w) (rb w) (pg w) t)
  | 0xb7 => ofOpt (ITy.of (w / 2 % 16)) fun t => guardD (fb w == 0 && w % 2 == 0) (.vbcst (rd w) (ra w) (pg w) t)
  | 0xb8 => ofOpt (ITy.of (w / 2 % 16)) fun t => guardD (w % 2 == 0) (.vext (rd w) (ra w) (rb w) (pg w) t)
  | 0xb9 => ofOpt (ITy.of (w / 2 % 16)) fun t => guardD (w % 2 == 0) (.vperm (rd w) (ra w) (rb w) (pg w) t)
  | 0xba => ofOpt (ITy.of (w / 2 % 16)) fun t => .instr (.vslide (rd w) (ra w) (rb w) (pg w) t (flag w 0))
  | 0xbb => ofOpt (ITy.of (w / 2 % 16)) fun t => guardD (fa w == 0 && fb w == 0 && w % 2 == 0) (.viota (rd w) (pg w) t)
  | 0xbc => ofOpt (FTy.ofV (w / 2 % 16)) fun t => .instr (.vfadd (rd w) (ra w) (rb w) (pg w) t (flag w 0))
  | 0xbd => ofOpt (FTy.ofV (w / 2 % 16)) fun t => .instr (.vfsub (rd w) (ra w) (rb w) (pg w) t (flag w 0))
  | 0xbe => ofOpt (FTy.ofV (w / 2 % 16)) fun t => .instr (.vfmul (rd w) (ra w) (rb w) (pg w) t (flag w 0))
  | 0xbf => ofOpt (FTy.ofV (w / 2 % 16)) fun t => .instr (.vfma (rd w) (ra w) (rb w) (pg w) t (flag w 0))
  | 0xc0 => ofOpt (FTy.ofV (w / 2 % 16)) fun t => .instr (.vfms (rd w) (ra w) (rb w) (pg w) t (flag w 0))
  | 0xc1 => ofOpt (FTy.ofV (w / 2 % 16)) fun t => guardD (w % 2 == 0) (.vfmin (rd w) (ra w) (rb w) (pg w) t)
  | 0xc2 => ofOpt (FTy.ofV (w / 2 % 16)) fun t => guardD (w % 2 == 0) (.vfmax (rd w) (ra w) (rb w) (pg w) t)
  | 0xc3 => ofOpt (FTy.ofV (w / 2 % 16)) fun t => guardD (fb w == 0 && w % 2 == 0) (.vfabs (rd w) (ra w) (pg w) t)
  | 0xc4 => ofOpt (FTy.ofV (w / 2 % 16)) fun t => .instr (.vfcmp (rd w) (ra w) (rb w) (pg w) t (flag w 0))
  | 0xc5 => ofOpt (ETy.of (w / 2 % 16)) fun dt => ofOpt (ETy.of (fb w % 16)) fun st => guardD (fb w / 16 == 0) (.vfcvt (rd w) (ra w) (pg w) dt st (flag w 0))
  | 0xc6 => ofOpt (FTy.ofV (w / 2 % 16)) fun t => ofOpt (RMode.of (fb w)) fun r => guardD (w % 2 == 0) (.vfrnd (rd w) (ra w) (pg w) t r)
  | 0xc7 => ofOpt (FTy.ofV (w / 2 % 16)) fun t => guardD (w % 2 == 0) (.vaddx (rd w) (ra w) (rb w) (pg w) t)
  | 0xc8 => ofOpt (FTy.ofV (w / 2 % 16)) fun t => guardD (w % 2 == 0) (.vsubx (rd w) (ra w) (rb w) (pg w) t)
  | 0xc9 => ofOpt (FTy.ofV (w / 2 % 16)) fun t => guardD (w % 2 == 0) (.vmulx (rd w) (ra w) (rb w) (pg w) t)
  | 0xca => guardD (fe w == 16) (.dwadd (rd w) (ra w) (rb w) (pg w))
  | 0xcb => guardD (fe w == 16) (.dwsub (rd w) (ra w) (rb w) (pg w))
  | 0xcc => guardD (fe w == 16) (.dwmul (rd w) (ra w) (rb w) (pg w))
  | 0xcd => guardD (fb w == 0 && fe w == 16) (.dwnorm (rd w) (ra w) (pg w))
  | 0xce => ofOpt (FTy.ofV (w / 2 % 16)) fun t => guardD (fb w == 0 && w % 2 == 0) (.vsum (rd w) (ra w) (pg w) t)
  | 0xcf => guardD (fb w == 0 && fe w == 16) (.vsumc (rd w) (ra w) (pg w))
  | 0xd0 => ofOpt (FTy.ofV (w / 2 % 16)) fun t => guardD (fb w == 0 && w % 2 == 0) (.vredmax (rd w) (ra w) (pg w) t)
  | 0xd1 => ofOpt (FTy.ofV (w / 2 % 16)) fun t => .instr (.vscale (rd w) (ra w) (rb w) (pg w) t (flag w 0))
  | 0xd2 => ofOpt (FTy.ofV (w / 2 % 16)) fun t => guardD (fb w / 8 == 0 && w % 2 == 0) (.vsfu (rd w) (ra w) (pg w) t (SfuFn.of (fb w % 8)))
  | 0xd3 => guardD (fd w == 0 && fa w == 0 && fb w / 2 == 0 && fn w == 0) (.mzero (tile w))
  | 0xd4 => guardD (fd w / 4 == 0 && fa w / 4 == 0 && fb w / 2 == 0 && fn w / 2 == 0) (.mma (tile w) (Fin.ofNat 4 (fd w)) (Fin.ofNat 4 (fa w)) (flag w 0))
  | 0xd5 => guardD (fd w / 4 == 0 && fa w / 4 == 0 && fb w / 2 == 0 && fn w / 2 == 0) (.mmas (tile w) (Fin.ofNat 4 (fd w)) (Fin.ofNat 4 (fa w)) (flag w 0))
  | 0xd6 => ofOpt (Semiring.of (fn w)) fun s => guardD (fd w == 0 && fa w == 0 && fb w == 0) (.msemi s)
  | 0xd7 => guardD (fa w == 0 && fb w == 0 && fn w / 2 == 0) (.mprog (rd w) (mode w))
  | 0xd8 => guardD (fd w / 4 == 0 && fa w / 4 == 0 && fb w / 2 == 0 && fn w / 2 == 0) (.mrun (tile w) (Fin.ofNat 4 (fd w)) (Fin.ofNat 4 (fa w)) (flag w 0))
  | 0xd9 => ofOpt (ZFmt.of (w / 4 % 4)) fun f => guardD (fa w == 0 && fb w / 2 == 0 && fn w / 16 == 0) (.mstz (rd w) (tile w) (mode w) f)
  | 0xda => guardD (fa w == 0 && fb w / 2 == 0 && fn w / 4 == 0) (.mldz (tile w) (rd w) (mode w))
  | 0xdb => guardD (fa w == 0 && fb w / 2 == 0 && fn w / 16 == 0) (.mmovzv (rd w) (tile w) (BitVec.ofNat 4 w))
  | 0xdc => guardD (fd w == 0 && fa w == 0 && fb w == 0 && fn w == 0) .msync
  | 0xdd => guardD (fa w == 0 && fb w == 0 && fn w == 0) (.mstat (rd w))
  | _ => .opcode

/-- A word's instruction, or why it is none; L plays no part (R42). -/
def decodeWord (w : Nat) : Dec :=
  if w / 2 ^ 23 % 256 < 0x80 then decodeControl (w / 2 ^ 23 % 256) w else decodeArith (w / 2 ^ 23 % 256) w

/-- Forms A and H share their bit places: [22:18], [17:13], [12:8] and fn (Table 3.1). -/
def encA (op d a b f : Nat) : Nat := op * 2 ^ 23 + d * 2 ^ 18 + a * 2 ^ 13 + b * 2 ^ 8 + f
def encB (op d a i : Nat) : Nat := op * 2 ^ 23 + d * 2 ^ 18 + a * 2 ^ 13 + i
def encC (op d i : Nat) : Nat := op * 2 ^ 23 + d * 2 ^ 18 + i
def encD (op i : Nat) : Nat := op * 2 ^ 23 + i
def encE (op d a b p f : Nat) : Nat := op * 2 ^ 23 + d * 2 ^ 18 + a * 2 ^ 13 + b * 2 ^ 8 + p * 2 ^ 5 + f
def encG (op d b m off : Nat) : Nat := op * 2 ^ 23 + d * 2 ^ 18 + b * 2 ^ 13 + m * 2 ^ 11 + off
def encK (op slot lane sel : Nat) : Nat := op * 2 ^ 23 + slot * 2 ^ 10 + lane * 2 ^ 5 + sel

/-- Bits [30:0] of an instruction's word (Tables 3.1 to 3.8); an event has no word. -/
def encode (i : Instr) : Nat :=
  match i with
  | .nop => encD 0x0 0
  | .bra off => encD 0x1 off.toNat
  | .call off => encD 0x2 off.toNat
  | .ret => encD 0x3 0
  | .jmpr a => encA 0x4 0 a 0 0
  | .callr a => encA 0x5 0 a 0 0
  | .beq d a off => encB 0x6 d a off.toNat
  | .bne d a off => encB 0x7 d a off.toNat
  | .blt d a off => encB 0x8 d a off.toNat
  | .bge d a off => encB 0x9 d a off.toNat
  | .bltn d a off => encB 0xa d a off.toNat
  | .bgen d a off => encB 0xb d a off.toNat
  | .beqi d i off => encB 0xc d i.toNat off.toNat
  | .bnei d i off => encB 0xd d i.toNat off.toNat
  | .bz d off => encC 0xe d off.toNat
  | .bnz d off => encC 0xf d off.toNat
  | .yield dl kv => encC 0x10 0 (dl.toNat + 2 ^ 10 * bit kv)
  | .gets d s => encB 0x11 d 0 s.toNat
  | .sets s a => encB 0x12 0 a s.toNat
  | .swaps d s a => encB 0x13 d a s.toNat
  | .trap n => encC 0x14 0 n.toNat
  | .eret => encD 0x15 0
  | .uevret => encD 0x16 0
  | .evwait d => encA 0x17 d 0 0 0
  | .evmask d a => encA 0x18 d a 0 0
  | .spill c d k => encA 0x19 d k 0 c.code
  | .fill c d k => encA 0x1a d k 0 c.code
  | .mkrcap d a c wm => encA 0x1b d a 0 (c.code + 2 * bit wm)
  | .rvoke => encD 0x1c 0
  | .iflush a b => encA 0x1d 0 a b 0
  | .ld d b m off => encG 0x20 d b m.code off.toNat
  | .lds d b m off => encG 0x21 d b m.code off.toNat
  | .lda d b m off => encG 0x22 d b m.code off.toNat
  | .lde d b m off => encG 0x23 d b m.code off.toNat
  | .st d b m off => encG 0x24 d b m.code off.toNat
  | .stf d b m off => encG 0x25 d b m.code off.toNat
  | .stl d b m off => encG 0x26 d b m.code off.toNat
  | .ldp d b m off => encG 0x27 d b m.code off.toNat
  | .stp d b m off => encG 0x28 d b m.code off.toNat
  | .pfch b m off => encG 0x29 0 b m.code off.toNat
  | .clfe a b m => encA 0x2a 0 a b m.code
  | .aadd d a b W o s m => encA 0x30 d a b (128 * bit W + 32 * o.code + 4 * s.code + m.code)
  | .aand d a b W o s m => encA 0x31 d a b (128 * bit W + 32 * o.code + 4 * s.code + m.code)
  | .aor d a b W o s m => encA 0x32 d a b (128 * bit W + 32 * o.code + 4 * s.code + m.code)
  | .axor d a b W o s m => encA 0x33 d a b (128 * bit W + 32 * o.code + 4 * s.code + m.code)
  | .amin d a b W o s m => encA 0x34 d a b (128 * bit W + 32 * o.code + 4 * s.code + m.code)
  | .amax d a b W o s m => encA 0x35 d a b (128 * bit W + 32 * o.code + 4 * s.code + m.code)
  | .aswp d a b W o s m => encA 0x36 d a b (128 * bit W + 32 * o.code + 4 * s.code + m.code)
  | .acas d a b W o s m => encA 0x37 d a b (128 * bit W + 32 * o.code + 4 * s.code + m.code)
  | .accf a b f s m => encA 0x38 0 a b (32 * f.cell + 4 * s.code + m.code)
  | .cellrd d a c f s m => encA 0x39 d a 0 (128 * bit c + 32 * f.cell + 4 * s.code + m.code)
  | .fence k s => encA 0x3a 0 0 0 (4 * s.code + k.code)
  | .promote a s m => encA 0x3b 0 a 0 (4 * s.code + m.code)
  | .bar k lv => encC 0x3c 0 (k.toNat + 16 * lv.code)
  | .bari k lv => encC 0x3d 0 (k.toNat + 16 * lv.code)
  | .barw k lv => encC 0x3e 0 (k.toNat + 16 * lv.code)
  | .bset d k lv => encC 0x3f d (k.toNat + 16 * lv.code)
  | .send d a => encA 0x40 d a 0 0
  | .rsend a b => encA 0x41 0 a b 0
  | .rsendv a b pg => encE 0x42 0 a b pg 0
  | .recv d => encA 0x43 d 0 0 0
  | .rpeek d => encA 0x44 d 0 0 0
  | .rack => encD 0x45 0
  | .post d a => encA 0x46 d a 0 0
  | .take d wt => encA 0x47 d 0 0 (bit wt)
  | .next d => encA 0x48 d 0 0 0
  | .mcast d a => encA 0x49 d a 0 0
  | .msgmov a s m => encA 0x4a 0 a 0 (4 * bit s + m.code)
  | .xphase k => encC 0x4b 0 k.toNat
  | .xmit s l g => encK 0x4c s.toNat l g.toNat
  | .xsel s l e => encK 0x4d s.toNat l e.toNat
  | .xend => encD 0x4e 0
  | .cpy a b c cl ev sm dm => encA 0x50 a b c (128 * bit cl + 64 * bit ev + 16 * sm.code + 4 * dm.code)
  | .cpys g b c cl ev sm => encA 0x51 g b c (128 * bit cl + 64 * bit ev + 16 * sm.code)
  | .cpyg a b c cl ev sm dm => encA 0x52 a b c (128 * bit cl + 64 * bit ev + 16 * sm.code + 4 * dm.code)
  | .cpysc a b c cl ev sm dm => encA 0x53 a b c (128 * bit cl + 64 * bit ev + 16 * sm.code + 4 * dm.code)
  | .cpyq d => encA 0x54 d 0 0 0
  | .ringdef g b c m => encA 0x55 g b c m.code
  | .ringst d g => encA 0x56 d g 0 0
  | .tguard a i => encB 0x57 0 a i.toNat
  | .tslot a i => encB 0x58 0 a i.toNat
  | .cbinit a b => encA 0x59 0 a b 0
  | .cbwait d a => encA 0x5a d a 0 0
  | .cbtest d a => encA 0x5b d a 0 0
  | .vld d a pg m => encE 0x60 d a 0 pg m.code
  | .vlds d a b pg m => encE 0x61 d a b pg m.code
  | .vldg d a b pg m => encE 0x62 d a b pg m.code
  | .vst d a pg m => encE 0x63 d a 0 pg m.code
  | .vsts d a b pg m => encE 0x64 d a b pg m.code
  | .vstg d a b pg m => encE 0x65 d a b pg m.code
  | .vldb d a pg m => encE 0x66 d a 0 pg m.code
  | .vldsy d a pg m => encE 0x67 d a 0 pg m.code
  | .vclaim d n => encC 0x70 d n.toNat
  | .vfree => encD 0x71 0
  | .vseq a len st => encB 0x72 0 a (len.toNat + 16 * st.toNat)
  | .vrep a len st => encB 0x73 0 a (len.toNat + 16 * st.toNat)
  | .pset d a t => encA 0x74 d a 0 t.code
  | .pseti d c t => encC 0x75 d (c.toNat + 2 ^ 16 * t.code)
  | .pget d a => encA 0x76 d a 0 0
  | .rbset v => encC 0x77 0 v.toNat
  | .rbget d => encA 0x78 d 0 0 0
  | .dtload a m => encA 0x79 0 a 0 m.code
  | .add d a b W => encA 0x80 d a b (bit W)
  | .addi d a i => encB 0x81 d a i.toNat
  | .sub d a b W => encA 0x82 d a b (bit W)
  | .mul d a b W => encA 0x83 d a b (bit W)
  | .mulh d a b W => encA 0x84 d a b (bit W)
  | .mulhn d a b W => encA 0x85 d a b (bit W)
  | .div d a b W => encA 0x86 d a b (bit W)
  | .divn d a b W => encA 0x87 d a b (bit W)
  | .rem d a b W => encA 0x88 d a b (bit W)
  | .remn d a b W => encA 0x89 d a b (bit W)
  | .and d a b => encA 0x8a d a b 0
  | .andi d a i => encB 0x8b d a i.toNat
  | .or d a b => encA 0x8c d a b 0
  | .ori d a i => encB 0x8d d a i.toNat
  | .xor d a b => encA 0x8e d a b 0
  | .xori d a i => encB 0x8f d a i.toNat
  | .shl d a b W => encA 0x90 d a b (bit W)
  | .shli d a s => encB 0x91 d a s.toNat
  | .shr d a b W => encA 0x92 d a b (bit W)
  | .shri d a s => encB 0x93 d a s.toNat
  | .sra d a b W => encA 0x94 d a b (bit W)
  | .srai d a s => encB 0x95 d a s.toNat
  | .slt d a b => encA 0x96 d a b 0
  | .sltn d a b => encA 0x97 d a b 0
  | .slti d a i => encB 0x98 d a i.toNat
  | .min d a b => encA 0x99 d a b 0
  | .max d a b => encA 0x9a d a b 0
  | .movi d i => encC 0x9b d i.toNat
  | .movhi d i => encC 0x9c d i.toNat
  | .clz d a => encA 0x9d d a 0 0
  | .popc d a => encA 0x9e d a 0 0
  | .padd d a b => encA 0x9f d a b 0
  | .paddi d a i => encB 0xa0 d a i.toNat
  | .ptag d a f e => encB 0xa1 d a (f.toNat + 64 * e.toNat)
  | .pstrip d a => encA 0xa2 d a 0 0
  | .sel d a b => encA 0xa3 d a b 0
  | .fadd d a b t sr => encA 0xa4 d a b (t.code + 4 * bit sr)
  | .fmul d a b t sr => encA 0xa5 d a b (t.code + 4 * bit sr)
  | .fma d a b t sr => encA 0xa6 d a b (t.code + 4 * bit sr)
  | .fcvt d a dt st sr => encA 0xa7 d a st.code (dt.code + 16 * bit sr)
  | .fcmp d a b t c => encA 0xa8 d a b (t.code + 4 * c.code)
  | .vadd d a b pg t x => encE 0xa9 d a b pg (2 * t.code + bit x)
  | .vsub d a b pg t x => encE 0xaa d a b pg (2 * t.code + bit x)
  | .vmul d a b pg t => encE 0xab d a b pg (2 * t.code)
  | .vmulh d a b pg t => encE 0xac d a b pg (2 * t.code)
  | .vand d a b pg t => encE 0xad d a b pg (2 * t.code)
  | .vor d a b pg t => encE 0xae d a b pg (2 * t.code)
  | .vxor d a b pg t => encE 0xaf d a b pg (2 * t.code)
  | .vshl d a b pg t => encE 0xb0 d a b pg (2 * t.code)
  | .vshr d a b pg t => encE 0xb1 d a b pg (2 * t.code)
  | .vsra d a b pg t => encE 0xb2 d a b pg (2 * t.code)
  | .vmin d a b pg t => encE 0xb3 d a b pg (2 * t.code)
  | .vmax d a b pg t => encE 0xb4 d a b pg (2 * t.code)
  | .vcmp d a b pg t x => encE 0xb5 d a b pg (2 * t.code + bit x)
  | .vsel d a b pg t => encE 0xb6 d a b pg (2 * t.code)
  | .vbcst d a pg t => encE 0xb7 d a 0 pg (2 * t.code)
  | .vext d a b pg t => encE 0xb8 d a b pg (2 * t.code)
  | .vperm d a b pg t => encE 0xb9 d a b pg (2 * t.code)
  | .vslide d a b pg t x => encE 0xba d a b pg (2 * t.code + bit x)
  | .viota d pg t => encE 0xbb d 0 0 pg (2 * t.code)
  | .vfadd d a b pg t x => encE 0xbc d a b pg (2 * t.codeV + bit x)
  | .vfsub d a b pg t x => encE 0xbd d a b pg (2 * t.codeV + bit x)
  | .vfmul d a b pg t x => encE 0xbe d a b pg (2 * t.codeV + bit x)
  | .vfma d a b pg t x => encE 0xbf d a b pg (2 * t.codeV + bit x)
  | .vfms d a b pg t x => encE 0xc0 d a b pg (2 * t.codeV + bit x)
  | .vfmin d a b pg t => encE 0xc1 d a b pg (2 * t.codeV)
  | .vfmax d a b pg t => encE 0xc2 d a b pg (2 * t.codeV)
  | .vfabs d a pg t => encE 0xc3 d a 0 pg (2 * t.codeV)
  | .vfcmp d a b pg t x => encE 0xc4 d a b pg (2 * t.codeV + bit x)
  | .vfcvt d a pg dt st x => encE 0xc5 d a st.code pg (2 * dt.code + bit x)
  | .vfrnd d a pg t r => encE 0xc6 d a r.code pg (2 * t.codeV)
  | .vaddx d a b pg t => encE 0xc7 d a b pg (2 * t.codeV)
  | .vsubx d a b pg t => encE 0xc8 d a b pg (2 * t.codeV)
  | .vmulx d a b pg t => encE 0xc9 d a b pg (2 * t.codeV)
  | .dwadd d a b pg => encE 0xca d a b pg 16
  | .dwsub d a b pg => encE 0xcb d a b pg 16
  | .dwmul d a b pg => encE 0xcc d a b pg 16
  | .dwnorm d a pg => encE 0xcd d a 0 pg 16
  | .vsum d a pg t => encE 0xce d a 0 pg (2 * t.codeV)
  | .vsumc d a pg => encE 0xcf d a 0 pg 16
  | .vredmax d a pg t => encE 0xd0 d a 0 pg (2 * t.codeV)
  | .vscale d a b pg t x => encE 0xd1 d a b pg (2 * t.codeV + bit x)
  | .vsfu d a pg t f => encE 0xd2 d a f.code pg (2 * t.codeV)
  | .mzero c => encA 0xd3 0 0 c 0
  | .mma c ga gb x => encA 0xd4 ga gb c (bit x)
  | .mmas c ga gb x => encA 0xd5 ga gb c (bit x)
  | .msemi s => encA 0xd6 0 0 0 s.code
  | .mprog a m => encA 0xd7 a 0 0 m.code
  | .mrun c ga gb x => encA 0xd8 ga gb c (bit x)
  | .mstz a c m f => encA 0xd9 a 0 c (m.code + 4 * f.code)
  | .mldz c a m => encA 0xda a 0 c m.code
  | .mmovzv a c row => encA 0xdb a 0 c row.toNat
  | .msync => encA 0xdc 0 0 0 0
  | .mstat a => encA 0xdd a 0 0 0
  | _ => 0

/-- The lone word of an instruction: L = 1 (R27). -/
def encodeLone (i : Instr) : Nat := 2 ^ 31 + encode i

/-- The instruction that the decoder reads from a word of `nbits` bits whose bits are `w`; every row with an encoding has
one word of 32 bits (log 6: L plays no part in which instruction a word is); bits above `nbits` are 0. -/
def decodeTableWord (nbits w : Nat) : Option Instr :=
  if 0 < nbits ∧ nbits ≤ 32 then
    match decodeWord (w % 2 ^ nbits) with
    | .instr i => some i
    | _ => none
  else none

end Sys2Proof
end

