-- ==== Sys2Proof/Machine/Numbers.lean ====
section
/-!
DEFINITION. Exact binary numbers, the floating-point formats of Table 5.1, rounding (R45), the SEED generator (R46) and
conversions. Every finite value is a sign and a magnitude mag × 2^e, computed exactly; `rnd` narrows once.
-/
namespace Sys2Proof

/-- nextseed's new state (R46). -/
def nextSeed (seed : Word) : Word :=
  let s := if seed = 0 then 1 else seed
  let s := s ^^^ (s <<< 13)
  let s := s ^^^ (s >>> 7)
  s ^^^ (s <<< 17)

/-- A real, ±∞ or NaN: (−1)^neg × mag × 2^e. -/
inductive FVal where
  | nan
  | inf (neg : Bool)
  | num (neg : Bool) (mag : Nat) (e : Int)
  deriving DecidableEq, Repr

/-- What an all-ones exponent means (Table 5.1). -/
inductive Special where
  | ieee | e4m3 | none
  deriving DecidableEq, Repr

/-- A floating-point format (Table 5.1): patterns without the sign bit. `satInf`: conversions saturate an infinity too;
`sat`: conversions saturate a finite overflow (Table 5.2). -/
structure Fmt where
  width : Nat
  mbits : Nat
  bias : Nat
  special : Special
  maxBits : Nat
  nan : Nat
  sat : Bool := false
  satInf : Bool := false
  deriving DecidableEq, Repr

def fp32 : Fmt := { width := 32, mbits := 23, bias := 127, special := .ieee, maxBits := 0x7F7FFFFF, nan := 0x7FC00000 }
def bf16 : Fmt := { width := 16, mbits := 7, bias := 127, special := .ieee, maxBits := 0x7F7F, nan := 0x7FC0 }
def fp16 : Fmt := { width := 16, mbits := 10, bias := 15, special := .ieee, maxBits := 0x7BFF, nan := 0x7E00 }
def q19 : Fmt := { width := 19, mbits := 10, bias := 127, special := .ieee, maxBits := 0x3FBFF, nan := 0x3FE00 }
def e4m3 : Fmt := { width := 8, mbits := 3, bias := 7, special := .e4m3, maxBits := 0x7E, nan := 0x7F, sat := true, satInf := true }
def e5m2 : Fmt := { width := 8, mbits := 2, bias := 15, special := .ieee, maxBits := 0x7B, nan := 0x7E, sat := true }
def e3m2 : Fmt := { width := 6, mbits := 2, bias := 3, special := .none, maxBits := 0x1F, nan := 0, sat := true, satInf := true }
def e2m3 : Fmt := { width := 6, mbits := 3, bias := 1, special := .none, maxBits := 0x1F, nan := 0, sat := true, satInf := true }
def e2m1 : Fmt := { width := 4, mbits := 1, bias := 1, special := .none, maxBits := 0x7, nan := 0, sat := true, satInf := true }

/-- Exponent of the least significant bit of the smallest numbers. -/
def Fmt.qmin (f : Fmt) : Int := 1 - (f.bias : Int) - f.mbits
def Fmt.signBit (f : Fmt) : Nat := 2 ^ (f.width - 1)

/-- val(b, f) (R44, Table 5.1). -/
def Fmt.val (f : Fmt) (bits : Nat) : FVal :=
  let neg := bits / f.signBit % 2 == 1
  let mag := bits % f.signBit
  let m := mag % 2 ^ f.mbits
  let e := mag / 2 ^ f.mbits
  let top := 2 ^ (f.width - 1 - f.mbits) - 1
  if e = top && f.special = .ieee then (if m = 0 then .inf neg else .nan)
  else if f.special = .e4m3 && mag = 0x7F then .nan
  else if e = 0 then .num neg m f.qmin
  else .num neg (m + 2 ^ f.mbits) (f.qmin + (e - 1 : Nat))

/-- Sticky float flags: invalid, overflow, underflow, inexact. -/
structure FFlags where
  nv : Bool := false
  of : Bool := false
  uf : Bool := false
  nx : Bool := false
  deriving DecidableEq, Repr
def FFlags.or (a b : FFlags) : FFlags :=
  { nv := a.nv || b.nv, of := a.of || b.of, uf := a.uf || b.uf, nx := a.nx || b.nx }

/-- A rounded magnitude k × 2^q on a grid, whether it differs from the exact value, and SEED after it. -/
structure Rounded where
  k : Nat
  q : Int
  inexact : Bool
  seed : Word
  deriving DecidableEq, Repr

/-- Rounds mag × 2^e, of sign `neg`, to a multiple of 2^q by mode m (R45). -/
def roundAt (neg : Bool) (mag : Nat) (e q : Int) (m : RMode) (seed : Word) : Rounded :=
  if q ≤ e then { k := mag * 2 ^ (e - q).toNat, q := q, inexact := false, seed := seed }
  else
    let n := (q - e).toNat
    let k := mag / 2 ^ n
    let r := mag % 2 ^ n
    if r = 0 then { k := k, q := q, inexact := false, seed := seed }
    else
      match m with
      | .rne =>
        let up := 2 ^ n < 2 * r || (2 * r = 2 ^ n && k % 2 = 1)
        { k := if up then k + 1 else k, q := q, inexact := true, seed := seed }
      | .rtz => { k := k, q := q, inexact := true, seed := seed }
      | .rdn => { k := if neg then k + 1 else k, q := q, inexact := true, seed := seed }
      | .rup => { k := if neg then k else k + 1, q := q, inexact := true, seed := seed }
      | .sr =>
        let s := nextSeed seed
        let t := s.toNat / 2 ^ 40
        let fromLo := if neg then 2 ^ n - r else r
        let hi := t < 2 ^ 24 * fromLo / 2 ^ n
        let up := if neg then !hi else hi
        { k := if up then k + 1 else k, q := q, inexact := true, seed := s }

/-- The exponent of the last place of mag × 2^e at f's precision, with f's subnormal spacing as its floor. -/
def Fmt.quantum (f : Fmt) (mag : Nat) (e : Int) : Int := max f.qmin (e + Nat.log2 mag - f.mbits)

/-- What `rnd` gives: the pattern, whether it overflowed, was inexact, was tiny (R75), and SEED. -/
structure RndOut where
  bits : Nat
  ovf : Bool := false
  inexact : Bool := false
  tiny : Bool := false
  seed : Word
  deriving DecidableEq, Repr

def Fmt.withSign (f : Fmt) (neg : Bool) (b : Nat) : Nat := if neg then f.signBit + b else b
/-- ±∞ of f, or its saturated value where conversions saturate an infinity (Table 5.2). -/
def Fmt.infBits (f : Fmt) (neg : Bool) : Nat := f.withSign neg (if f.satInf then f.maxBits else f.maxBits + 1)

/-- rnd(x, f, m) with the pattern of the result (R45, R81 and Table 5.2). DESIGN CHOICE (log 82): under .SR the rounding of the tininess test (R75)
takes the same draw of SEED as the result's. -/
def rnd (f : Fmt) (m : RMode) (seed : Word) (v : FVal) : RndOut :=
  match v with
  | .nan => { bits := f.nan, seed := seed }
  | .inf neg => { bits := f.infBits neg, ovf := f.satInf, inexact := f.satInf, seed := seed }
  | .num neg mag e =>
    if mag = 0 then { bits := f.withSign neg 0, seed := seed }
    else
      let q := f.quantum mag e
      let narrow := f.width ≤ 8 && e + Nat.log2 mag < f.qmin
      let m := if narrow then .sr else m
      let r := roundAt neg mag e q m seed
      let b := (r.q - f.qmin).toNat * 2 ^ f.mbits + r.k
      let free := roundAt neg mag e (e + Nat.log2 mag - f.mbits) m seed
      let top := free.q + (if free.k = 2 ^ (f.mbits + 1) then f.mbits + 1 else f.mbits : Nat)
      let tiny := decide (top < f.qmin + f.mbits)
      if f.maxBits < b then
        if f.sat then { bits := f.withSign neg f.maxBits, ovf := true, inexact := true, seed := r.seed }
        else
          let toInf := match m with
            | .rne => true | .sr => true | .rtz => false | .rdn => false | .rup => false
          { bits := f.withSign neg (if toInf then f.maxBits + 1 else f.maxBits), ovf := true, inexact := true
            seed := r.seed }
      else { bits := f.withSign neg b, inexact := r.inexact, tiny := tiny, seed := r.seed }

/-- The flags of a rounded result (R75): overflow sets OF and NX, inexact NX, tiny and inexact UF. -/
def RndOut.flags (r : RndOut) : FFlags :=
  { of := r.ovf, uf := r.tiny && r.inexact, nx := r.ovf || r.inexact }

/-! ## Exact arithmetic -/

def FVal.isNan : FVal → Bool
  | .nan => true | _ => false
def FVal.isInf : FVal → Bool
  | .inf _ => true | _ => false
def FVal.isNeg : FVal → Bool
  | .nan => false | .inf n => n | .num n _ _ => n
def FVal.neg : FVal → FVal
  | .nan => .nan | .inf n => .inf (!n) | .num n m e => .num (!n) m e
/-- The signed mantissa at exponent q ≤ e. -/
def scaled (neg : Bool) (mag : Nat) (e q : Int) : Int :=
  let k : Int := (mag * 2 ^ (e - q).toNat : Nat)
  if neg then -k else k
/-- x × y, exact; 0 × ∞ is NaN with NV (R75). -/
def FVal.mul : FVal → FVal → FVal × Bool
  | .nan, _ => (.nan, false)
  | _, .nan => (.nan, false)
  | .inf a, .inf b => (.inf (a != b), false)
  | .inf a, .num b m _ => if m = 0 then (.nan, true) else (.inf (a != b), false)
  | .num a m _, .inf b => if m = 0 then (.nan, true) else (.inf (a != b), false)
  | .num a m e, .num b n g => (.num (a != b) (m * n) (e + g), false)
/-- x + y, exact; ∞ − ∞ is NaN with NV; an exact zero sum is −0 only of two −0 (R75). -/
def FVal.add : FVal → FVal → FVal × Bool
  | .nan, _ => (.nan, false)
  | _, .nan => (.nan, false)
  | .inf a, .inf b => if a = b then (.inf a, false) else (.nan, true)
  | .inf a, _ => (.inf a, false)
  | _, .inf b => (.inf b, false)
  | .num a m e, .num b n g =>
    let q := min e g
    let k := scaled a m e q + scaled b n g q
    if k = 0 then (.num (a && b) 0 q, false) else (.num (k < 0) k.natAbs q, false)
/-- The order of two finite or infinite values; −0 and +0 are equal (R76). -/
def FVal.lt : FVal → FVal → Bool
  | .nan, _ => false
  | _, .nan => false
  | .inf a, .inf b => a && !b
  | .inf a, _ => a
  | _, .inf b => !b
  | .num a m e, .num b n g => scaled a m e (min e g) < scaled b n g (min e g)
def FVal.eq : FVal → FVal → Bool
  | .nan, _ => false
  | _, .nan => false
  | .inf a, .inf b => a == b
  | .num a m e, .num b n g => scaled a m e (min e g) == scaled b n g (min e g)
  | _, _ => false
/-- The order with −0 below +0 (R122, R132, R148). -/
def FVal.lt0 (x y : FVal) : Bool := x.lt y || (x.eq y && x.isNeg && !y.isNeg)
def FVal.isZero : FVal → Bool
  | .num _ m _ => m == 0
  | _ => false
/-- An integer as a value; 0 is +0. -/
def FVal.ofInt (k : Int) (e : Int := 0) : FVal := .num (k < 0) k.natAbs e

/-- A float result with its flags and SEED. -/
structure FRes where
  bits : Nat
  flags : FFlags := {}
  seed : Word
  deriving DecidableEq, Repr

/-- Rounds an exact result, with NV where it was formed invalidly (R75). -/
def finish (f : Fmt) (m : RMode) (seed : Word) (v : FVal × Bool) : FRes :=
  let r := rnd f m seed v.1
  { bits := r.bits, flags := { r.flags with nv := v.2 }, seed := r.seed }

def FTy.fmt : FTy → Fmt
  | .f32 => fp32 | .f16 => fp16 | .b16 => bf16
def FTy.width (t : FTy) : Nat := t.fmt.width
def modeOf (sr : Bool) : RMode := if sr then .sr else .rne

/-- FADD, FMUL and FMA (R75). -/
def fAdd (f : Fmt) (m : RMode) (seed : Word) (a b : Nat) : FRes := finish f m seed ((f.val a).add (f.val b))
def fSub (f : Fmt) (m : RMode) (seed : Word) (a b : Nat) : FRes := finish f m seed ((f.val a).add (f.val b).neg)
def fMul (f : Fmt) (m : RMode) (seed : Word) (a b : Nat) : FRes := finish f m seed ((f.val a).mul (f.val b))
/-- x × y + z with one rounding; 0 × ∞ is NaN with NV unless an input is NaN. -/
def fmaVal (x y z : FVal) : FVal × Bool :=
  if x.isNan || y.isNan || z.isNan then (.nan, false)
  else
    let p := x.mul y
    if p.2 then (.nan, true) else p.1.add z
def fMa (f : Fmt) (m : RMode) (seed : Word) (a b c : Nat) : FRes :=
  finish f m seed (fmaVal (f.val a) (f.val b) (f.val c))
/-- FCMP's conditions (R76). -/
def fCmp (f : Fmt) (c : FCond) (a b : Nat) : Bool :=
  let x := f.val a
  let y := f.val b
  match c with
  | .eq => x.eq y
  | .lt => x.lt y
  | .le => x.lt y || x.eq y
  | .un => x.isNan || y.isNan

/-! ## Integers and conversion -/

def ITy.bits : ITy → Nat
  | .i8 => 8 | .i16 => 16 | .i32 => 32 | .i64 => 64 | .n8 => 8 | .n16 => 16 | .n32 => 32 | .n64 => 64
def Width.bits : Width → Nat
  | .w8 => 8 | .w16 => 16 | .w32 => 32 | .w64 => 64
def ITy.signed : ITy → Bool
  | .i8 => true | .i16 => true | .i32 => true | .i64 => true | _ => false
def ETy.bits : ETy → Nat
  | .int t => t.bits
  | .flt t => t.width
/-- sext (R44). -/
def sext (v n : Nat) : Int := if v % 2 ^ n < 2 ^ (n - 1) then (v % 2 ^ n : Nat) else (v % 2 ^ n : Nat) - (2 ^ n : Nat)
def ITy.read (t : ITy) (v : Nat) : Int := if t.signed then sext v t.bits else (v % 2 ^ t.bits : Nat)
def ITy.lo (t : ITy) : Int := if t.signed then -(2 ^ (t.bits - 1) : Nat) else 0
def ITy.hi (t : ITy) : Int := if t.signed then (2 ^ (t.bits - 1) : Nat) - 1 else (2 ^ t.bits : Nat) - 1
/-- The pattern of width n of an integer modulo 2^n. -/
def wrap (k : Int) (n : Nat) : Nat := (k % (2 ^ n : Nat)).toNat
def clamp (lo hi k : Int) : Int := if k < lo then lo else if hi < k then hi else k

/-- x rounded to an integer (R45): the integer, inexact, SEED. -/
def roundInt (m : RMode) (seed : Word) (neg : Bool) (mag : Nat) (e : Int) : Int × Bool × Word :=
  let r := roundAt neg mag e 0 m seed
  (if neg then -(r.k : Int) else r.k, r.inexact, r.seed)

/-- Float to integer (R77): NaN gives 0 with NV; a rounded value out of range gives the nearest end with NV; NX only in
range. An 8-bit destination rounds the band 0 < |x| < 1 by SR (R45, R123). -/
def toInt (t : ITy) (m : RMode) (seed : Word) (v : FVal) : FRes :=
  match v with
  | .nan => { bits := 0, flags := { nv := true }, seed := seed }
  | .inf neg => { bits := wrap (if neg then t.lo else t.hi) t.bits, flags := { nv := true }, seed := seed }
  | .num neg mag e =>
    let band := t.bits ≤ 8 && mag != 0 && e + Nat.log2 mag < 0
    let r := roundInt (if band then .sr else m) seed neg mag e
    if r.1 < t.lo ∨ t.hi < r.1 then
      { bits := wrap (clamp t.lo t.hi r.1) t.bits, flags := { nv := true }, seed := r.2.2 }
    else { bits := wrap r.1 t.bits, flags := { nx := r.2.1 }, seed := r.2.2 }

/-- FCVT and VFCVT of one element (R77, R123): the destination pattern at the destination's width. -/
def convert (dt st : ETy) (m : RMode) (seed : Word) (v : Nat) : FRes :=
  match st, dt with
  | .flt s, .flt d =>
    if s = d then
      { bits := if (s.fmt.val v).isNan then d.fmt.nan else v % 2 ^ d.fmt.width, seed := seed }
    else
      let r := rnd d.fmt m seed (s.fmt.val v)
      { bits := r.bits, flags := r.flags, seed := r.seed }
  | .int s, .flt d =>
    let r := rnd d.fmt m seed (FVal.ofInt (s.read v))
    { bits := r.bits, flags := r.flags, seed := r.seed }
  | .flt s, .int d => toInt d m seed (s.fmt.val v)
  | .int s, .int d =>
    let k := s.read v
    let c := clamp d.lo d.hi k
    { bits := wrap c d.bits, flags := { nv := c != k }, seed := seed }

/-! ## Division and shifts of integers (R68, R69) -/

/-- Quotient rounded toward zero; all ones for a zero divisor; the signed overflow keeps −2^(n−1). -/
def divS (n a b : Nat) : Nat := if b % 2 ^ n = 0 then 2 ^ n - 1 else wrap (Int.tdiv (sext a n) (sext b n)) n
def divU (n a b : Nat) : Nat := if b % 2 ^ n = 0 then 2 ^ n - 1 else (a % 2 ^ n) / (b % 2 ^ n)
def remS (n a b : Nat) : Nat := if b % 2 ^ n = 0 then a % 2 ^ n else wrap (Int.tmod (sext a n) (sext b n)) n
def remU (n a b : Nat) : Nat := if b % 2 ^ n = 0 then a % 2 ^ n else (a % 2 ^ n) % (b % 2 ^ n)
/-- Set bits and leading zeros of 64 bits. -/
def popCount : Nat → Nat → Nat
  | 0, _ => 0
  | n + 1, v => v % 2 + popCount n (v / 2)
def leadZeros (v : Nat) : Nat := if v = 0 then 64 else 63 - Nat.log2 v
/-- The n-bit result of a 32-bit or 64-bit operation as 64 bits: 32-bit results are sign-extended (R68). -/
def wide (w : Bool) (v : Nat) : Word := if w then BitVec.ofInt 64 (sext v 32) else BitVec.ofNat 64 v
def opBits (w : Bool) : Nat := if w then 32 else 64

end Sys2Proof
end

