-- ==== Sys2Proof/Config.lean ====
section
/-!
DEFINITION. What the part fixes and the spec leaves to an implementation, and the free values: values that the spec
leaves open and the model leaves open too.
-/
namespace Sys2Proof.Config

/-- Free values (log 15): the n-th value drawn for a register or tile whose contents the spec leaves undefined
(R26, R139). -/
opaque freeBits : Nat → BitVec 8192

/-- The 24-bit keyed hash of bits [63:24] of a register capability (Table 4.6); no program can read the key (log 15). -/
opaque capCheck : BitVec 40 → BitVec 24

/-- The keyed 64-bit hash that a launch tape stores (R241): a function of the bytes hashed (log 15). -/
opaque tapeHash : List (BitVec 8) → BitVec 64

/-- Which tier the spill map gives a record (R63): 0 lane banks, 1 Z columns, 2 the area (log 18). -/
opaque spillTier : Nat → Fin 3

/-- A special function's correctly rounded result where the model's bounded interval search leaves the rounding
undecided (R133, log 16): format, function and operand bits. -/
opaque sfuRounding : Nat → Nat → BitVec 64 → BitVec 64

/-- Bits [53:2] of the monitor's entry, which the launch engine writes into FVEC at release (Table 14.3): the spec states no
address (log 8). -/
opaque monitorEntry : BitVec 52

/-- Which of the words that a fetch may give it gives, where code was stored into without an IFLUSH (R67, log 29): a counter, the core and the
physical address. -/
opaque fetchOld : Nat → Nat → Nat → Nat

/-- The signature that the device identity key makes of an attestation report of BOOTSTAT (R317): the spec names no algorithm (log 71). -/
opaque attest : BitVec 256 → BitVec 64 → BitVec 512

/-- The task-exit address that LK holds at release (R279). DESIGN CHOICE (log 9): the last word of the address space. -/
def taskExit : VAddr := 0x3F_FFFF_FFFF_FFFC#54

end Sys2Proof.Config
end

