-- ==== Sys2Proof/Machine/State.lean ====
section
/-!
DEFINITION. The state of the whole package as plain data, its faults and refusals, and the state after reset. A field's
docstring names the rule of the spec that gives the machine that state.
-/
namespace Sys2Proof.Machine

/-- Faults of the model (a step that stops). No instruction or event of the table stops the machine: exceptions that the
spec describes are next states. -/
inductive Fault where
  /-- Raised by no meaning; kept so that the interface has a closed type with a name. Safe. -/
  | stuck
  deriving DecidableEq, Repr

/-- Refusals of the model. -/
inductive Refusal where
  /-- An arm of `exec` that has no meaning yet. Safe: the machine stops. -/
  | notModelled (mnemonic : String)
  deriving DecidableEq, Repr

/-! ## Strand -/

/-- Taint of an X register during RECORD (R239). -/
inductive Taint where
  | none
  | linear (i sh : Nat) (off : Word) (ptr : Bool)
  | mixed (mask : BitVec 64)
  deriving DecidableEq, Repr

/-- What happens before a point of a strand (R198): for each agent that stores, a bound; the agent's accesses and commands of lower number
are among it. An agent is a strand, or the copy engine or the Churn at work for a strand. -/
abbrev Known := Tab Nat

/-- An armed promotion (R200): the word, the scope, and the number of its PROMOTE. -/
structure Arming where
  word : Nat
  scope : Scope
  no : Nat
  deriving DecidableEq, Repr

/-- A release record: who released which bytes, its scope and the accesses that it waits for (R197, R198). -/
structure RelRec where
  bytes : List Nat
  core : Nat
  strand : Nat
  scope : Scope
  pending : List Nat
  /-- an addition to a curd cell (R207, R210) -/
  cell : Bool := false
  /-- the promotion that the load which has read it uses if a FENCE makes it an acquire (R200) -/
  promo : Option Arming := none
  /-- what happens before the release -/
  known : Known := []
  /-- the effective address of the load of the strand that has read it (R301) -/
  seen : Option Nat := none
  /-- read by a copy command that has arrived at this completion word: who waits there has read it (R236) -/
  via : Bool := false
  /-- no store has ended its release sequence: an atomic to exactly its bytes continues it (R197) -/
  open_ : Bool := true
  deriving DecidableEq, Repr

/-- What a FENCE of kind REL, FULL or ENG makes of later stores (R196): releases at its scope, of the accesses before it. -/
structure FenceRec where
  scope : Scope
  pending : List Nat
  known : Known
  deriving DecidableEq, Repr

/-- An X register: value, pointer mark (R70), full bit (R65), write pending (R47), taint (R239), and the release of the register send
that filled it (R182). -/
structure XReg where
  val : Word := 0
  mark : Bool := false
  full : Bool := true
  busy : Bool := false
  taint : Taint := .none
  rel : Option RelRec := none
  deriving DecidableEq, Repr

/-- A physical V register (R107): bits [32 × LANES − 1 : 0] are in use; full bit of a register capability (R65); the release of the
register send that filled it (R182). -/
structure VReg where
  val : BitVec 2048 := 0
  full : Bool := true
  rel : Option RelRec := none
  deriving DecidableEq, Repr

/-- A Z tile (R138): element (m, n) in bits [32 (16m + n) + 31 : 32 (16m + n)]; type bit. -/
structure ZTile where
  bits : BitVec 8192 := 0
  int : Bool := false
  deriving DecidableEq, Repr

/-- A fault to be taken (R249, R251). -/
structure FaultInfo where
  code : Nat
  acc : Nat := 0
  eva : Nat := 0
  trapno : Nat := 0
  deriving DecidableEq, Repr

/-- A record of the spill stack (R63): class, first value lowest; the tier that holds it. -/
structure SpillRec where
  cls : RClass
  count : Nat
  lanes : Nat
  xs : List XReg := []
  vs : List (BitVec 2048) := []
  tier : Nat := 0
  /-- names a record of class V whose SPILL still waits in the sequencer -/
  id : Nat := 0
  deriving DecidableEq, Repr

/-- A sequencer entry (R114): instruction, its bundle's address and the next, copies of the X operands, the captured
predicate and RBASE; `head` marks the entry whose successor reads the registers as they stood before it (R28). -/
structure SeqEntry where
  instr : Instr
  pc : VAddr
  npc : VAddr
  arith : Bool := false
  /-- issued at supervisor privilege -/
  sup : Bool := false
  xa : XReg := {}
  xb : XReg := {}
  /-- the place in the X file that VEXT and RBGET write -/
  xd : Option Nat := none
  pcount : Nat := 0
  pwidth : Nat := 0
  rbase : Nat := 0
  inLoop : Bool := false
  pairHead : Bool := false
  /-- what the partner has written over: those V registers as they stood before it (R28) -/
  snap : Tab VReg := []
  /-- the number of the partner that has written over them -/
  pairOrd : Nat := 0
  /-- values of a SPILL of class V already pushed, or the values of a FILL -/
  vals : List (BitVec 2048) := []
  /-- the matrix entries that an MMOVZV waits for (R154) -/
  waits : List Nat := []
  /-- its number: its place in program order among the strand's accesses and matrix entries (R158, R195) -/
  ord : Nat := 0
  /-- the fence before it (R196), and the promotion that was armed (R200) -/
  fence : Option FenceRec := none
  arm : Option Arming := none
  /-- fabric time at which it was handed over (R272) -/
  handed : Nat := 0
  /-- LANES as it stood before the partner, where the partner has changed it (R28) -/
  lanes : Option Nat := none
  deriving DecidableEq, Repr

/-- The loop register of VSEQ and VREP (R117, R118). -/
structure LoopReg where
  rep : Bool
  count : Nat
  step : Nat
  len : Nat
  iter : Nat := 0
  pos : Nat := 0
  rbase : Nat := 0
  deriving DecidableEq, Repr

/-- A Churn queue entry (R151) with its strand and copies of its operands. -/
structure ChurnEntry where
  id : Nat := 0
  instr : Instr
  strand : Nat
  pc : VAddr
  npc : VAddr
  arith : Bool := false
  sup : Bool := false
  pa : Word := 0
  marked : Bool := false
  len : Word := 0
  semi : Semiring := .plusTimes
  /-- fabric time since which it waits for ring data (R157) -/
  since : Nat := 0
  /-- the block that an MPROG has read at its start (R149) -/
  block : BitVec 256 := 0
  /-- the decode table as it stood before the partner, where that is a DTLOAD (R28) -/
  tab : Option (Option (BitVec 8192)) := none
  deriving DecidableEq, Repr

/-- What an outstanding access does at the memory (R102, R201, R208). -/
inductive AccOp where
  | load
  | store
  | clear
  | atomic (i : Instr)
  deriving DecidableEq, Repr

/-- The TLB entry of Table 14.7. -/
structure TlbEntry where
  asid : BitVec 16
  glob : Bool
  r : Bool
  w : Bool
  x : Bool
  a : Bool
  pa : Nat
  va : Nat
  size : Nat
  /-- second chance reference bit of the copy engine's TLB -/
  used : Bool := false
  deriving DecidableEq, Repr

/-- An outstanding access of a strand (R102, R203). -/
structure Access where
  id : Nat
  op : AccOp
  /-- physical addresses of the bytes, lowest first -/
  bytes : List Nat
  data : Nat := 0
  /-- the lengths of the separate stores that it consists of, where they are several (R96, R104) -/
  parts : List Nat := []
  /-- format of the conversion into Xd, and whether Xd's mark follows the value -/
  fmt : Nat := 0
  size : Nat := 8
  /-- the place in the X file that the value goes to, and the place of LDP's second half -/
  dst : Option Nat := none
  dst2 : Option Nat := none
  /-- LDP; a load of 64 bytes goes to M0–M7 -/
  pair : Bool := false
  toM : Bool := false
  /-- a vector store that has left the sequencer (R220) -/
  vec : Bool := false
  setFull : Bool := false
  acq : Option Scope := none
  rel : Option Scope := none
  /-- the promotion that it uses, as an acquire or if a FENCE makes it one (R200) -/
  arm : Option Arming := none
  /-- accesses that a release covers and that were not yet performed at issue -/
  covers : List Nat := []
  /-- the fence before it, and what happens before it (R196, R198) -/
  fence : Option FenceRec := none
  known : Known := []
  /-- the sequencer entry that it comes from -/
  ord : Option Nat := none
  seq : Nat := 0
  taint : Taint := .none
  taint2 : Taint := .none
  ea : Nat := 0
  /-- fabric time at which it left (R313) -/
  since : Nat := 0
  /-- the bundle that issued it -/
  pc : VAddr := 0
  /-- the TLB entries that translated it (R269) -/
  via : List TlbEntry := []
  performed : Bool := false
  result : Nat := 0
  /-- it has reached its unit before and is resent (R205) -/
  resent : Bool := false
  /-- release records that its bytes carried when it was performed -/
  records : List RelRec := []
  err : Option FaultInfo := none
  deriving DecidableEq, Repr

/-- What a sleeping strand waits for (R47, Table 14.8). -/
inductive SleepKind where
  | recv | event | completion | full | barrier | task
  deriving DecidableEq, Repr

/-- A sleeping bundle: its words, and where it waits (R97, R270). -/
structure Sleep where
  kind : SleepKind
  control : Instr
  arith : Option Instr := none
  /-- words waited for (LDS, LDE) or the completion word -/
  words : List Nat := []
  registered : Bool := true
  /-- what the sleep waits for has come; the bundle completes as soon as its arithmetic word can (R28) -/
  released : Bool := false
  /-- the control word has had its effect as what it waits for came: the X file as it stood before, which the arithmetic word reads (R28, R270) -/
  before : Option (Tab XReg) := none
  /-- the TLB entries that translated the access that waits (R269) -/
  via : List TlbEntry := []
  deriving DecidableEq, Repr

/-- Who waits for a translation (R266). -/
inductive Requester where
  | scalar | fetch | sequencer | churn | engine | prefetch
  deriving DecidableEq, Repr

/-- A translation wanted (R266). -/
structure MissReq where
  who : Requester
  kind : TlbKind
  core : Nat
  strand : Nat
  va : Nat
  asid : BitVec 16
  deriving DecidableEq, Repr

inductive StrandStatus where
  | absent | running | held | ended
  deriving DecidableEq, Repr

/-- A deferred fault of the groups of R253 step 2: 0x22 and 0x24, an access that the fabric ends (R301, R313), or a refusal
with its RSFAIL (R175, R180). -/
structure Pending where
  code : Nat
  eva : Nat
  acc : Nat := 0
  rsfail : Option Word := none
  deriving DecidableEq, Repr

/-- A send-buffer entry (R170, R171): the destinations not yet acknowledged. -/
structure SendEntry where
  id : Nat
  kind : Nat
  target : Word
  left : List Nat
  deriving DecidableEq, Repr

/-- A strand's last arrival at a barrier domain (R212). -/
structure BarRec where
  episode : Nat
  stamp : Nat
  /-- BARI made and no BARW or BAR completed since -/
  open_ : Bool
  /-- the arrival of a BAR or XPHASE that a fault has interrupted: the same bundle, issued again, waits without arriving again (R253) -/
  again : Option VAddr := none
  deriving DecidableEq, Repr

/-- The strand's registers that stand under a selector of their own and hold what was written (Tables 4.3, 14.3). -/
structure StrandRegs where
  cause : Word := 0
  epc : VAddr := 0
  eva : VAddr := 0
  uevec : VAddr := 0
  uevpc : VAddr := 0
  uevcode : BitVec 4 := 0
  evpend : BitVec 6 := 0
  evena : BitVec 6 := 0
  rank : BitVec 32 := 0
  gsize : BitVec 32 := 0
  stage : BitVec 4 := 0
  share : BitVec 48 := 0
  offset : BitVec 48 := 0
  gspeed : BitVec 32 := 0
  argbase : VAddr := 0
  launchid : BitVec 32 := 0
  arrive : Word := 0
  capgen : BitVec 16 := 0
  fvec : VAddr := 0
  svs : List Word := [0, 0, 0, 0]
  asid : BitVec 16 := 0
  tmiss : BitVec 32 := 0
  ctxid : BitVec 32 := 0
  rsfail : Word := 0
  engerr : Word := 0
  englast : BitVec 17 := 0
  rangep : VAddr := 0
  xsrcix : BitVec 5 := 0
  stlsc : BitVec 3 := 5
  ldasc : BitVec 3 := 5
  deriving DecidableEq, Repr

/-- STAT's flags (Table 4.4). -/
structure StatFlags where
  fnv : Bool := false
  fof : Bool := false
  fuf : Bool := false
  fnx : Bool := false
  sup : Bool := true
  uev : Bool := false
  kv : Bool := false
  slave : Bool := false
  deriving DecidableEq, Repr

/-- VSTAT's flags (Table 6.2). -/
structure VFlags where
  exl : Bool := false
  ovx : Bool := false
  sat : Bool := false
  nv : Bool := false
  of : Bool := false
  uf : Bool := false
  nx : Bool := false
  deriving DecidableEq, Repr

/-- VRESUME and MRESUME (Tables 6.3, 7.9) with the entries they hold. -/
structure Resume where
  pc : VAddr := 0
  pend : Bool := false
  skip : Bool := false
  deriving DecidableEq, Repr

/-- The strand's Churn state: sticky flags (Table 7.8), semiring (R148), microprogram (R149), tiles (R138). -/
structure StrandMx where
  nv : Bool := false
  of : Bool := false
  iov : Bool := false
  semi : Semiring := .plusTimes
  prog : Option (BitVec 256) := none
  z0 : ZTile := {}
  z1 : ZTile := {}
  held : Bool := false
  deriving DecidableEq, Repr

/-- A request for lanes on its way to the octet (R108): how many, and the place in the X file that the grant is written to. A YIELD
writes none (R109). -/
structure Claim where
  n : Nat
  xd : Option Nat := none
  /-- a YIELD's -/
  yield : Bool := false
  deriving DecidableEq, Repr

structure Strand where
  /-- X0 to X31 at 0 to 31 and the shadow X24 to X27 at 32 to 35 (R40, R59) -/
  x : Tab XReg := []
  v : Tab VReg := []
  /-- count in [15:0] and width code in [17:16] (R112) -/
  p : Tab (BitVec 18) := []
  m : BitVec 512 := 0
  pc : VAddr := 0
  npc : VAddr := 0
  status : StrandStatus := .absent
  asleep : Option Sleep := none
  stat : StatFlags := {}
  vstat : VFlags := {}
  regs : StrandRegs := {}
  ycnt : BitVec 32 := 0
  ybound : BitVec 32 := 0
  ydefault : BitVec 32 := 0
  rbase : BitVec 4 := 0
  /-- the physical lanes of the octet that are lanes 0, 1, … of the grant (R107) -/
  lanes : List Nat := []
  seed : Word := 0
  spill : List SpillRec := []
  seq : List SeqEntry := []
  loop : Option LoopReg := none
  /-- entries held at a deferred sequencer fault, and the fault of one that waits to be taken (R116) -/
  seqHeld : List SeqEntry := []
  seqFault : Option FaultInfo := none
  vresume : Resume := {}
  mx : StrandMx := {}
  churnHeld : List ChurnEntry := []
  churnFault : Option FaultInfo := none
  mresume : Resume := {}
  /-- arrival faults, then refusals, each in the order in which it reached the strand (R253) -/
  arrivals : List Pending := []
  refusals : List Pending := []
  /-- the accesses that are outstanding, oldest first -/
  out : List Access := []
  /-- the last FENCE of kind REL, FULL or ENG (R196) -/
  relFence : Option FenceRec := none
  /-- what happens before the strand's next access, by acquires (R198) -/
  known : Known := []
  /-- records read by the strand's copy commands and matrix instructions since the last FENCE of kind ENG (R199) -/
  engRecs : List RelRec := []
  /-- records read by loads since the last FENCE of kind ACQ, FULL or ENG (R196) -/
  readRecs : List RelRec := []
  promote : Option Arming := none
  /-- a load of the promoted word has followed: a FENCE that makes it an acquire ends the promotion (R196, R200) -/
  promoteRead : Bool := false
  sends : List SendEntry := []
  regSends : List Nat := []
  bars : Tab BarRec := []
  /-- the misses of the scalar pipeline and of the sequencer, and the faults that the TSC's answers gave them (R266, R268) -/
  miss : Option MissReq := none
  missFault : Option FaultInfo := none
  seqMiss : Option MissReq := none
  seqMissFault : Option FaultInfo := none
  /-- fabric time at which the strand was held at a YIELD (R258) -/
  heldAt : Nat := 0
  /-- a YIELD whose pair's arithmetic word is still at work: the scheduler acts once that is done (R28) -/
  yieldDue : Bool := false
  /-- such a YIELD that was issued at supervisor privilege -/
  supDue : Bool := false
  /-- a follower has issued the bundle that its leader still sleeps in (R256, R287) -/
  ahead : Bool := false
  claim : Option Claim := none
  /-- fabric time at which the VSFU at the sequencer's head asked for the SFU (R134) -/
  sfuAt : Option Nat := none
  /-- the core whose strand of the same number a follower follows (R287) -/
  leader : Nat := 0
  /-- in an exchange phase: fabric time from which the next sequencer entry may reach execution (R272), and the next bundle issue after a
  taken transfer (R48) -/
  seqFree : Nat := 0
  /-- in an exchange phase: the sequencer's head has executed and leaves at the end of the present cycle; the next entry reaches execution at
  this fabric time at the earliest (R220, R272) -/
  leaving : Option Nat := none
  restUntil : Nat := 0
  /-- in an exchange phase: places of the X file whose value becomes available at a fabric time, and when a V register's does (R48, R135) -/
  landing : List (Nat × Nat) := []
  vready : Tab Nat := []
  deriving DecidableEq, Repr

/-! ## Core -/

/-- A message in a pail slot's tag or in the overflow ring (R166). -/
structure Msg where
  data : BitVec 512
  core : Nat
  strand : Nat
  /-- the number of its flit -/
  id : Nat := 0
  /-- the release that a fence made of the send (R182, R196) -/
  rel : Option RelRec := none
  deriving DecidableEq, Repr

/-- An operand ring (R140, R142). -/
structure Ring where
  ea : Nat
  size : Nat
  cluster : Bool
  fmt : Nat
  blk : Nat
  head : Nat
  tail : Nat
  owner : Nat
  launch : Nat
  /-- which definition this is: the id of its RINGDEF (R227) -/
  gen : Nat := 0
  deriving DecidableEq, Repr

/-- A tape record (R241). -/
structure TapeRec where
  header : Word
  value : Word
  /-- the word's arithmetic partner comes with the next INSN record and reads the V registers as they stand before this word (R28, R244, log 84) -/
  pair : Bool := false
  deriving DecidableEq, Repr

/-- The tape that a member records or replays (R238, R241). -/
structure TapeSeg where
  recs : List TapeRec := []
  slots : List (Nat × Nat × Word × Bool) := []
  guards : List (Nat × Word) := []
  share : Nat := 0
  offset : Nat := 0
  gspeed : Nat := 0
  cgen : BitVec 32 := 0
  dtab : BitVec 64 := 0
  deriving DecidableEq, Repr

/-- TAPEST (Table 12.9) and the segment in use; `next` is the next record of a replay. -/
structure TapeState where
  mode : BitVec 2 := 0
  id : BitVec 12 := 0
  fbk : Bool := false
  abandon : Bool := false
  seg : TapeSeg := {}
  next : Nat := 0
  stopped : Option Nat := none
  /-- the argument words that the launch engine has read at a REPLAY release (R243) -/
  args : Tab Word := []
  deriving DecidableEq, Repr

/-- The resident part of a context on a core (R257). -/
structure Part where
  resident : Bool := false
  ctx : Nat := 0
  launch : Nat := 0
  rank : Nat := 0
  nstr : Nat := 0
  strands : Tab Strand := []
  pailBase : BitVec 17 := 0
  pailSize : BitVec 15 := 0
  pailHead : BitVec 17 := 0
  pailTail : BitVec 17 := 0
  /-- source tag of a slot, by slot offset: strand in [14:13], core in [12:0] (R167) -/
  tags : Tab (BitVec 15) := []
  overflow : List Msg := []
  sched : List Word := []
  schedCur : Nat := 0
  xsrc : Tab (BitVec 32) := []
  xdomsClu : BitVec 16 := 0
  xdomsDie : BitVec 16 := 0
  acctCyc : Word := 0
  cycFrac : Nat := 0
  acctNj : Word := 0
  /-- remainder of the energy estimate in units of 1/6400 pJ ÷ 750² (R294) -/
  njFrac : Nat := 0
  tape : TapeState := {}
  rings : Tab Ring := []
  /-- the partner core of a DUAL member; that core's own part is a mirror, resident and charged, and what the partner runs stands in `State.twins`
  (R303) -/
  partner : Option Nat := none
  mirror : Bool := false
  /-- the core whose number the source identifiers carry, where the task is re-run on another pair (R206) -/
  alias_ : Option Nat := none
  /-- a strand has issued since release or restore, and the cycle in which the last one was held or ended has not passed (R298) -/
  charged : Bool := false
  /-- marked for a switch, or for migration (R258) -/
  marked : Bool := false
  migrate : Bool := false
  taskFault : Option Nat := none
  supFault : Bool := false
  /-- the member's task has been reported ended -/
  done : Bool := false
  deriving DecidableEq, Repr

/-- A copy command (R226): operands and descriptor as they stood at issue, and its own generator (R225). -/
structure CopyCmd where
  id : Nat := 0
  instr : Instr
  strand : Nat
  pc : VAddr
  sup : Bool := false
  asid : BitVec 16 := 0
  launch : Nat
  dst : Word
  src : Word
  desc : List Word
  seed : Word
  deriving DecidableEq, Repr

/-- The running copy command. -/
structure CopyRun where
  cmd : CopyCmd
  /-- the seed of its generator as it stands (R225) -/
  seed : Word := 0
  /-- destination pieces already cleared by .CLFE, and units of elements (for CPYS, tiles) already moved; a CPYS without a ring still waits
  for RINGDEFs -/
  cleared : Nat := 0
  moved : Nat := 0
  /-- the ring and the definition of it to which a CPYS is bound (R227), and that ring's base -/
  bound : Option (Nat × Nat) := none
  base : Nat := 0
  since : Nat := 0
  err : Option (Nat × Nat) := none
  finished : Bool := false
  /-- records that the command's reads have read (R236) -/
  recs : List RelRec := []
  deriving DecidableEq, Repr

/-- An armed selection (R188). -/
structure Armed where
  slot : Nat
  src : Nat
  seg : Nat
  reg : Nat
  strand : Nat
  /-- it has been sampled in the present cycle -/
  used : Bool := false
  /-- the number of its XSEL's entry (R28) -/
  ord : Nat := 0
  deriving DecidableEq, Repr

/-- Exchange state of a core (R185 to R191). -/
structure Exch where
  active : Bool := false
  dom : BitVec 4 := 0
  die : Bool := false
  late : Bool := false
  miss : Bool := false
  strand : Nat := 0
  /-- fabric time of exchange cycle 0 -/
  start : Nat := 0
  /-- XPHASE has arrived and waits for exchange cycle 0 -/
  waiting : Bool := false
  armed : List Armed := []
  /-- words driven on the core's lane, by exchange cycle -/
  lane : Tab (BitVec 128) := []
  deriving DecidableEq, Repr

/-- The curve block and clock of a core (R11 to R15). -/
structure Curve where
  cvf : List Nat := [4000, 4000, 4000, 4000, 4000, 4000, 4000, 4000]
  cvl : List Nat := [0, 0, 0, 0, 0, 0, 0, 0]
  cgen : BitVec 32 := 0
  cfreq : Nat := 4000
  cleak : Nat := 0
  tj : Int := 70
  /-- the junction temperature at the curve's measurement (R316) -/
  tjAt : Int := 70
  lnCap : Option Nat := none
  thCap : Option Nat := none
  mCap : Option Nat := none
  /-- points that only raise, held until the next release (R15) -/
  raise_ : Option (List Nat × List Nat) := none
  /-- fabric time by which a lowering takes effect (R15) -/
  due : Option Nat := none
  /-- fabric time by which a lane cap is applied (R110) -/
  laneDue : Option Nat := none
  request : Nat := 0
  /-- amount by which power control holds the request down (R295) -/
  cut : Nat := 0
  /-- the junction has passed 105 °C and has not yet fallen below 100 °C (R295) -/
  heating : Bool := false
  floor : Bool := false
  /-- the scheduler has been notified of a lowering and has not acted on it yet (R15, R292) -/
  notified : Bool := false
  deriving DecidableEq, Repr

/-- What power control measures of memory in a period of 100 µs (R295): bytes moved to and from HBM4E and LP6, clocked core cycles, and those in
which a resident strand waited on memory. -/
structure Meter where
  bytes : Nat := 0
  clocked : Nat := 0
  stalled : Nat := 0
  deriving DecidableEq, Repr

/-- The dynamic energy of a core in a period of 100 µs (R295), in the units of njFrac: all of it, and each permit class's (R296). -/
structure Spent where
  array : Nat := 0
  classes : List Nat := [0, 0, 0, 0]
  deriving DecidableEq, Repr

/-- In-field test state of a core (R306). -/
structure TestState where
  inMap : Bool := true
  /-- the strands that can be used; a repair may leave three of them (R261) -/
  usable : BitVec 4 := 0xF
  lastPass : Nat := 0
  passed : Bool := false
  testing : Bool := false
  heldOut : Bool := false
  early : Bool := false
  /-- the priority of a test that is running (R306) -/
  prio : Nat := 0
  /-- fabric time at which the pattern started (R306) -/
  since : Nat := 0
  /-- fabric times of the last corrections that SOFTCNT.CORE counted, newest first (R305) -/
  softTimes : List Nat := []
  deriving DecidableEq, Repr

/-- An IFLUSH that a core has made (R67): the virtual bytes from `lo` on, `len` of them; of the code log's first `upTo` entries it covers those of
the agents' accesses that `known` bounds, or with `all` every one. -/
structure FetchFlush where
  lo : Nat
  len : Nat
  upTo : Nat
  known : Known := []
  all : Bool := false
  deriving DecidableEq, Repr

structure Core where
  part : Part := {}
  last : Nat := 3
  /-- fabric time of the last bundle's issue: one issues in a core cycle (R47) -/
  issued : Option Nat := none
  churnQ : List ChurnEntry := []
  churnRun : Option ChurnEntry := none
  engQ : List CopyCmd := []
  engRun : Option CopyRun := none
  /-- entry k in bits [32k + 31 : 32k]; none is the identity ramp (R85) -/
  dtab : Option (BitVec 8192) := none
  tlbLS : List TlbEntry := []
  tlbMX : List TlbEntry := []
  tlbCE : List TlbEntry := []
  tlbIF : List TlbEntry := []
  /-- what the core's fetches see at the least (R67) -/
  flushes : List FetchFlush := []
  /-- the Churn and the copy engine wait for a translation, and the faults of the answers (R153, R227) -/
  churnMiss : Option MissReq := none
  churnMissFault : Option FaultInfo := none
  engMiss : Option MissReq := none
  engMissFault : Option FaultInfo := none
  exch : Exch := {}
  curve : Curve := {}
  rateMtx : BitVec 8 := 64
  rateVec : BitVec 8 := 64
  rateSfu : BitVec 8 := 64
  rateMem : BitVec 8 := 64
  /-- sixty-fourths of a permit: matrix, vector, SFU, memory (R296) -/
  permits : List Nat := [4096, 4096, 4096, 4096]
  /-- in an exchange phase: the fabric time from which the divider is free (R48) -/
  divider : Option Nat := none
  softCore : BitVec 32 := 0
  test : TestState := {}
  /-- sequence numbers of the agents 0 to 5 (R204) -/
  seqNo : Tab (BitVec 16) := []
  /-- effects forwarded to each unit since the task's start (R206) -/
  effects : Tab Nat := []
  /-- in the world of a DUAL pair's partner: the number of the core whose own values its selectors read (R303) -/
  twinOf : Option Nat := none
  /-- activity of the present 10 µs period, in the units of njFrac (R293) -/
  activity : Nat := 0
  /-- the energy of the present 100 µs period (R295) -/
  spent : Spent := {}
  deriving DecidableEq, Repr

/-! ## Octet, quad, cluster -/

/-- A lane (R108): its eight points, 0 until it is measured (Table 6.1: LANEFREE resets to 0), and the strand that holds it (4 × core + strand). -/
structure Lane where
  pts : List Nat := [0, 0, 0, 0, 0, 0, 0, 0]
  owner : Option Nat := none
  deriving DecidableEq, Repr

/-- An SFU request (R134). -/
structure SfuReq where
  core : Nat
  strand : Nat
  launch : Nat
  /-- the member: a result is its own, not that of another on the core (R260, R271) -/
  rank : Nat := 0
  entry : SeqEntry
  src : Tab VReg
  lanes : Nat
  /-- VREP's register offset of the pass (R118) -/
  off : Nat := 0
  deriving DecidableEq, Repr

structure Octet where
  lanes : Tab Lane := []
  sfu : List SfuReq := []
  soft : BitVec 32 := 0
  softTimes : List Nat := []
  deriving DecidableEq, Repr

/-- A rail (R13): settled voltage, target of a transition; `stepUp`: a raise has settled and the clocks have not stepped up yet. -/
structure Rail where
  volt : Nat := 550
  target : Option Nat := none
  stepUp : Bool := false
  deriving DecidableEq, Repr

/-- A barrier arrival (R212): core, strand, stamp, and the accesses that it covers. -/
structure Arrival where
  core : Nat
  strand : Nat
  stamp : Nat
  covers : List Nat
  /-- what happens before it (R213) -/
  known : Known := []
  deriving DecidableEq, Repr

/-- A barrier domain (R211 to R215). -/
structure Domain where
  launch : Option Nat := none
  episode : Nat := 0
  /-- membership mask of each cluster -/
  masks : Tab (BitVec 32) := []
  /-- masks that apply from the next episode (R214) -/
  pendingMasks : Tab (BitVec 32) := []
  arrivals : List Arrival := []
  /-- what happens before the completions of the episodes released so far (R213) -/
  known : Known := []
  broken : Bool := false
  exch : Bool := false
  deriving DecidableEq, Repr

/-- A task-queue record (R246). -/
structure TaskRec where
  ctx : Nat
  data : BitVec 512
  rel : Option RelRec := none
  deriving DecidableEq, Repr

/-- A BSET on its way to the cluster's barrier network (R214). -/
structure BsetReq where
  core : Nat
  strand : Nat
  key : Nat
  mask : BitVec 32
  deriving DecidableEq, Repr

structure Cluster where
  /-- BSETs of the present fabric cycle (R214) -/
  bsets : List BsetReq := []
  /-- the TSC's last answer was that it is out of service (R268) -/
  tscDown : Bool := false
  walker : List MissReq := []
  /-- misses that found the walker queue full (R266) -/
  overflow : List MissReq := []
  tasks : List TaskRec := []
  deriving DecidableEq, Repr

/-! ## Fabric, launches, package -/

inductive FlitState where
  | inFlight
  | refusedRoom (at_ : Nat)
  | acked
  | refused (code : Nat)
  deriving DecidableEq, Repr

/-- A flit in the fabric (R163, R170, R177, R246). -/
structure Flit where
  id : Nat
  /-- 1 register send, 2 SEND, 3 MCAST, 4 POST, 5 vector register send -/
  kind : Nat
  src : Nat
  strand : Nat
  launch : Nat
  ctx : Nat
  entry : Nat
  /-- the source identifier (R204) -/
  source : Nat
  seq : Nat
  dst : Nat
  data : BitVec 512
  target : Word
  /-- pointer mark, or width code and count of an RSENDV -/
  count : Nat := 0
  width : Nat := 0
  rel : Option RelRec := none
  /-- the sequencer entry of an RSENDV -/
  ord : Option Nat := none
  /-- fabric time at which it left (R206) -/
  since : Nat := 0
  /-- it has reached its unit before and is resent (R205) -/
  resent : Bool := false
  state : FlitState := .inFlight
  deriving DecidableEq, Repr

/-- A result that a unit keeps for a source's request (R204). -/
structure WindowEntry where
  unit : Nat
  src : Nat
  seq : Nat
  result : BitVec 512
  deriving DecidableEq, Repr

/-- A launch packet's fields (Table 16.1). -/
structure Packet where
  version : Nat
  sel : Nat
  split : Nat
  tape : Nat
  tapeid : Nat
  fallback : Bool
  dual : Bool
  steal : Bool
  convoy : Bool
  boost : Bool
  prio : Nat
  strands : Nat
  queue : Nat
  nent : Nat
  image : Nat
  arg : Nat
  compl : Nat
  n : Nat
  mlist : Nat
  minf : Nat
  maxp : Nat
  timeout : Nat
  ydef : Nat
  pseed : Word
  pbase : Nat
  plog : Nat
  cdom : BitVec 16
  cxch : BitVec 16
  ddom : BitVec 16
  dxch : BitVec 16
  pdom : BitVec 16
  dep0 : Option Nat
  dep1 : Option Nat
  expl : Nat
  isize : Nat
  entry : Nat
  reservedZero : Bool
  deriving DecidableEq, Repr

/-- A gang member: core, partner of a DUAL pair, stage; how its task ended (fault code, supervisor mark). -/
structure Member where
  core : Nat
  stage : Nat
  partner : Option Nat := none
  ended : Bool := false
  /-- fabric time at which the task ended -/
  endTime : Nat := 0
  fault : Option Nat := none
  /-- sequence numbers of its core's agents at the task's start (R206) -/
  seqStart : Tab (BitVec 16) := []
  /-- cores on which an earlier run of a DUAL member ended by a reset, with the fabric times (R304, R307) -/
  past : List (Nat × Nat) := []
  deriving DecidableEq, Repr

/-- A tape stored under an identifier (R241). -/
structure Tape where
  image : BitVec 64
  shape : BitVec 64
  splitHash : BitVec 64
  segs : Tab TapeSeg
  deriving DecidableEq, Repr

/-- A DUAL member that waits for a fresh pair (R206): its part as it was, and the core that it ran on. -/
structure Rerun where
  old : Part
  core : Nat
  deriving DecidableEq, Repr

/-- A launch that has been taken (R276 to R291). -/
structure Launch where
  ctx : Nat
  packet : Packet
  complPa : Nat := 0
  released : Bool := false
  refused : Nat := 0
  releaseTime : Nat := 0
  members : List Member := []
  /-- FLAGS of the status word, bits [63:56] (Table 16.5) -/
  flags : BitVec 8 := 0
  count : Nat := 0
  first : Nat := 0
  last : Nat := 0
  complete : Bool := false
  err : Bool := false
  tapeOut : Nat := 0
  /-- the lowest rank whose task ended by a fault, and the cause -/
  faultRank : Option (Nat × Nat) := none
  /-- segments recorded so far, by rank -/
  segs : Tab TapeSeg := []
  /-- the tape's hashes, taken at a RECORD release (R241) -/
  tape0 : Option Tape := none
  fellBack : Bool := false
  /-- the image as the launch engine has copied it into the vat of each die that holds members (R278) -/
  copies : Tab Nat := []
  /-- its range words' place in the vats (R284) -/
  rangeSlot : Nat := 0
  /-- what happens before its completion record (R289) -/
  known : Known := []
  /-- tape segments that it holds in the vat tape area (R238) -/
  segsHeld : Nat := 0
  /-- a replay found stale is restarted from the queue, recording (R244) -/
  restart : Bool := false
  /-- the shares that EXPL named when the packet was checked (R282) -/
  shares : List Nat := []
  /-- the dies that have a range word (R284) -/
  dies : List Nat := []
  /-- members that wait for a fresh pair (R206) -/
  reruns : List Rerun := []
  deriving DecidableEq, Repr

/-- The supervisor's grant (R280); none is the widest value. -/
structure Grant where
  cores : Option Nat := none
  minf : Option Nat := none
  maxp : Option Nat := none
  boost : Bool := true
  prio : Option Nat := none
  dual : Bool := true
  strands : Option Nat := none
  share : Nat := 1
  deriving DecidableEq, Repr

/-- A context (R257): address space, grant, launches waiting in submission order, stored tapes, account (R18). -/
structure Ctx where
  asid : BitVec 16 := 0
  grant : Grant := {}
  queue : List Nat := []
  tapes : Tab Tape := []
  /-- the sums of ACCTCYC and of ACCTNJ over its past parts (R18) -/
  acct : Nat := 0
  acctNj : Nat := 0
  lastQueue : Nat := 63
  /-- the pages of the address space as the supervisor has placed them, for the launch engine's accesses (R276) -/
  pages : List TlbEntry := []
  deriving DecidableEq, Repr

/-- A save image (R260); after a move, the old core forwards until `until_` (R263). -/
structure Image where
  part : Part
  oldCore : Nat
  kv : Bool
  tcm : List Host.Cell
  empties : List Nat
  /-- the release records of its TCM's bytes (R182, R197) -/
  records : List RelRec := []
  /-- XSTAT's sticky bits and domain (R191, R259) -/
  exch : Exch := {}
  restored : Option Nat := none
  until_ : Nat := 0
  closed : Bool := false
  /-- its landing path was in a rectangle that has been fenced: arrivals for it are refused (R302) -/
  cut : Bool := false
  deriving DecidableEq, Repr

/-- What the partner core of a DUAL pair holds of its own (R303): the pair's part with its registers, and the core's units; its requests to the
SFU. Its TCM stands at its own addresses. -/
structure Twin where
  core : Core := {}
  sfu : List SfuReq := []
  deriving DecidableEq, Repr

inductive RectState where
  | fencing | fenced | reset | test
  deriving DecidableEq, Repr

/-- A containment rectangle (R300). -/
structure Rect where
  d : Nat
  x0 : Nat
  y0 : Nat
  w : Nat
  h : Nat
  state : RectState
  since : Nat
  dual : Bool := false
  deriving DecidableEq, Repr

/-- The host port (R309 to R311). -/
structure HostPort where
  sublo : Tab Word := []
  fifo : List (Word × BitVec 16 × BitVec 32) := []
  nextSeq : BitVec 32 := 0
  drop : BitVec 12 := 0
  dup : BitVec 12 := 0
  gap : Bool := false
  full : Bool := false
  eqbase : Word := 0
  eqhead : BitVec 32 := 0
  eqtail : BitVec 32 := 0
  /-- event entries not yet written, oldest first -/
  hold : List (BitVec 256) := []
  /-- suspect-result and rejected entries in the complex's own store -/
  store : List (BitVec 256) := []
  /-- how often each MSI-X vector has been raised (R309, R311) -/
  msix : Tab Nat := []
  /-- BAR2 as the supervisor has mapped it: offset, bytes, physical address (R309) -/
  bar2 : List (Nat × Nat × Nat) := []
  /-- what the host's latest read through BAR2 has returned -/
  readData : Nat := 0
  /-- what each peer's latest read or atomic has returned (R313) -/
  peerData : Tab Nat := []
  deriving DecidableEq, Repr

/-- What a core reports of a fault at supervisor privilege (R252). -/
structure HaltReport where
  core : Nat
  strand : Nat
  code : Nat
  epc : VAddr
  eva : VAddr
  deriving DecidableEq, Repr

/-- The attestation report (R317): BOOTSTAT as it stood, and the identity key's signature. -/
structure Attestation where
  stat : BitVec 64
  sig : BitVec 512
  deriving DecidableEq, Repr

/-- The control complexes and start-up status (R314 to R317). -/
structure Control where
  /-- reports of faults at supervisor privilege, oldest first (R252) -/
  halts : List HaltReport := []
  activeB : Bool := false
  standby : Bool := false
  version : BitVec 32 := 0
  standbyVersion : BitVec 32 := 0
  imported : Bool := false
  stopped : Bool := false
  ms : BitVec 32 := 0
  skip : BitVec 4 := 0
  cold : Bool := true
  fail : BitVec 4 := 0
  step : BitVec 3 := 0
  /-- this device's peer number, from the configuration image (R313) -/
  peer : BitVec 6 := 0
  /-- member segments that the vat tape area has room for; none where the supervisor has set no bound (R238) -/
  tapeArea : Option Nat := none
  /-- where the image came from (R317) -/
  source : Option BootSource := none
  /-- the root key hash in mask ROM (R317) -/
  rom : BitVec 384 := 0
  /-- the verified image, of which LP6 retains a copy (R316) -/
  image : Option BootImage := none
  /-- the device identity key, which nothing reads but the report's signature (R317) -/
  identity : Option (BitVec 256) := none
  /-- the attestation report of the last start (R317) -/
  report : Option Attestation := none
  /-- fabric time at which the stored curve table was measured (R316) -/
  curveTime : Option Nat := none
  /-- fabric time of the start-up sweep that every core has passed of which nothing else is recorded (R316) -/
  swept : Option Nat := none
  deriving DecidableEq, Repr

/-- A turn of the agenda (log 1): time passes, a strand issues, or an event of the table happens. -/
inductive Turn where
  | tick (n : Nat)
  | issue (core : Nat) (strand : Nat)
  | event (i : Instr)
  deriving DecidableEq, Repr

/-- A word of memory as it stood before a store (R67): its number, physical address ÷ 4, and its bits. -/
structure OldWord where
  word : Nat
  old : Nat
  /-- the agent that stored, by source identifier, and the number of its access -/
  agent : Nat := 0
  id : Nat := 0
  deriving DecidableEq, Repr

/-- Memory as address and byte pairs (R90, Table 5.6). -/
abbrev Memory := List Host.Cell

structure State where
  mem : Memory
  hostMem : Memory
  /-- word numbers (physical address ÷ 4) of the empty words of the TCMs and vats (R94) -/
  empties : List Nat
  /-- word numbers of the words with an uncorrectable error (R93) -/
  badWords : List Nat
  records : List RelRec
  cores : Tab Core
  octets : Tab Octet
  rails : Tab Rail
  clusters : Tab Cluster
  /-- by level, cluster or die, and number: see `domKey` -/
  domains : Tab Domain
  ctxs : Tab Ctx
  launches : Tab Launch
  images : Tab Image
  /-- what the partners of resident DUAL pairs hold, by the partner's number, and what is saved of those of pairs in images (R303) -/
  twins : Tab Twin
  twinImages : Tab Image
  rects : Tab Rect
  flits : List Flit
  windows : List WindowEntry
  host : HostPort
  control : Control
  ports : BitVec 16
  /-- fabric time at which the last port that was up went down (R313) -/
  portsDown : Nat
  budgetMem : Nat
  budgetArray : Nat
  /-- fabric time in fabric cycles (R19) -/
  time : Nat
  /-- fabric time of the last update of the frequency requests (R293) -/
  lastTick : Nat
  /-- fabric time of the last budgets, and the present period's measures (R295) -/
  lastBudget : Nat
  meter : Meter
  /-- the strand that `exec` of an instruction word acts on (log 1) -/
  curCore : Nat
  curStrand : Nat
  agenda : List Turn
  /-- the core that the default order considers next (log 1) -/
  nextCore : Nat
  /-- number of free values drawn (log 15) -/
  freeCtr : Nat
  /-- next identifier of an access, send entry or flit, and of a launch, image or rectangle -/
  nextId : Nat
  nextLaunch : Nat
  /-- accesses of fenced agents that will never be performed (R301) -/
  lost : List Nat
  /-- packets that a receiver has discarded as partial, until they are resent (R164) -/
  nacked : List Nat
  /-- the words that stores have replaced, the latest first: what a fetch may still give (R67) -/
  codeLog : List OldWord
  deriving DecidableEq, Repr

/-- The machine right after reset: no context resident, no memory written, every core's strands at supervisor privilege
(STAT.SUP resets to 1), BOOTSTAT.COLD 1, SUBSTAT.EMPTY 1. -/
def State.reset : State where
  mem := []
  hostMem := []
  empties := []
  badWords := []
  records := []
  cores := []
  octets := []
  rails := []
  clusters := []
  domains := []
  ctxs := []
  launches := []
  images := []
  twins := []
  twinImages := []
  rects := []
  flits := []
  windows := []
  host := {}
  control := {}
  ports := 0xFFFF#16
  portsDown := 0
  budgetMem := 350
  budgetArray := 2650
  time := 0
  lastTick := 0
  lastBudget := 0
  meter := {}
  curCore := 0
  curStrand := 0
  agenda := []
  nextCore := 0
  freeCtr := 0
  nextId := 0
  nextLaunch := 0
  lost := []
  nacked := []
  codeLog := []

end Sys2Proof.Machine
end

