-- ==== Sys2Proof/Machine/Ops.lean ====
section
/-!
DEFINITION. Named operations over registers and memory, address decoding and translation, taking an exception and returning
from one.
-/
namespace Sys2Proof.Machine

/-! ## Reaching cores, strands and registers -/

def State.core (s : State) (c : Nat) : Core := Tab.get {} c s.cores
def State.setCore (s : State) (c : Nat) (k : Core) : State := { s with cores := Tab.put c k s.cores }
def State.strand (s : State) (c t : Nat) : Strand := Tab.get {} t (s.core c).part.strands
def Core.setPart (k : Core) (p : Part) : Core := { k with part := p }
def Part.setStrand (p : Part) (t : Nat) (st : Strand) : Part := { p with strands := Tab.put t st p.strands }
def State.setPart (s : State) (c : Nat) (p : Part) : State := s.setCore c ((s.core c).setPart p)
def State.setStrand (s : State) (c t : Nat) (st : Strand) : State :=
  s.setPart c ((s.core c).part.setStrand t st)
/-- The strand that `exec` of an instruction word acts on (log 1), and its core and resident part. -/
def State.me (s : State) : Strand := s.strand s.curCore s.curStrand
def State.setMe (s : State) (st : Strand) : State := s.setStrand s.curCore s.curStrand st
def State.myCore (s : State) : Core := s.core s.curCore
def State.setMyCore (s : State) (k : Core) : State := s.setCore s.curCore k
def State.myPart (s : State) : Part := (s.core s.curCore).part
def State.setMyPart (s : State) (p : Part) : State := s.setPart s.curCore p
/-- The same state with another strand as the one that acts. -/
def State.at_ (s : State) (c t : Nat) : State := { s with curCore := c, curStrand := t }
def State.octet (s : State) (o : Nat) : Octet := Tab.get {} o s.octets
def State.setOctet (s : State) (o : Nat) (x : Octet) : State := { s with octets := Tab.put o x s.octets }
def State.cluster (s : State) (k : Nat) : Cluster := Tab.get {} k s.clusters
def State.setCluster (s : State) (k : Nat) (x : Cluster) : State := { s with clusters := Tab.put k x s.clusters }
def State.rail (s : State) (q : Nat) : Rail := Tab.get {} q s.rails
def State.setRail (s : State) (q : Nat) (x : Rail) : State := { s with rails := Tab.put q x s.rails }

/-- Octet, quad, cluster and die of a core (R10): 8, 4, 32 and 2,048 cores of consecutive global numbers. -/
def octetOf (c : Nat) : Nat := c / 8
def quadOf (c : Nat) : Nat := c / 4
def clusterOf (c : Nat) : Nat := c / 32
def dieOf (c : Nat) : Nat := c / 2048
/-- x, y of a core on its die (R10). -/
def coreX (c : Nat) : Nat := c / 32 % 4 * 16 + c % 16
def coreY (c : Nat) : Nat := c / 128 % 16 * 2 + c / 16 % 2
/-- The global number of core (d, x, y) (R10). -/
def coreAt (d x y : Nat) : Nat := d * 2048 + (y / 2 * 4 + x / 16) * 32 + (y % 2 * 16 + x % 16)

/-! ### Barrier domains -/

/-- The cluster, die or package that a level's domain of core c belongs to (R211). -/
def instOf (lv : BLevel) (c : Nat) : Nat :=
  match lv with
  | .cluster => clusterOf c
  | .die => dieOf c
  | .package => 0
def domKey (lv : BLevel) (inst k : Nat) : Nat := lv.code * 65536 + inst * 16 + k
def State.domain (s : State) (key : Nat) : Domain := Tab.get {} key s.domains
def State.setDomain (s : State) (key : Nat) (d : Domain) : State := { s with domains := Tab.put key d s.domains }
def Domain.member (d : Domain) (c : Nat) : Bool := (Tab.get 0 (clusterOf c) d.masks).getLsbD (c % 32)

/-- The register file index of Xn: while STAT.UEV = 1 the numbers 24 to 27 name the shadow registers (R40, R59). -/
def Strand.xidx (st : Strand) (n : Nat) : Nat := if st.stat.uev && (24 ≤ n && n ≤ 27) then n + 8 else n
/-- Xn with its mark; X0 reads 0 (R40). -/
def Strand.xreg (st : Strand) (n : Nat) : XReg := if n = 0 then {} else Tab.get {} (st.xidx n) st.x
def Strand.xr (st : Strand) (n : Nat) : Word := (st.xreg n).val
/-- Writes Xn whole; a write to X0 is discarded (R40). -/
def Strand.xput (st : Strand) (n : Nat) (r : XReg) : Strand :=
  if n = 0 then st else { st with x := Tab.put (st.xidx n) r st.x }
/-- The place in the X file of a destination; none for X0. -/
def Strand.xplace (st : Strand) (n : Nat) : Option Nat := if n = 0 then none else some (st.xidx n)
/-- Writes the place `i` of the X file. -/
def Strand.xputAt (st : Strand) (i : Option Nat) (r : XReg) : Strand :=
  match i with
  | some k => { st with x := Tab.put k r st.x }
  | none => st
/-- Writes a value to Xn and clears its pointer mark (R71); a local write makes the register full (Table 8.4). -/
def Strand.xw (st : Strand) (n : Nat) (v : Word) : Strand := st.xput n { val := v }
/-- Writes a value and a mark to Xn. -/
def Strand.xwm (st : Strand) (n : Nat) (v : Word) (mark : Bool) : Strand := st.xput n { val := v, mark := mark }
/-- Marks Xn as having a write pending (R47). -/
def Strand.xbusy (st : Strand) (n : Nat) : Strand := st.xput n { st.xreg n with busy := true }

/-- What an address register stands for (R70). -/
def XReg.ptr (r : XReg) : Word := if r.mark then r.val else BitVec.ofNat 64 (r.val.toNat % 2 ^ 54)
def Strand.xptr (st : Strand) (n : Nat) : Word := (st.xreg n).ptr
/-- fmtof, blkof and vaof of a fat pointer (R44). -/
def fmtof (p : Word) : Nat := p.toNat / 2 ^ 58
def blkof (p : Word) : Nat := p.toNat / 2 ^ 54 % 16
def vaof (p : Word) : Nat := p.toNat % 2 ^ 54
/-- Bits [63:58] nonzero: what an 8-byte load sets the mark to (R71). -/
def loadMark (v : Word) : Bool := v.toNat / 2 ^ 58 != 0

/-- phys(n) (R44). -/
def phys (rbase n : Nat) : Nat := if n < 16 then n else 16 + (n - 16 + rbase) % 16
def Strand.vreg (st : Strand) (p : Nat) : VReg := Tab.get {} p st.v
def Strand.vput (st : Strand) (p : Nat) (r : VReg) : Strand := { st with v := Tab.put p r st.v }
def Strand.nlanes (st : Strand) : Nat := st.lanes.length
/-- elems(w) (R44). -/
def elems (lanes w : Nat) : Nat := lanes * 32 / w
/-- Count and width in bits of predicate p; P0 is every element at width `w0` (R40, R112). -/
def Strand.pred (st : Strand) (p : Nat) (w0 : Nat) : Nat × Nat :=
  if p = 0 then (elems st.nlanes w0, w0)
  else
    let b := (Tab.get 0 p st.p).toNat
    (b % 2 ^ 16, 8 * 2 ^ (b / 2 ^ 16))

/-! ## Memory -/

/-- A byte of physical memory; an address that nothing has written reads 0 (log 4). -/
def State.byteAt (s : State) (pa : Nat) : Byte := Tab.get 0#8 pa s.mem
def State.setByte (s : State) (pa : Nat) (b : Byte) : State := { s with mem := Tab.set 0#8 pa b s.mem }
/-- The memory form: keys strictly rising and no entry 0. -/
def Memory.wf (m : Memory) : Bool := Tab.sorted m && m.all fun e => e.2 != 0#8
/-- The bytes at the addresses `l`, the first least significant (R3). -/
def State.readB (s : State) : List Nat → Nat
  | [] => 0
  | a :: l => (s.byteAt a).toNat + 256 * s.readB l
/-- Stores `v` at the addresses `l`, least significant byte first (R3). -/
def State.writeB (s : State) : List Nat → Nat → State
  | [], _ => s
  | a :: l, v => (s.setByte a (BitVec.ofNat 8 v)).writeB l (v / 256)
/-- n addresses from a. -/
def span (a : Nat) : Nat → List Nat
  | 0 => []
  | n + 1 => a :: span (a + 1) n
def State.readN (s : State) (pa n : Nat) : Nat := s.readB (span pa n)
def State.writeN (s : State) (pa n v : Nat) : State := s.writeB (span pa n) v
/-- The words that hold the bytes `l`, each once where its bytes stand together. -/
def coverWords (l : List Nat) : List Nat := (l.map (· / 4)).eraseReps
/-- Who stores: an agent and the number of its access or command. -/
structure Storer where
  agent : Nat
  id : Nat
  deriving DecidableEq, Repr
/-- What is left of a release after a store to `bytes` (R197, R198): the bytes of it that still stand; its sequence has ended. -/
def RelRec.without (r : RelRec) (bytes : List Nat) : Option RelRec :=
  if !r.bytes.any bytes.contains then some r
  else
    let left := r.bytes.filter fun b => !bytes.contains b
    if left.isEmpty then none else some { r with bytes := left, open_ := false }
/-- A store from outside the cores (a host, a peer, the launch engine): no strand acquires it. -/
def outsider : Storer := { agent := 12 * 8192, id := 0 }
/-- The agents of core c: its strand t, the copy engine at work for strand t, the Churn at work for strand t. -/
def agentOf (c t : Nat) : Nat := 12 * c + t
def engineFor (c t : Nat) : Nat := 12 * c + 4 + t
def churnFor (c t : Nat) : Nat := 12 * c + 8 + t
/-- The later of two bounds for every agent. -/
def Known.join (a b : Known) : Known := b.foldl (fun t e => Tab.put e.1 (Nat.max e.2 (Tab.get 0 e.1 t)) t) a
/-- A store to the bytes `l` follows: what stood there may still be fetched (R67). -/
def State.logCode (s : State) (l : List Nat) (who : Storer) : State :=
  { s with codeLog := (coverWords l).map (fun w => { word := w, old := s.readN (4 * w) 4, agent := who.agent, id := who.id }) ++ s.codeLog }
/-- Later fetches of the core from the `len` bytes at `lo` see the stores that `known` bounds (R67). -/
def State.flushFetch (s : State) (c lo len : Nat) (known : Known) : State :=
  let k := s.core c
  s.setCore c { k with flushes := { lo := lo, len := len, upTo := s.codeLog.length, known := known } :: k.flushes }
/-- The core has fetched nothing: its fetches see memory as it stands. -/
def State.flushAll (s : State) (c : Nat) : State :=
  s.setCore c { s.core c with flushes := [{ lo := 0, len := 2 ^ 54, upTo := s.codeLog.length, all := true }] }
def State.hostByte (s : State) (a : Nat) : Byte := Tab.get 0#8 a s.hostMem
def State.hostRead (s : State) (a : Nat) : Nat → Nat
  | 0 => 0
  | n + 1 => (s.hostByte a).toNat + 256 * s.hostRead (a + 1) n
def State.hostWrite (s : State) (a v : Nat) : Nat → State
  | 0 => s
  | n + 1 => ({ s with hostMem := Tab.set 0#8 a (BitVec.ofNat 8 v) s.hostMem } : State).hostWrite (a + 1) (v / 256) n

/-- Inserts into a strictly rising list. -/
def insertNat (n : Nat) : List Nat → List Nat
  | [] => [n]
  | m :: l => if n < m then n :: m :: l else if n = m then m :: l else m :: insertNat n l
/-- fullbit and setfull of the word that holds a byte (R44, R94). -/
def State.isFull (s : State) (pa : Nat) : Bool := !s.empties.contains (pa / 4)
def State.setFull (s : State) (pa : Nat) : State := { s with empties := s.empties.filter (· != pa / 4) }
def State.setEmpty (s : State) (pa : Nat) : State := { s with empties := insertNat (pa / 4) s.empties }
def State.setFullB (s : State) (l : List Nat) : State := l.foldl State.setFull s
def State.setEmptyB (s : State) (l : List Nat) : State := l.foldl State.setEmpty s
/-- The byte of an uncorrectable word among the bytes `l`, if any (R93). -/
def State.badIn (s : State) (l : List Nat) : Option Nat := l.find? fun a => s.badWords.contains (a / 4)

/-! ## Windows, modes, translation -/

/-- The windows of Table 5.6. -/
inductive Region where
  | tcm (core off : Nat)
  | vat (die off : Nat)
  | hbm (off : Nat)
  | lp6 (off : Nat)
  | peer (p off : Nat)
  | hole
  deriving DecidableEq, Repr

/-- A device's own windows. -/
def ownRegion (pa : Nat) : Region :=
  if pa < 0x40000000 then
    if pa % 0x20000 < 0x18000 then .tcm (pa / 0x20000) (pa % 0x20000) else .hole
  else if pa < 0x50000000 then .vat ((pa - 0x40000000) / 0x4000000) ((pa - 0x40000000) % 0x4000000)
  else if 0x1000000000 ≤ pa && pa < 0x7000000000 then .hbm (pa - 0x1000000000)
  else if 0x10000000000 ≤ pa && pa < 0x20000000000 then .lp6 (pa - 0x10000000000)
  else .hole
/-- The window of a physical address: a peer's own windows repeat in its window at the same offsets. -/
def region (pa : Nat) : Region :=
  if 0x4000000000000 ≤ pa && pa < 0x8000000000000 then
    let off := (pa - 0x4000000000000) % 0x100000000000
    if ownRegion off = .hole then .hole else .peer ((pa - 0x4000000000000) / 0x100000000000) off
  else ownRegion pa

/-- Full/empty bits exist in TCMs and vats (R94). -/
def hasFE (pa : Nat) : Bool :=
  match region pa with
  | .tcm _ _ => true
  | .vat _ _ => true
  | _ => false

/-- A containment rectangle's cores (R10, R300). -/
def Rect.has (r : Rect) (c : Nat) : Bool :=
  dieOf c == r.d && (r.x0 ≤ coreX c && coreX c < r.x0 + r.w) && (r.y0 ≤ coreY c && coreY c < r.y0 + r.h)
/-- The core whose own values the place of core c holds: itself, but in the world of a DUAL pair's partner that partner (R303). -/
def State.selfCore (s : State) (c : Nat) : Nat := (s.core c).twinOf.getD c
/-- The partner of a DUAL member: y xor 1 (R303). -/
def partnerOf (c : Nat) : Nat := if c % 32 < 16 then c + 16 else c - 16
/-- Core number c lies in a rectangle that is fenced (R301: from FENCED until OPEN). -/
def State.inFence (s : State) (c : Nat) : Bool := s.rects.any fun e => e.2.has c && e.2.state != .fencing
/-- Whether what the place of core c holds is fenced (R301): its own core is. -/
def State.fenced (s : State) (c : Nat) : Bool := s.inFence (s.selfCore c)
/-- Core c or a DUAL pair's partner of its part is fenced (R301, R303). -/
def State.pairFenced (s : State) (c : Nat) : Bool := s.inFence c || ((s.core c).part.partner.any s.inFence)
/-- Whether an access by core `by_` to core c is refused at a fence: one of the two is fenced and both are not in one rectangle. -/
def State.fencedTo (s : State) (by_ c : Nat) : Bool :=
  s.rects.any fun e => e.2.state != .fencing && (e.2.has (s.selfCore c) != e.2.has (s.selfCore by_))
def State.inMap (s : State) (c : Nat) : Bool := c < 8192 && (s.core c).test.inMap

/-- An access's kind: it fixes the rights (R267) and CAUSE.ACC (Table 14.1). -/
inductive AccKind where
  | load | loadEmpty | store | atomic | fetch | engRead | engWrite | prefetch
  deriving DecidableEq, Repr
def AccKind.acc : AccKind → Nat
  | .load => 1 | .loadEmpty => 3 | .store => 2 | .atomic => 3 | .fetch => 4 | .engRead => 5 | .engWrite => 6
  | .prefetch => 1
/-- R, W, X and A of Table 14.7 that an access needs (R267). -/
def AccKind.allows (k : AccKind) (e : TlbEntry) : Bool :=
  match k with
  | .load => e.r | .prefetch => e.r | .engRead => e.r
  | .store => e.w | .engWrite => e.w
  | .loadEmpty => e.r && e.w
  | .atomic => e.a && e.r && e.w
  | .fetch => e.x

/-- Page bytes by SIZE (Table 14.7). -/
def pageBytes : Nat → Nat
  | 0 => 0x10000
  | 1 => 0x200000
  | _ => 0x40000000
def TlbEntry.matches (e : TlbEntry) (asid : BitVec 16) (va : Nat) : Bool :=
  (e.glob || e.asid == asid) && va / pageBytes e.size == e.va / pageBytes e.size
def Core.tlb (k : Core) : TlbKind → List TlbEntry
  | .loadStore => k.tlbLS | .matrix => k.tlbMX | .engine => k.tlbCE | .fetch => k.tlbIF
def Core.setTlb (k : Core) (t : TlbKind) (l : List TlbEntry) : Core :=
  match t with
  | .loadStore => { k with tlbLS := l } | .matrix => { k with tlbMX := l } | .engine => { k with tlbCE := l }
  | .fetch => { k with tlbIF := l }

/-- What the checks of an access answer. -/
inductive Chk where
  | ok (bytes : List Nat)
  | fault (f : FaultInfo)
  | miss (va : Nat)
  deriving DecidableEq, Repr

/-- The physical byte of an address whose page a TLB of core c holds, whatever the rights (R265). -/
def State.mapped (s : State) (c : Nat) (k : TlbKind) (asid : BitVec 16) (va : Nat) : Option Nat :=
  (((s.core c).tlb k).find? fun e => e.matches asid va).map fun e => e.pa / pageBytes e.size * pageBytes e.size + va % pageBytes e.size
/-- Translates one byte in mode G (R265 to R267). -/
def State.translate (s : State) (c : Nat) (k : TlbKind) (asid : BitVec 16) (acc : AccKind) (va : Nat) : Chk :=
  match ((s.core c).tlb k).find? fun e => e.matches asid va with
  | none => .miss va
  | some e =>
    if !acc.allows e then .fault { code := if acc == .fetch then 0x0A else 0x12, acc := acc.acc, eva := va }
    else
      let pa := e.pa / pageBytes e.size * pageBytes e.size + va % pageBytes e.size
      if region pa == .hole then .fault { code := if acc == .fetch then 0x09 else 0x11, acc := acc.acc, eva := va }
      else .ok [pa]

/-! ### Which entry a full TLB gives up (Table 14.6) -/

/-- An access that used the entry for `va`: least recently used keeps the entries in the order of their use, the latest first;
first in, first out keeps them in the order of their arrival; second chance sets the reference bit. -/
def touchTlb (k : TlbKind) (asid : BitVec 16) (l : List TlbEntry) (va : Nat) : List TlbEntry :=
  match k, l.find? fun e => e.matches asid va with
  | _, none => l
  | .matrix, some _ => l
  | .engine, some e => l.map fun x => if x = e then { x with used := true } else x
  | _, some e => e :: l.erase e
/-- An address of each page that the n bytes at `ea` may lie in. -/
def pageSteps (x : Nat × Nat) : List Nat :=
  if x.2 = 0 then [] else (List.range ((x.2 - 1) / 0x10000 + 1)).map (fun k => (x.1 + 0x10000 * k) % 2 ^ 54) ++ [(x.1 + x.2 - 1) % 2 ^ 54]
/-- Accesses of core c to the spans `l` (address, bytes) have used their translations (R265). -/
def State.useTlb (s : State) (c : Nat) (k : TlbKind) (asid : BitVec 16) (l : List (Nat × Nat)) : State :=
  match l with
  | [] => s
  | l => s.setCore c ((s.core c).setTlb k ((l.flatMap pageSteps).foldl (touchTlb k asid) ((s.core c).tlb k)))
/-- The load-store TLB's entries that translate the spans `l` for core c (R269). -/
def State.lsEntries (s : State) (c : Nat) (asid : BitVec 16) (l : List (Nat × Nat)) : List TlbEntry :=
  ((l.flatMap pageSteps).filterMap fun va => (s.core c).tlbLS.find? fun e => e.matches asid va).eraseDups
/-- Strand (c, t)'s accesses from number `n` on were translated by the entries `l` (R269). -/
def State.tagAccesses (s : State) (c t n : Nat) (l : List TlbEntry) : State :=
  match l with
  | [] => s
  | l =>
    let st := s.strand c t
    s.setStrand c t { st with out := st.out.map fun a => if n ≤ a.id then { a with via := l } else a }
/-- Second chance: an oldest entry whose reference bit is 1 has it cleared and is passed over. `l` has the oldest first. -/
def passOver : Nat → List TlbEntry → List TlbEntry
  | n + 1, e :: l => if e.used then passOver n (l ++ [{ e with used := false }]) else l
  | _, l => l.drop 1

/-- The range check and place of one byte in modes L, C and N (R90). -/
def State.place (s : State) (c : Nat) (sup : Bool) (m : Mode) (ea : Nat) : Option Nat :=
  match m with
  | .L => if ea < 0x16000 || (sup && ea < 0x18000) then some (c * 0x20000 + ea) else none
  | .C => if ea < 0x2C0000 then some ((c / 32 * 32 + ea / 4 % 32) * 0x20000 + (ea / 128 * 4 + ea % 4)) else none
  | .N =>
    if ea < 2 ^ 30 && s.inMap (ea / 0x20000) && (ea % 0x20000 < 0x16000 || (sup && ea % 0x20000 < 0x18000)) then some ea
    else none
  | .G => none

/-- All of `l` placed, or none. -/
def placeAll (f : Nat → Option Nat) : List Nat → Option (List Nat)
  | [] => some []
  | a :: l =>
    match f a, placeAll f l with
    | some p, some q => some (p :: q)
    | _, _ => none

/-- All of `l` translated; the first fault or miss otherwise. -/
def transAll (f : Nat → Chk) : List Nat → Chk
  | [] => .ok []
  | a :: l =>
    match f a with
    | .ok p =>
      match transAll f l with
      | .ok q => .ok (p ++ q)
      | r => r
    | r => r

/-- The core whose TCM holds a byte, where one does. -/
def tcmCore (pa : Nat) : Option Nat :=
  match region pa with
  | .tcm c _ => some c
  | _ => none

/-- Whether the peer window of a byte can be reached: some port is up (R313). -/
def State.peerDown (s : State) (pa : Nat) : Bool :=
  match region pa with
  | .peer _ _ => s.ports == 0
  | _ => false

/-- Core `k` is the partner of a DUAL pair, and another than core `by_`: traffic to its number is refused (R303). -/
def State.partnerNumber (s : State) (by_ k : Nat) : Bool :=
  let p := (s.core k).part
  k != by_ && p.mirror && p.resident && !p.done
/-- Accesses of core `by_` to the TCM of core `k` are refused: at a fence (R301), or by the number of a DUAL pair's partner (R303). -/
def State.refusedAt (s : State) (by_ k : Nat) : Bool := s.fencedTo by_ k || s.partnerNumber by_ k

/-- The checks of R93 after the format check, in their order: mode range, fence, alignment, translation, full/empty support. In mode G
the first two look at the bytes whose translation the core holds.
`who` is the core and strand that access; the bytes run from `ea`. -/
def State.check (s : State) (c : Nat) (sup : Bool) (asid : BitVec 16) (tlb : TlbKind) (acc : AccKind) (m : Mode)
    (ea n align : Nat) (needFE : Bool) : Chk :=
  let bad (code : Nat) : Chk := .fault { code := code, acc := acc.acc, eva := ea }
  let after (bytes : List Nat) : Chk :=
    if needFE && bytes.any (fun a => !hasFE a) then bad 0x14 else .ok bytes
  match m with
  | .G =>
    let vas := (span ea n).map (· % 2 ^ 54)
    let pas := vas.filterMap (s.mapped c tlb asid)
    if pas.any s.peerDown then bad 0x15
    else if pas.any (fun a => match tcmCore a with | some k => s.refusedAt c k | none => false) then bad 0x16
    else if ea % align ≠ 0 then bad 0x10
    else
      match transAll (s.translate c tlb asid acc) vas with
      | .ok bytes => after bytes
      | r => r
  | m =>
    match placeAll (s.place c sup m) (span ea n) with
    | none => bad 0x15
    | some bytes =>
      if bytes.any (fun a => if m = .N then s.refusedAt c (a / 0x20000) else s.fencedTo c (a / 0x20000)) then bad 0x16
      else if ea % align ≠ 0 then bad 0x10
      else after bytes

/-! ## Free values, events, energy -/

/-- The next free value and the state that has drawn it (log 15). -/
def State.free (s : State) : BitVec 8192 × State := (Config.freeBits s.freeCtr, { s with freeCtr := s.freeCtr + 1 })

/-- Raises user event k on a strand: sets its bit in EVPEND (R59). -/
def Strand.raise (st : Strand) (k : Nat) : Strand :=
  { st with regs := { st.regs with evpend := st.regs.evpend ||| BitVec.ofNat 6 (2 ^ k) } }
/-- Raises user event k on every strand of a resident part that has not ended. -/
def Part.raiseAll (p : Part) (k : Nat) : Part :=
  { p with strands := p.strands.map fun e => (e.1, e.2.raise k) }

/-- Settled voltage of a core (CVOLT). -/
def State.cvolt (s : State) (c : Nat) : Nat := (s.rail (quadOf c)).volt
/-- A nJ in the units of the estimates' remainders, 1/6400 pJ ÷ 750² (R294). -/
def njUnit : Nat := 6400000 * 562500
/-- `u` units of energy are a core's, and a permit class's where one spends them (R295, R296). -/
def Spent.add (m : Spent) (u : Nat) (cls : Option Nat) : Spent :=
  { array := m.array + u
    classes := match cls with | some k => m.classes.mapIdx fun i x => if i = k then x + u else x | none => m.classes }
/-- `w` units of energy are spent on a core: its activity of the 10 µs (R293), its share of the array's (R295), and with `acct` its part's ACCTNJ
(R294). -/
def Core.spend (k : Core) (w : Nat) (cls : Option Nat) (acct : Bool) : Core :=
  let u := w + k.part.njFrac
  { k with
    activity := k.activity + w, spent := k.spent.add w cls
    part := if acct then { k.part with acctNj := k.part.acctNj + BitVec.ofNat 64 (u / njUnit), njFrac := u % njUnit } else k.part }
/-- An energy estimate of `e` times 1/6400 pJ at 750 mV, scaled by (CVOLT ÷ 750)² (R294), on core c. -/
def State.spendAt (s : State) (c e : Nat) (cls : Option Nat) (acct : Bool) : State :=
  s.setCore c ((s.core c).spend (e * s.cvolt c * s.cvolt c) cls acct)
/-- Adds an energy estimate of `e` times 1/6400 pJ at 750 mV to core c's, spent by permit class `cls` (0 matrix, 1 vector, 2 SFU, 3 memory), and
with `acct` to its part's ACCTNJ. What a DUAL pair's partner spends is its own core's, on which the pair's part is a mirror (R303). -/
def State.spend (s : State) (c e : Nat) (cls : Option Nat) (acct : Bool) : State :=
  match (s.core c).twinOf with
  | some q => (s.spendAt c e cls acct).spendAt q e cls acct
  | none => s.spendAt c e cls acct
/-- Adds an energy estimate to the core's and its part's. A part that is not resident in the sense of R298, not yet or no more, has nothing added to
its ACCTNJ. -/
def State.charge (s : State) (c e : Nat) (cls : Option Nat) : State := s.spend c e cls (s.core c).part.charged

/-- Adds an energy estimate of `e` hundredths of a pJ at 750 mV (R294). -/
def State.energy (s : State) (c e : Nat) (cls : Option Nat) : State := s.charge c (64 * e) cls

/-- pJ for 64 bytes between core c and the memory that holds a byte (Table 16.7). -/
def moveCost (c pa : Nat) : Nat :=
  match region pa with
  | .tcm q _ => if q = c then 1 else if clusterOf q = clusterOf c then 3 else if dieOf q = dieOf c then 8 else 20
  | .vat d _ => if d = dieOf c then 8 else 20
  | .hbm _ => 40
  | .lp6 _ => 60
  | .peer _ _ => 90
  | .hole => 0
/-- The traffic of an access to HBM4E and LP6 is measured (R295). -/
def State.metered (s : State) (bytes : List Nat) : State :=
  let far := (bytes.filter fun a => match region a with | .hbm _ | .lp6 _ => true | _ => false).length
  { s with meter := { s.meter with bytes := s.meter.bytes + far } }
/-- Adds the energy of the bytes that core c moves, in proportion to 64 bytes (R294, log 20), and their traffic to the memory rails (R295). -/
def State.moved (s : State) (c : Nat) (bytes : List Nat) : State :=
  (s.metered bytes).charge c (bytes.foldl (fun n a => n + 100 * moveCost c a) 0) (some 3)

/-! ## Faults -/

/-- A strand's next bundle after `n` bytes. -/
def nextPc (pc : VAddr) (n : Nat) : VAddr := pc + BitVec.ofNat 54 n
/-- Bits [53:2] of a register as a target (R29). -/
def target (v : Word) : VAddr := BitVec.ofNat 54 (v.toNat % 2 ^ 54 / 4 * 4)

/-- The CAUSE word of R251. -/
def causeWord (f : FaultInfo) (word def_ vec mtx : Bool) : Word :=
  BitVec.ofNat 64 (f.code % 64 + (if word then 64 else 0) + (if def_ then 128 else 0) + (if vec then 256 else 0)
    + (if mtx then 512 else 0) + 1024 * (f.acc % 8) + 2 ^ 32 * (f.trapno % 2 ^ 16))

/-- Ends the exchange phase of a core as XEND does (R190); armed selections are discarded (R275) and the phase floor is
lifted (R186). -/
def Core.endPhase (k : Core) : Core :=
  { k with exch := { k.exch with active := false, waiting := false, armed := [] }, curve := { k.curve with floor := false } }
/-- Strand t's fault ends a phase that is active on the core, or one that it has begun (R186, R190, R251). -/
def Core.faultPhase (k : Core) (t : Nat) : Core :=
  if k.exch.active || (k.curve.floor && k.exch.strand == t) then k.endPhase else k

/-- The other cores of the convoy that core c's strand t may lead: same quad, same launch (R287). -/
def quadMates (c : Nat) : List Nat := (span (c / 4 * 4) 4).filter (· != c)

/-- A context that exists (R257): the supervisor's table has it, or a task of it is at work on a core or saved. -/
def State.ctxLives (s : State) (k : Nat) : Bool :=
  Tab.has k s.ctxs || (s.cores.any fun e => e.2.part.resident && !e.2.part.done && e.2.part.ctx == k)
    || s.images.any fun e => e.2.restored.isNone && e.2.part.ctx == k
/-- A cluster's task queue without the records of contexts that have ended (R246). -/
def State.liveTasks (s : State) (cl : Nat) : List TaskRec := (s.cluster cl).tasks.filter fun r => s.ctxLives r.ctx

/-! ### Matching caps -/

/-- A strand of a context is resident on the core (R18): its member's task has not ended. -/
def Part.occupied (p : Part) : Bool := p.resident && !p.done
def State.onCurve (s : State) (c : Nat) (f : Curve → Curve) : State :=
  let k := s.core c
  s.setCore c { k with curve := f k.curve }
/-- The lower of a speed and a cap. -/
def capTo (f : Nat) (c : Option Nat) : Nat := match c with | some x => Nat.min f x | none => f
/-- A curve's speed without the matching cap. -/
def Curve.ownSpeed (k : Curve) : Nat := capTo (capTo k.cfreq k.thCap) k.lnCap
/-- The core that leads strand (c, t): its convoy's leader, or itself (R287). -/
def State.leads (s : State) (c t : Nat) : Nat := if (s.strand c t).stat.slave then (s.strand c t).leader else c
/-- The cores that core c's clock is matched with directly, while a member is on it: its convoy (R287), its partner in a DUAL pair (R303). -/
def State.links (s : State) (c : Nat) : List Nat :=
  let p := (s.core c).part
  if !p.occupied then []
  else p.partner.toList ++ (quadMates c).filter fun k => (s.core k).part.occupied && (s.core k).part.launch == p.launch &&
    (span 0 4).any fun t => s.leads k t == s.leads c t
/-- The cores `l` with all those that links lead to from them, in at most `n` rounds. -/
def State.linked (s : State) : Nat → List Nat → List Nat
  | 0, l => l
  | n + 1, l =>
    match ((l.flatMap s.links).filter fun k => !l.contains k).eraseDups with
    | [] => l
    | more => s.linked n (l ++ more)
/-- The cores that run at one speed with core c: convoys and pairs join (R287, R303); they all lie in its quad and its partner's. -/
def State.matched (s : State) (c : Nat) : List Nat := s.linked 8 [c]
/-- The matching cap of core c (Table 1.4): the slowest of those that it is matched with, where that is below its own speed. -/
def State.matchCap (s : State) (c : Nat) : State :=
  let own := (s.core c).curve.ownSpeed
  let m := (s.matched c).foldl (fun m k => Nat.min m (s.core k).curve.ownSpeed) own
  let cap := if m < own then some m else none
  if (s.core c).curve.mCap = cap then s else s.onCurve c fun k => { k with mCap := cap }
/-- The matching caps around core c are worked out anew: its quad's and its partners' quad's. -/
def State.rematch (s : State) (c : Nat) : State :=
  let q := c / 4 * 4
  (span q 4 ++ span (partnerOf q) 4).foldl State.matchCap s

/-- A follower leaves its convoy, whose leader stands at `pc` (R256): it fetches privately from there; one that sleeps in an earlier bundle goes on
there after it, and one that has issued the bundle at `pc` already goes on after that. -/
def Strand.leave (st : Strand) (pc : VAddr) : Strand :=
  let st1 := { st with stat := { st.stat with slave := false }, ahead := false }
  if st.ahead then st1 else if st.asleep.isSome then { st1 with npc := pc } else { st1 with pc := pc }
/-- Followers of strand (c, t) leave the convoy (R256, R287), whose leader stands at `pc`. -/
def State.leaveConvoy (s : State) (c t : Nat) (pc : VAddr) : State :=
  (quadMates c).foldl (fun s k =>
    let st := s.strand k t
    if st.stat.slave && st.leader == c && (s.core k).part.launch == (s.core c).part.launch then s.setStrand k t (st.leave pc) else s) s

/-- Some strand follows strand (c, t) (R287). -/
def State.hasFollowers (s : State) (c t : Nat) : Bool := (quadMates c).any fun k => (s.strand k t).stat.slave && (s.strand k t).leader == c
/-- Every strand of the part ends; the member's task has the cause (R252, R254). -/
def Part.endTask (p : Part) (cause : Option Nat) (supf : Bool) : Part :=
  { p with
    strands := p.strands.map fun e => (e.1, { e.2 with status := .ended, asleep := none })
    taskFault := if p.taskFault.isSome then p.taskFault else cause
    supFault := p.supFault || supf }

/-- A report to the control complex (R252). -/
def State.reportHalt (s : State) (r : HaltReport) : State := { s with control := { s.control with halts := s.control.halts ++ [r] } }
/-- Rings whose owner is strand t become undefined (R143). -/
def Part.dropRings (p : Part) (t : Nat) : Part := { p with rings := p.rings.filter fun e => e.2.owner != t }
/-- A bundle of strand (c, t) has issued: the strand is the last that issued on its core, now (R47), whose residence is charged from its
first issue on (R298); the issue costs its energy (R294). -/
def State.noteIssue (s : State) (c t : Nat) : State :=
  let k := s.core c
  (s.setCore c { k with last := t, issued := some s.time, part := { k.part with charged := true } }).energy c 300 none

/-- Taking a fault (R251): at user privilege CAUSE, EPC and EVA are written, STAT.SUP is set, a phase on the core ends, a
follower leaves its convoy and a leader's followers leave it at the leader's pc (R256), and the pc goes to FVEC; at supervisor privilege
the strand stops, the core reports to the control complex, and the member's task ends (R252). -/
def State.takeFault (s : State) (c t : Nat) (f : FaultInfo) (word def_ vec mtx : Bool) (epc : VAddr) : State :=
  let st := s.strand c t
  if st.stat.sup then
    (s.setPart c ((s.core c).part.endTask (some f.code) true)).reportHalt
      { core := c, strand := t, code := f.code, epc := target (epc.setWidth 64), eva := BitVec.ofNat 54 f.eva }
  else
    let st' := { st with
      regs := { st.regs with
        cause := causeWord f word def_ vec mtx
        epc := target (epc.setWidth 64)
        eva := BitVec.ofNat 54 f.eva }
      stat := { st.stat with sup := true, slave := false }
      ahead := false
      asleep := none
      miss := none
      missFault := none
      pc := target (st.regs.fvec.setWidth 64) }
    let s1 := s.leaveConvoy c t st.pc
    let s2 := (s1.setCore c ((s1.core c).faultPhase t)).setStrand c t st'
    if st.stat.slave || s.hasFollowers c t then s2.rematch c else s2

/-- The return of R58: pc and privilege as one step. -/
def Strand.returnFromFault (st : Strand) : Strand :=
  { st with npc := target (st.regs.epc.setWidth 64), stat := { st.stat with sup := false } }

/-! ## Effects of a word -/

/-- What a word of a bundle does at issue. -/
inductive Eff where
  /-- its effect -/
  | done (s : State)
  /-- it faults, precisely (R28) -/
  | trap (f : FaultInfo)
  /-- it faults after an arrival that stands (R185) -/
  | trapIn (s : State) (f : FaultInfo)
  /-- the strand is not ready for it (R47) -/
  | wait
  /-- it sleeps; `s` holds what the attempt changed -/
  | sleep (k : SleepKind) (words : List Nat) (s : State)
  /-- its address has no translation yet (R266) -/
  | miss (k : TlbKind) (va : Nat)

/-- An effect on the acting strand alone. -/
def onStrand (s : State) (st : Strand) : Eff := .done (s.setMe st)
/-- The effect that writes Xd and clears its mark. -/
def writeX (s : State) (d : Reg) (v : Word) : Eff := .done (s.setMe (s.me.xw d.val v))
def trapCode (c : Nat) : Eff := .trap { code := c }

end Sys2Proof.Machine
end

