-- ==== Sys2Proof/Machine/Operands.lean ====
section
/-!
DEFINITION. Operand forms: which registers a word reads and writes, vector groups and pairs with their checks (R41, R113),
element access (R103, R107), privilege (R43), unit classes.
-/
namespace Sys2Proof

/-- The major opcode of a word. -/
def Instr.op (i : Instr) : Nat := encode i / 2 ^ 23

/-- The X registers that a word reads (R47). -/
def Instr.xReads : Instr → List Nat
  | .ret => [30]
  | .jmpr a | .callr a => [a.val]
  | .beq d a _ | .bne d a _ | .blt d a _ | .bge d a _ | .bltn d a _ | .bgen d a _ => [d.val, a.val]
  | .beqi d _ _ | .bnei d _ _ | .bz d _ | .bnz d _ => [d.val]
  | .sets _ a | .swaps _ _ a | .evmask _ a => [a.val]
  | .spill .x d c => Machine.span d.val (c.val + 1)
  | .iflush a b => [a.val, b.val]
  | .ld _ b _ _ | .lds _ b _ _ | .lda _ b _ _ | .lde _ b _ _ | .ldp _ b _ _ | .pfch b _ _ => [b.val]
  | .st d b _ _ | .stf d b _ _ | .stl d b _ _ => [d.val, b.val]
  | .stp d b _ _ => [d.val, d.val + 1, b.val]
  | .clfe a b _ => [a.val, b.val]
  | .aadd _ a b _ _ _ _ | .aand _ a b _ _ _ _ | .aor _ a b _ _ _ _ | .axor _ a b _ _ _ _ | .amin _ a b _ _ _ _
  | .amax _ a b _ _ _ _ | .aswp _ a b _ _ _ _ => [a.val, b.val]
  | .acas d a b _ _ _ _ => [d.val, a.val, b.val]
  | .accf a b _ _ _ => [a.val, b.val]
  | .cellrd _ a _ _ _ _ | .promote a _ _ => [a.val]
  | .bset d _ _ => [d.val]
  | .send _ a | .post _ a | .mcast _ a => [a.val]
  | .rsend a b => [a.val, b.val]
  | .rsendv a _ _ | .msgmov a _ _ => [a.val]
  | .cpy a b c _ _ _ _ | .cpyg a b c _ _ _ _ | .cpysc a b c _ _ _ _ => [a.val, b.val, c.val]
  | .cpys _ b c _ _ _ | .ringdef _ b c _ => [b.val, c.val]
  | .tguard a _ | .tslot a _ => [a.val]
  | .cbinit a b => [a.val, b.val]
  | .cbwait _ a | .cbtest _ a => [a.val]
  | .vld _ a _ _ | .vldg _ a _ _ _ | .vst _ a _ _ | .vstg _ a _ _ _ | .vldb _ a _ _ | .vldsy _ a _ _ => [a.val]
  | .vlds _ a b _ _ | .vsts _ a b _ _ => [a.val, b.val]
  | .vseq a _ _ | .vrep a _ _ | .pset _ a _ | .dtload a _ => [a.val]
  | .add _ a b _ | .sub _ a b _ | .mul _ a b _ | .mulh _ a b _ | .mulhn _ a b _ | .div _ a b _ | .divn _ a b _
  | .rem _ a b _ | .remn _ a b _ | .shl _ a b _ | .shr _ a b _ | .sra _ a b _ => [a.val, b.val]
  | .and _ a b | .or _ a b | .xor _ a b | .slt _ a b | .sltn _ a b | .min _ a b | .max _ a b | .padd _ a b =>
    [a.val, b.val]
  | .addi _ a _ | .andi _ a _ | .ori _ a _ | .xori _ a _ | .slti _ a _ | .paddi _ a _ | .shli _ a _ | .shri _ a _
  | .srai _ a _ | .ptag _ a _ _ | .clz _ a | .popc _ a | .pstrip _ a => [a.val]
  | .movhi d _ => [d.val]
  | .sel d a b => [d.val, a.val, b.val]
  | .fadd _ a b _ _ | .fmul _ a b _ _ | .fcmp _ a b _ _ => [a.val, b.val]
  | .fma d a b _ _ => [d.val, a.val, b.val]
  | .fcvt _ a _ _ _ => [a.val]
  | .vbcst _ a _ _ => [a.val]
  | .vext _ _ b _ _ | .vslide _ _ b _ _ _ | .vscale _ _ b _ _ _ => [b.val]
  | .mprog a _ | .mstz a _ _ _ | .mldz _ a _ => [a.val]
  | _ => []

/-- The X registers that a word writes, at issue or later (R28, R47). -/
def Instr.xWrites : Instr → List Nat
  | .call _ | .callr _ => [30]
  | .gets d _ | .swaps d _ _ | .evwait d | .evmask d _ => [d.val]
  | .fill .x d c => Machine.span d.val (c.val + 1)
  | .mkrcap d a .x _ => [d.val, a.val]
  | .mkrcap d _ .v _ => [d.val]
  | .ld d _ _ _ | .lds d _ _ _ | .lda d _ _ _ | .lde d _ _ _ => [d.val]
  | .ldp d _ _ _ => [d.val, d.val + 1]
  | .aadd d _ _ _ _ _ _ | .aand d _ _ _ _ _ _ | .aor d _ _ _ _ _ _ | .axor d _ _ _ _ _ _ | .amin d _ _ _ _ _ _
  | .amax d _ _ _ _ _ _ | .aswp d _ _ _ _ _ _ | .acas d _ _ _ _ _ _ => [d.val]
  | .cellrd d _ _ _ _ _ => [d.val]
  | .send d _ | .post d _ | .mcast d _ | .recv d | .rpeek d | .take d _ | .next d | .cpyq d | .ringst d _ => [d.val]
  | .cbwait d _ | .cbtest d _ | .vclaim d _ | .pget d _ | .rbget d => [d.val]
  | .add d _ _ _ | .sub d _ _ _ | .mul d _ _ _ | .mulh d _ _ _ | .mulhn d _ _ _ | .div d _ _ _ | .divn d _ _ _
  | .rem d _ _ _ | .remn d _ _ _ | .shl d _ _ _ | .shr d _ _ _ | .sra d _ _ _ => [d.val]
  | .and d _ _ | .or d _ _ | .xor d _ _ | .slt d _ _ | .sltn d _ _ | .min d _ _ | .max d _ _ | .padd d _ _ => [d.val]
  | .addi d _ _ | .andi d _ _ | .ori d _ _ | .xori d _ _ | .slti d _ _ | .paddi d _ _ | .shli d _ _ | .shri d _ _
  | .srai d _ _ | .ptag d _ _ _ | .clz d _ | .popc d _ | .pstrip d _ => [d.val]
  | .movi d _ | .movhi d _ => [d.val]
  | .sel d _ _ => [d.val]
  | .fadd d _ _ _ _ | .fmul d _ _ _ _ | .fcmp d _ _ _ _ | .fma d _ _ _ _ => [d.val]
  | .fcvt d _ _ _ _ => [d.val]
  | .vext d _ _ _ _ => [d.val]
  | .mstat a => [a.val]
  | _ => []

/-- The P register that a word writes (R28). -/
def Instr.pWrite : Instr → Option Nat
  | .pset d _ _ => some d.val
  | .pseti d _ _ => some d.val
  | _ => none

/-- The Z tile that a word writes (R28). -/
def Instr.zWrite : Instr → Option Nat
  | .mzero c | .mma c _ _ _ | .mmas c _ _ _ | .mrun c _ _ _ | .mldz c _ _ => some c.val
  | _ => none

/-- The predicate that governs a vector instruction, and the width of P0 for it (R113); the vector memory instructions take
their width from the pointer (R89). -/
def Instr.govern : Instr → Option (Nat × Nat)
  | .vadd _ _ _ p t _ | .vsub _ _ _ p t _ | .vcmp _ _ _ p t _ | .vslide _ _ _ p t _ => some (p.val, t.bits)
  | .vmul _ _ _ p t | .vmulh _ _ _ p t | .vand _ _ _ p t | .vor _ _ _ p t | .vxor _ _ _ p t | .vshl _ _ _ p t
  | .vshr _ _ _ p t | .vsra _ _ _ p t | .vmin _ _ _ p t | .vmax _ _ _ p t | .vsel _ _ _ p t | .vext _ _ _ p t
  | .vperm _ _ _ p t => some (p.val, t.bits)
  | .vbcst _ _ p t => some (p.val, t.bits)
  | .viota _ p t => some (p.val, t.bits)
  | .vfadd _ _ _ p t _ | .vfsub _ _ _ p t _ | .vfmul _ _ _ p t _ | .vfma _ _ _ p t _ | .vfms _ _ _ p t _
  | .vfcmp _ _ _ p t _ | .vscale _ _ _ p t _ => some (p.val, t.width)
  | .vfmin _ _ _ p t | .vfmax _ _ _ p t | .vaddx _ _ _ p t | .vsubx _ _ _ p t | .vmulx _ _ _ p t =>
    some (p.val, t.width)
  | .vfabs _ _ p t | .vsum _ _ p t | .vredmax _ _ p t => some (p.val, t.width)
  | .vfrnd _ _ p t _ => some (p.val, t.width)
  | .vsfu _ _ p t _ => some (p.val, t.width)
  | .vfcvt _ _ p dt sty _ => some (p.val, Nat.max dt.bits sty.bits)
  | .dwadd _ _ _ p | .dwsub _ _ _ p | .dwmul _ _ _ p => some (p.val, 32)
  | .dwnorm _ _ p | .vsumc _ _ p => some (p.val, 32)
  | .rsendv _ _ p => some (p.val, 32)
  | _ => none

/-- The predicate number of a vector memory instruction. -/
def Instr.memPred : Instr → Option Nat
  | .vld _ _ p _ | .vst _ _ p _ | .vldb _ _ p _ | .vldsy _ _ p _ => some p.val
  | .vlds _ _ _ p _ | .vldg _ _ _ p _ | .vsts _ _ _ p _ | .vstg _ _ _ p _ => some p.val
  | _ => none

namespace Machine

/-- A V operand of a word: its number, element width, whether it is a pair operand, whether it is one register (or one pair)
and no group, whether the word writes it. -/
structure VOp where
  n : Nat
  w : Nat
  pair : Bool := false
  single : Bool := false
  dst : Bool := false
  deriving DecidableEq, Repr

/-- The V operands (Table 3.7, R41); `w` is the width of a vector memory instruction's elements. -/
def vOps (i : Instr) (w : Nat) : List VOp :=
  match i with
  | .vadd d a b _ t _ | .vsub d a b _ t _ | .vcmp d a b _ t _ =>
    [{ n := d.val, w := t.bits, dst := true }, { n := a.val, w := t.bits }, { n := b.val, w := t.bits }]
  | .vmul d a b _ t | .vmulh d a b _ t | .vand d a b _ t | .vor d a b _ t | .vxor d a b _ t | .vshl d a b _ t
  | .vshr d a b _ t | .vsra d a b _ t | .vmin d a b _ t | .vmax d a b _ t | .vsel d a b _ t | .vperm d a b _ t =>
    [{ n := d.val, w := t.bits, dst := true }, { n := a.val, w := t.bits }, { n := b.val, w := t.bits }]
  | .vslide d a _ _ t _ => [{ n := d.val, w := t.bits, dst := true }, { n := a.val, w := t.bits }]
  | .vext _ a _ _ t => [{ n := a.val, w := t.bits }]
  | .vbcst d _ _ t => [{ n := d.val, w := t.bits, dst := true }]
  | .viota d _ t => [{ n := d.val, w := t.bits, dst := true }]
  | .vfadd d a b _ t _ | .vfsub d a b _ t _ | .vfmul d a b _ t _ | .vfma d a b _ t _ | .vfms d a b _ t _
  | .vfcmp d a b _ t _ =>
    [{ n := d.val, w := t.width, dst := true }, { n := a.val, w := t.width }, { n := b.val, w := t.width }]
  | .vscale d a _ _ t _ => [{ n := d.val, w := t.width, dst := true }, { n := a.val, w := t.width }]
  | .vfmin d a b _ t | .vfmax d a b _ t =>
    [{ n := d.val, w := t.width, dst := true }, { n := a.val, w := t.width }, { n := b.val, w := t.width }]
  | .vaddx d a b _ t | .vsubx d a b _ t | .vmulx d a b _ t =>
    [{ n := d.val, w := t.width, pair := true, dst := true }, { n := a.val, w := t.width }, { n := b.val, w := t.width }]
  | .dwadd d a b _ | .dwsub d a b _ | .dwmul d a b _ =>
    [{ n := d.val, w := 32, pair := true, dst := true }, { n := a.val, w := 32, pair := true },
     { n := b.val, w := 32, pair := true }]
  | .dwnorm d a _ => [{ n := d.val, w := 32, pair := true, dst := true }, { n := a.val, w := 32, pair := true }]
  | .vfabs d a _ t => [{ n := d.val, w := t.width, dst := true }, { n := a.val, w := t.width }]
  | .vfrnd d a _ t _ => [{ n := d.val, w := t.width, dst := true }, { n := a.val, w := t.width }]
  | .vsfu d a _ t _ => [{ n := d.val, w := t.width, dst := true }, { n := a.val, w := t.width }]
  | .vsum d a _ t | .vredmax d a _ t =>
    [{ n := d.val, w := t.width, single := true, dst := true }, { n := a.val, w := t.width }]
  | .vsumc d a _ => [{ n := d.val, w := 32, pair := true, single := true, dst := true }, { n := a.val, w := 32 }]
  | .vfcvt d a _ dt st _ => [{ n := d.val, w := dt.bits, dst := true }, { n := a.val, w := st.bits }]
  | .vld d _ _ _ | .vldb d _ _ _ | .vldsy d _ _ _ => [{ n := d.val, w := w, dst := true }]
  | .vlds d _ _ _ _ => [{ n := d.val, w := w, dst := true }]
  | .vldg d _ b _ _ => [{ n := d.val, w := w, dst := true }, { n := b.val, w := 32 }]
  | .vst d _ _ _ => [{ n := d.val, w := w }]
  | .vsts d _ _ _ _ => [{ n := d.val, w := w }]
  | .vstg d _ b _ _ => [{ n := d.val, w := w }, { n := b.val, w := 32 }]
  | .rsendv _ b _ => [{ n := b.val, w := w }]
  | .xmit _ l _ => [{ n := l.val, w := 32, single := true }]
  | .xsel _ l _ => [{ n := l.val, w := 32, single := true, dst := true }]
  | _ => []

/-- g of R41: registers' worth of elements. -/
def groupRegs (lanes w c : Nat) : Nat := max 1 ((c + elems lanes w - 1) / elems lanes w)
/-- How many operand numbers an operand covers (R41). -/
def VOp.len (o : VOp) (lanes c : Nat) : Nat :=
  (if o.single then 1 else groupRegs lanes o.w c) * (if o.pair then 2 else 1)
/-- A group runs from 15 to 16 or past 31, or a pair straddles the wrap (R41). -/
def VOp.straddles (o : VOp) (lanes c rbase : Nat) : Bool :=
  let k := o.len lanes c
  (o.n < 16 && 16 < o.n + k) || 32 < o.n + k ||
  (o.pair && (span 0 (k / 2)).any fun j => 16 ≤ o.n + 2 * j && (o.n + 2 * j - 16 + rbase) % 16 == 15)
/-- The operands as the window check counts them: at the predicate's width, but each of VFCVT's at its own (R41, R123). -/
def windowOps (i : Instr) (w : Nat) : List VOp :=
  match i with
  | .vfcvt _ _ _ _ _ _ => vOps i w
  | _ => if i.govern.isSome then (vOps i w).map fun o => { o with w := w } else vOps i w
/-- The physical registers that an operand covers. -/
def VOp.regs (o : VOp) (lanes c rbase : Nat) : List Nat := (span o.n (o.len lanes c)).map (phys rbase)

/-- P0's width and the widths allowed for a format; none where the format is not one, or is sparse (Table 5.5). -/
def fmtWidths : Nat → Option (Nat × List Nat)
  | 0x00 => some (32, [8, 16, 32, 64])
  | 0x01 => some (8, [8, 16, 32, 64]) | 0x02 => some (16, [16, 32, 64]) | 0x03 => some (32, [32, 64])
  | 0x04 => some (64, [64])
  | 0x05 => some (8, [8, 16, 32, 64]) | 0x06 => some (16, [16, 32, 64]) | 0x07 => some (32, [32, 64])
  | 0x08 => some (32, [32])
  | 0x09 => some (16, [16, 32]) | 0x0A => some (16, [16, 32])
  | 0x0B => some (32, [16, 32]) | 0x0C => some (32, [16, 32])
  | 0x10 => some (32, [16, 32]) | 0x11 => some (32, [16, 32]) | 0x12 => some (32, [16, 32])
  | 0x13 => some (32, [16, 32]) | 0x14 => some (32, [16, 32]) | 0x15 => some (32, [16, 32])
  | 0x18 => some (32, [16, 32]) | 0x19 => some (32, [16, 32])
  | _ => none

/-- The codes of Table 5.5. -/
def isFormat (f : Nat) : Bool :=
  f ≤ 0x0C || (0x10 ≤ f && f ≤ 0x15) || f == 0x18 || f == 0x19 || (0x20 ≤ f && f ≤ 0x22)
/-- accsize (Table 5.5); 1 where the code is no format. -/
def accsize (f : Nat) : Nat :=
  match f with
  | 0x00 => 8 | 0x02 => 2 | 0x03 => 4 | 0x04 => 8 | 0x06 => 2 | 0x07 => 4 | 0x08 => 4 | 0x09 => 2 | 0x0A => 2
  | _ => 1

/-- Count and width that a vector instruction captures at handover (R103, R113): the predicate's own, or for P0 every element
at the instruction's width (a vector memory instruction: the format's P0 width). -/
def Strand.captured (st : Strand) (i : Instr) : Nat × Nat :=
  match i.govern with
  | some (p, w) => st.pred p w
  | none =>
    match i.memPred with
    | some p =>
      let f := match i.xReads with
        | a :: _ => fmtof (st.xptr a)
        | [] => 0
      st.pred p (match fmtWidths f with | some (w, _) => w | none => 32)
    | none => (0, 32)

/-- Steps 7 and 8 of Table 3.9 for one word, with the RBASE it will use. -/
def Strand.regChecks (st : Strand) (rbase : Nat) (i : Instr) : Option Nat :=
  let odd := match i with
    | .ldp d _ _ _ | .stp d _ _ _ => d.val % 2 == 1
    | _ => (vOps i 32).any fun o => o.pair && o.n % 2 == 1
  if odd then some 0x06
  else
    let (c, w) := st.captured i
    let bad := match i with
      | .mmovzv a _ _ => VOp.straddles { n := a.val, w := 32 } st.nlanes 16 rbase
      | _ => (windowOps i w).any fun o => o.straddles st.nlanes c rbase
    if bad then some 0x07 else none

/-- The physical V registers that a word writes (R28). -/
def Strand.vDests (st : Strand) (i : Instr) : List Nat :=
  let (c, w) := st.captured i
  match i with
  | .mkrcap _ a .v _ => [phys st.rbase.toNat a.val]
  | .fill .v d c => (span d.val (c.val + 1)).map (phys st.rbase.toNat)
  | .mmovzv a _ _ => VOp.regs { n := a.val, w := 32 } st.nlanes 16 st.rbase.toNat
  | _ => ((windowOps i w).filter (·.dst)).flatMap fun o => o.regs st.nlanes c st.rbase.toNat

/-- Both words write the same destination (R28, step 9 of Table 3.9). -/
def Strand.sameDest (st : Strand) (i j : Instr) : Bool :=
  (i.xWrites.any fun n => n != 0 && j.xWrites.contains n) || (i.pWrite.isSome && i.pWrite == j.pWrite)
    || (i.zWrite.isSome && i.zWrite == j.zWrite) || (st.vDests i).any fun r => (st.vDests j).contains r

/-- The selectors written at supervisor privilege only (R43, Tables 4.3, 6.1, 7.9, 14.3). -/
def selSuper (sel : Nat) : Bool :=
  [0x001, 0x002, 0x003, 0x040, 0x041, 0x050, 0x051, 0x082, 0x088, 0x089, 0x097, 0x098, 0x099, 0x09A, 0x09B, 0x09C].contains sel
/-- Step 5 of Table 3.9 on the opcode and selector fields of a word (R43). -/
def privileged (w : Nat) : Bool :=
  let op := w / 2 ^ 23 % 256
  let sel := w % 2 ^ 12
  op == 0x15 || ((op == 0x12 || op == 0x13) && selSuper sel)
    || ((op == 0x11 || op == 0x13) && (0x098 ≤ sel && sel ≤ 0x09B))

/-- Element i of width w of the group at operand number n, in registers `file`; `off` is VREP's register offset (R118). -/
def physOff (rbase off n : Nat) : Nat := if n < 16 then n + off else phys rbase n
def vget (file : Tab VReg) (lanes rbase off n w i : Nat) : Nat :=
  let e := elems lanes w
  (Tab.get {} (physOff rbase off (n + i / e)) file).val.toNat / 2 ^ (w * (i % e)) % 2 ^ w
/-- High and low part of element i of the pair operand n (R41). -/
def vgetHi (file : Tab VReg) (lanes rbase off n w i : Nat) : Nat :=
  let e := elems lanes w
  (Tab.get {} (physOff rbase off (n + 2 * (i / e))) file).val.toNat / 2 ^ (w * (i % e)) % 2 ^ w
def vgetLo (file : Tab VReg) (lanes rbase off n w i : Nat) : Nat := vgetHi file lanes rbase off (n + 1) w i
/-- A field of a register replaced. -/
def setField (r : BitVec 2048) (w k v : Nat) : BitVec 2048 :=
  let old := r.toNat / 2 ^ (w * k) % 2 ^ w
  BitVec.ofNat 2048 (r.toNat - old * 2 ^ (w * k) + v % 2 ^ w * 2 ^ (w * k))
def putField (file : Tab VReg) (p w k v : Nat) : Tab VReg :=
  Tab.put p { val := setField (Tab.get {} p file).val w k v, full := true } file
def vset (file : Tab VReg) (lanes rbase off n w i v : Nat) : Tab VReg :=
  let e := elems lanes w
  putField file (physOff rbase off (n + i / e)) w (i % e) v
def vsetPair (file : Tab VReg) (lanes rbase off n w i hi lo : Nat) : Tab VReg :=
  let e := elems lanes w
  let f1 := putField file (physOff rbase off (n + 2 * (i / e))) w (i % e) hi
  putField f1 (physOff rbase off (n + 2 * (i / e) + 1)) w (i % e) lo

end Machine
end Sys2Proof
end

