-- ==== Sys2Proof/Machine/Flags.lean ====
section
/-!
DEFINITION. Status flags: what the scalar and vector float instructions set, and STAT, VSTAT, SPMAP, MSTAT as words.
-/
namespace Sys2Proof.Machine

def b2n (b : Bool) : Nat := if b then 1 else 0

/-- Sets STAT's sticky float flags (R75, R77). -/
def Strand.setF (st : Strand) (f : FFlags) : Strand :=
  { st with stat := { st.stat with fnv := st.stat.fnv || f.nv, fof := st.stat.fof || f.of, fuf := st.stat.fuf || f.uf,
                                    fnx := st.stat.fnx || f.nx } }
/-- Sets VSTAT's sticky float flags (R122). -/
def VFlags.add (v : VFlags) (f : FFlags) : VFlags :=
  { v with nv := v.nv || f.nv, of := v.of || f.of, uf := v.uf || f.uf, nx := v.nx || f.nx }
def VFlags.or (a b : VFlags) : VFlags :=
  { exl := a.exl || b.exl, ovx := a.ovx || b.ovx, sat := a.sat || b.sat, nv := a.nv || b.nv, of := a.of || b.of,
    uf := a.uf || b.uf, nx := a.nx || b.nx }

/-- STAT as it reads (Table 4.4). -/
def StatFlags.word (f : StatFlags) (strand : Nat) : Word :=
  BitVec.ofNat 64 (b2n f.fnv * 2 ^ 23 + b2n f.fof * 2 ^ 22 + b2n f.fuf * 2 ^ 21 + b2n f.fnx * 2 ^ 20
    + b2n f.sup * 2 ^ 15 + b2n f.uev * 2 ^ 14 + b2n f.kv * 2 ^ 13 + b2n f.slave * 2 ^ 12 + strand % 4 * 2 ^ 8)
/-- A write of STAT: W1C of [23:20]; the other named fields are RO (Tables 0.2, 4.4). -/
def StatFlags.write (f : StatFlags) (v : Word) : StatFlags :=
  { f with fnv := f.fnv && !v.getLsbD 23, fof := f.fof && !v.getLsbD 22, fuf := f.fuf && !v.getLsbD 21,
           fnx := f.fnx && !v.getLsbD 20 }
/-- VSTAT as it reads (Table 6.2), and a write of it. -/
def VFlags.word (f : VFlags) : Word :=
  BitVec.ofNat 64 (b2n f.exl * 64 + b2n f.ovx * 32 + b2n f.sat * 16 + b2n f.nv * 8 + b2n f.of * 4 + b2n f.uf * 2 + b2n f.nx)
def VFlags.write (f : VFlags) (v : Word) : VFlags :=
  { exl := f.exl && !v.getLsbD 6, ovx := f.ovx && !v.getLsbD 5, sat := f.sat && !v.getLsbD 4, nv := f.nv && !v.getLsbD 3,
    of := f.of && !v.getLsbD 2, uf := f.uf && !v.getLsbD 1, nx := f.nx && !v.getLsbD 0 }
/-- VRESUME and MRESUME (Tables 6.3, 7.9); SKIP is their one RW field. -/
def Resume.word (r : Resume) : Word := BitVec.ofNat 64 (r.pc.toNat / 4 * 4 + b2n r.pend * 2 + b2n r.skip)

/-- Bytes of a spill record (R63), of a strand by tier, and of a core (R64). -/
def SpillRec.bytes (r : SpillRec) : Nat :=
  match r.cls with
  | .x => 8 * r.count
  | .v => 4 * r.lanes * r.count
def Strand.parked (st : Strand) (tier : Nat) : Nat :=
  (st.spill.filter (·.tier == tier)).foldl (fun n r => n + r.bytes) 0
def Part.parkedIn (p : Part) (tier : Nat) : Nat := p.strands.foldl (fun n e => n + e.2.parked tier) 0
def Part.parked (p : Part) : Nat :=
  p.strands.foldl (fun n e => n + e.2.spill.foldl (fun m r => m + r.bytes) 0) 0
/-- Bytes that the banks of an octet's unclaimed lanes hold: 32 registers of 4 bytes each (R63, R107). -/
def State.laneRoom (s : State) (o : Nat) : Nat := 128 * ((span 0 128).filter fun j => (Tab.get {} j (s.octet o).lanes).owner.isNone).length
/-- The parts whose lanes lie in the octet: those of its cores and, in a DUAL pair, those of partners there (R303). -/
def State.octetParts (s : State) (o : Nat) : List Part :=
  (s.cores.filter fun k => octetOf k.1 == o).map (·.2.part) ++ (s.twins.filter fun k => octetOf k.1 == o).map (·.2.core.part)
def State.parkedInLanes (s : State) (o : Nat) : Nat := (s.octetParts o).foldl (fun n p => n + p.parkedIn 0) 0
/-- Some Z tiles of the core are not held: the two of one strand have room for all that a core may park (R63, R138). -/
def Part.zRoom (p : Part) : Bool := (span 0 4).any fun t => !(Tab.get {} t p.strands).mx.held
/-- SPMAP (Table 4.5). -/
def spmapWord (p : Part) (st : Strand) : Word :=
  BitVec.ofNat 64 (st.spill.length * 2 ^ 48 + p.parked * 2 ^ 36 + st.parked 0 * 2 ^ 24 + st.parked 1 * 2 ^ 12 + st.parked 2)
/-- MSTAT's result (Table 7.8). -/
def StrandMx.word (m : StrandMx) : Word :=
  BitVec.ofNat 64 (b2n m.prog.isSome * 2 ^ 11 + m.semi.code * 2 ^ 8 + b2n m.z1.int * 128 + b2n m.z0.int * 64
    + b2n m.held * 32 + b2n m.iov * 4 + b2n m.of * 2 + b2n m.nv)

end Sys2Proof.Machine
end

