-- ==== Sys2Proof/Machine/Tape.lean ====
section
/-!
DEFINITION. Recording of launch tapes: taints (R239), guards (R240), records (R241, R242).
-/
namespace Sys2Proof.Machine

/-- The argument indices of a taint, as a mask. -/
def Taint.mask : Taint → BitVec 64
  | .none => 0
  | .linear i _ _ _ => BitVec.ofNat 64 (2 ^ i)
  | .mixed m => m
def Taint.tainted : Taint → Bool
  | .none => false
  | _ => true
/-- mixed with a mask, or none. -/
def mixedOf (m : BitVec 64) : Taint := if m = 0 then .none else .mixed m

/-- The taint of the X results of a word that is no load (R239). -/
def Strand.resultTaint (st : Strand) (i : Instr) : Taint :=
  let t (n : Nat) : Taint := (st.xreg n).taint
  let union : Taint := mixedOf (i.xReads.foldl (fun m n => m ||| (t n).mask) 0)
  let addTo (a : Nat) (v : Word) : Taint :=
    match t a with
    | .linear k sh off false => .linear k sh (off + v) false
    | _ => union
  let paddTo (a : Nat) (v : Word) : Taint :=
    match t a with
    | .linear k sh off true => .linear k sh (off + v) true
    | _ => union
  match i with
  | .add _ a b false =>
    if (t b.val).tainted then (if (t a.val).tainted then union else addTo b.val (st.xr a.val))
    else addTo a.val (st.xr b.val)
  | .addi _ a im => addTo a.val (im.signExtend 64)
  | .padd _ a b => if (t b.val).tainted then union else paddTo a.val (st.xr b.val)
  | .paddi _ a im => paddTo a.val (im.signExtend 64)
  | .shli _ a k =>
    match t a.val with
    | .linear j sh off false => if sh + k.toNat ≤ 63 then .linear j (sh + k.toNat) (off <<< k.toNat) false else union
    | _ => union
  | .sel d a b =>
    if (t d.val).tainted then union else if st.xr d.val ≠ 0 then t a.val else t b.val
  | _ => union

/-- The taint that a mode-G scalar load gives (R239): linear from an aligned argument word, mixed from any other byte of the
block; `size` is its access size and `ea` its address. The kind follows the loaded mark. -/
def loadTaint (argbase : Nat) (m : Mode) (ea size : Nat) : Taint :=
  if m ≠ .G then .none
  else if size = 8 && argbase ≤ ea && ea < argbase + 512 && (ea - argbase) % 8 == 0 then .linear ((ea - argbase) / 8) 0 0 false
  else if argbase < ea + size && ea < argbase + 512 then .mixed (BitVec.ofNat 64 (2 ^ ((ea - argbase) / 8)))
  else .none

/-- Argument word i of the launch (R239), where its address is translated. -/
def State.argWord (s : State) (i : Nat) : Option Word :=
  let st := s.me
  match transAll (s.translate s.curCore .loadStore st.regs.asid .load) (span (st.regs.argbase.toNat + 8 * i) 8) with
  | .ok b => some (BitVec.ofNat 64 (s.readB b))
  | _ => none

/-- The indices of a mask. -/
def maskBits (m : BitVec 64) : List Nat := (span 0 64).filter fun i => m.getLsbD i

/-- Adds guards, each index once (R240); more than 32 abandon the recording (R242). -/
def TapeState.guard (t : TapeState) (gs : List (Nat × Word)) : TapeState :=
  let new := gs.filter fun g => !(t.seg.guards.any fun h => h.1 == g.1)
  let all := t.seg.guards ++ new
  if 32 < all.length then { t with abandon := true } else { t with seg := { t.seg with guards := all } }

def tapeRec (kind : Nat) (ps : Bool) (word v : Nat) : TapeRec :=
  { header := BitVec.ofNat 64 (kind + b2n ps * 256 + word % 2 ^ 32 * 2 ^ 16), value := BitVec.ofNat 64 v }
def insnRec (i : Instr) (v : Nat) : TapeRec := tapeRec 1 false (encodeLone i) v

/-- Appends records; more than 3,968 abandon the recording (R242). -/
def TapeState.append (t : TapeState) (l : List TapeRec) : TapeState :=
  if 3968 < t.seg.recs.length + l.length then { t with abandon := true }
  else { t with seg := { t.seg with recs := t.seg.recs ++ l } }

/-- Position of a slot in the list. -/
def slotIndex (x : Nat × Nat × Word × Bool) : List (Nat × Nat × Word × Bool) → Nat
  | [] => 0
  | y :: l => if x = y then 0 else 1 + slotIndex x l

/-- Appends an OPND record for a register (R241, R242): a linear taint takes a patch slot, a mixed one abandons. -/
def TapeState.operand (t : TapeState) (r : XReg) : TapeState :=
  let word := b2n r.mark
  match r.taint with
  | .none => t.append [tapeRec 2 false word r.val.toNat]
  | .mixed _ => { t with abandon := true }
  | .linear i sh off ptr =>
    let x := (i, sh, off, ptr)
    let k := slotIndex x t.seg.slots
    let slots := if k < t.seg.slots.length then t.seg.slots else t.seg.slots ++ [x]
    if 64 < slots.length then { t with abandon := true }
    else ({ t with seg := { t.seg with slots := slots } } : TapeState).append [tapeRec 2 true word k]

/-- Words that end a recording (R242). -/
def abandons : Instr → Bool
  | .vext _ _ _ _ _ | .rbget _ | .cbtest _ _ | .cpyq _ | .ringst _ _ | .mstat _ | .rsendv _ _ _ | .xphase _
  | .xmit _ _ _ | .xsel _ _ _ => true
  | _ => false

/-- Vector words that enter the sequencer (R114). -/
def isSeq : Instr → Bool
  | .rbset _ | .rbget _ | .rsendv _ _ _ | .xmit _ _ _ | .xsel _ _ _ | .mmovzv _ _ _ | .spill .v _ _ | .fill .v _ _ => true
  | i => i.memPred.isSome || i.govern.isSome
/-- Churn queue words (R151). -/
def isChurn : Instr → Bool
  | .mzero _ | .mma _ _ _ _ | .mmas _ _ _ _ | .msemi _ | .mprog _ _ | .mrun _ _ _ _ | .mstz _ _ _ _ | .mldz _ _ _
  | .ringdef _ _ _ _ => true
  | _ => false

/-- The predicate value that an entry captures, as a P register reads (R112). -/
def Strand.predWord (st : Strand) (i : Instr) : Nat :=
  let (c, w) := st.captured i
  c + 2 ^ 16 * (match w with | 8 => 0 | 16 => 1 | 64 => 3 | _ => 2)

/-- The records of one sequencer entry: INSN, PRED, its X operands; `pair` where the next entry is its partner. -/
def TapeState.seqEntry (t : TapeState) (st : Strand) (rbase : Nat) (i : Instr) (pair : Bool) : TapeState :=
  let t1 := t.append [{ insnRec i 0 with pair := pair }, tapeRec 4 false rbase (st.predWord i)]
  i.xReads.foldl (fun t n => t.operand (st.xreg n)) t1

/-- The descriptor's eight fields at a TCM offset. -/
def State.descFields (s : State) (c off : Nat) : List Word :=
  (span 0 8).map fun k => BitVec.ofNat 64 (s.readN (c * 0x20000 + off + 8 * k) 8)

/-- What a word issued during RECORD appends (R242). `old` is the strand before the word, `s` the state before it, `body` the
entries that it has handed over (those of a VSEQ's or VREP's body, the RBSET of a SETS or SWAPS of RBASE), `grant` the lanes after a VFREE;
a VCLAIM's record takes its grant when the octet serves it (`State.noteGrant`), and a loop with count 0, which hands nothing over, records its body by
`State.recordLoop`. -/
def TapeState.record (t : TapeState) (s : State) (old : Strand) (i : Instr) (body : List SeqEntry) (grant : Nat) : TapeState :=
  if abandons i then { t with abandon := true }
  else
    let ops (t : TapeState) (l : List Nat) : TapeState := l.foldl (fun t n => t.operand (old.xreg n)) t
    let desc (c : Reg) : List TapeRec :=
      ((span 0 8).zip (s.descFields s.curCore ((old.xr c.val).toNat % 2 ^ 17))).map fun e => tapeRec 3 false e.1 e.2.toNat
    match i with
    | .cpy a b c _ _ _ _ | .cpyg a b c _ _ _ _ | .cpysc a b c _ _ _ _ =>
      (ops (t.append [insnRec i 0]) [a.val, b.val]).append (desc c)
    | .cpys _ b c _ _ _ => (ops (t.append [insnRec i 0]) [b.val]).append (desc c)
    | .cbinit a b => ops (t.append [insnRec i 0]) [a.val, b.val]
    | .cbwait _ a => ops (t.append [insnRec i 0]) [a.val]
    | .ringdef _ b c _ => ops (t.append [insnRec i 0]) [b.val, c.val]
    | .mprog a _ | .mstz a _ _ _ | .mldz _ a _ => ops (t.append [insnRec i 0]) [a.val]
    | .dtload a m =>
      let bytes := match m with
        | .G => match transAll (s.translate s.curCore .loadStore old.regs.asid .load) (span (vaof (old.xptr a.val)) 1024) with
          | .ok b => b
          | _ => []
        | m => (placeAll (s.place s.curCore old.stat.sup m) (span (vaof (old.xptr a.val)) 1024)).getD []
      ops (t.append [insnRec i (Config.tapeHash (bytes.map s.byteAt)).toNat]) [a.val]
    | .mzero _ | .mma _ _ _ _ | .mmas _ _ _ _ | .msemi _ | .mrun _ _ _ _ | .msync => t.append [insnRec i 0]
    | .vclaim _ _ | .vfree => t.append [tapeRec 6 false 0 grant]
    | .yield dl kv => t.append [tapeRec 5 false (dl.toNat + b2n kv * 2 ^ 10) 0]
    | .vseq a _ _ | .vrep a _ _ =>
      if body.isEmpty then t else body.foldl (fun t e => t.seqEntry old e.rbase e.instr e.pairHead) (ops (t.append [insnRec i 0]) [a.val])
    | i =>
      if isSeq i then t.seqEntry old old.rbase.toNat i false
      else body.foldl (fun t e => t.seqEntry old old.rbase.toNat e.instr false) t

/-- A VSEQ or VREP `i` of the acting strand records its count and its body, whatever the count (R242). -/
def State.recordLoop (s : State) (i : Instr) (body : List SeqEntry) : State :=
  let p := s.myPart
  if p.tape.mode ≠ 1 || p.tape.abandon then s
  else
    let t := p.tape.record s s.me i body 0
    s.setMyPart { p with tape := if t.abandon then { p.tape with abandon := true } else t }
/-- The guards that a word records (R240): TGUARD's own, and those of every index in the taint of a register that a
conditional branch, JMPR or CALLR reads. -/
def guardIndices (old : Strand) (i : Instr) : List Nat :=
  let regs (l : List Nat) : List Nat := maskBits (l.foldl (fun m n => m ||| (old.xreg n).taint.mask) 0)
  match i with
  | .tguard _ k => [k.toNat]
  | .beq d a _ | .bne d a _ | .blt d a _ | .bge d a _ | .bltn d a _ | .bgen d a _ => regs [d.val, a.val]
  | .beqi d _ _ | .bnei d _ _ | .bz d _ | .bnz d _ => regs [d.val]
  | .jmpr a | .callr a => regs [a.val]
  | _ => []

/-- Argument words that a word needs for its guards or for TSLOT and that have no translation yet. -/
def State.argMiss (s : State) (i : Instr) : Option Nat :=
  if s.myPart.tape.mode ≠ 1 then none
  else
    let need := guardIndices s.me i ++ (match i with | .tslot _ k => [k.toNat] | _ => [])
    (need.find? fun k => (s.argWord k).isNone).map fun k => s.me.regs.argbase.toNat + 8 * k

/-- TSLOT's taint (R239). -/
def State.slotTaint (s : State) (a k : Nat) : Taint :=
  let r := s.me.xreg a
  let w := (s.argWord k).getD 0
  if r.mark then .linear k 0 (BitVec.ofInt 64 ((vaof r.val : Int) - vaof w)) true else .linear k 0 (r.val - w) false

/-- Taints and records after a word's effect: `s` before it, `s'` after it (R239 to R242); a word that abandons the recording
appends nothing (log 49). Outside RECORD nothing happens. -/
def recordPass (s s' : State) (i : Instr) : State :=
  let p := s'.myPart
  if p.tape.mode ≠ 1 then s'
  else
    let old := s.me
    let new := s'.me
    let isLoad := match i with
      | .ld _ _ _ _ | .lda _ _ _ _ | .lds _ _ _ _ | .lde _ _ _ _ | .ldp _ _ _ _ | .fill _ _ _ => true
      | _ => false
    let tt := old.resultTaint i
    let new1 :=
      if isLoad then new
      else i.xWrites.foldl (fun st n => st.xput n { st.xreg n with taint := tt }) new
    let new2 := match i with
      | .tslot a k => new1.xput a.val { new1.xreg a.val with taint := s.slotTaint a.val k.toNat }
      | _ => new1
    let t := p.tape
    let t1 := if t.abandon then t else
      (t.guard ((guardIndices old i).map fun k => (k, (s.argWord k).getD 0))).record s old i
        (new.seq.drop old.seq.length) new.nlanes
    (s'.setMyPart { p with tape := if t1.abandon then { t with abandon := true } else t1 }).setMe new2

end Sys2Proof.Machine
end

