-- ==== Sys2Proof/Machine/Issue.lean ====
section
/-!
DEFINITION. Issue of a lone word: readiness (R47), the checks of Table 3.9 that belong to one decoded word, the watchdog
(R51), and what becomes of the word's effect.
-/
namespace Sys2Proof.Machine

/-- Registers a request for a translation with the cluster's walker queue of 64 requests (R266); requests for one page of one
ASID are merged and take one place. -/
def State.walk (s : State) (q : MissReq) : State :=
  let k := clusterOf q.core
  let cl := s.cluster k
  let same := cl.walker.any fun r => r.asid == q.asid && r.va / 0x10000 == q.va / 0x10000
  let places := (cl.walker.map fun r => (r.asid, r.va / 0x10000)).eraseDups.length
  if same || places < 64 then s.setCluster k { cl with walker := cl.walker ++ [q] }
  else s.setCluster k { cl with overflow := cl.overflow ++ [q] }

/-- The acting strand misses (R266): it waits and TMISS increases by 1. -/
def State.missScalar (s : State) (who : Requester) (kind : TlbKind) (va : Nat) : State :=
  let st := s.me
  let q : MissReq := { who := who, kind := kind, core := s.curCore, strand := s.curStrand, va := va, asid := st.regs.asid }
  (s.setMe { st with miss := some q, regs := { st.regs with tmiss := st.regs.tmiss + 1 } }).walk q

/-- A register that a bundle reads is available (R47). -/
def Strand.canRead (st : Strand) (n : Nat) : Bool := let r := st.xreg n; r.full && !r.busy
/-- No earlier instruction has a write pending to a register that the bundle writes (R47). -/
def Strand.canWrite (st : Strand) (n : Nat) : Bool := !(st.xreg n).busy
/-- An acquire that has not returned holds the strand (R195, R198). -/
def Strand.acquiring (st : Strand) : Bool := st.out.any fun a => a.acq.isSome

/-- The exchange clock lets the acting strand issue now: one bundle in a core cycle, and none in the cycle after a taken transfer (R47, R48). Outside
a phase the model counts no core cycles (log 26). -/
def State.phaseSlot (s : State) : Bool :=
  !s.myCore.exch.active || (s.myCore.issued != some s.time && s.me.restUntil ≤ s.time)
/-- A YIELD of the strand's present privilege is still to take effect (R28). -/
def Strand.dueNow (st : Strand) : Bool := if st.stat.sup then st.supDue else st.yieldDue
/-- The strand may issue a bundle at all (R47, R185, R258, R301). -/
def State.canIssue (s : State) : Bool :=
  let st := s.me
  let e := s.myCore.exch
  st.status == .running && st.asleep.isNone && st.miss.isNone && !st.acquiring
    && !(e.active && e.strand != s.curStrand) && !e.waiting && (st.churnHeld.isEmpty || st.mresume.pend)
    && st.seqFault.isNone && st.churnFault.isNone && st.seqMiss.isNone && st.claim.isNone && !st.dueNow && s.phaseSlot
    && !s.fenced s.curCore
/-- Formats whose encoding may draw from SEED: 8 bits or narrower, in a float or block format, or TAB8 (R45, R84, R87). -/
def narrowFormat (f : Nat) : Bool := f == 0x0B || f == 0x0C || (0x10 ≤ f && f ≤ 0x15) || f == 0x18
/-- A sequencer entry may draw from SEED when it executes (R45). -/
def SeqEntry.mayDraw (e : SeqEntry) : Bool :=
  match e.instr with
  | .vfadd _ _ _ _ _ sr | .vfsub _ _ _ _ _ sr | .vfmul _ _ _ _ _ sr | .vfma _ _ _ _ _ sr | .vfms _ _ _ _ _ sr | .vscale _ _ _ _ _ sr => sr
  | .vfcvt _ _ _ dt _ sr => sr || dt.bits ≤ 8
  | .vfrnd _ _ _ _ m => m == .sr
  | .vst _ _ _ _ | .vsts _ _ _ _ _ | .vstg _ _ _ _ _ => narrowFormat (fmtof e.xa.ptr)
  | _ => false
/-- A scalar word reads or writes SEED (R45, R46, R225). -/
def Strand.usesSeed (st : Strand) (i : Instr) : Bool :=
  match i with
  | .fadd _ _ _ _ sr | .fmul _ _ _ _ sr | .fma _ _ _ _ sr => sr
  | .fcvt _ _ dt _ sr => sr || dt.bits ≤ 8
  | .st _ b _ _ | .stf _ b _ _ | .stl _ b _ _ | .stp _ b _ _ => narrowFormat (fmtof (st.xptr b.val))
  | .gets _ sel | .sets sel _ | .swaps _ sel _ => sel == 0x008
  | .cpy _ _ _ _ _ _ _ | .cpyg _ _ _ _ _ _ _ | .cpysc _ _ _ _ _ _ _ | .cpys _ _ _ _ _ _ => true
  | _ => false
/-- SEED is drawn from in program order (R46, R114): a scalar word that uses it waits for earlier entries that may draw (log 14). -/
def Strand.seedFree (st : Strand) (i : Instr) : Bool := !st.usesSeed i || !st.seq.any SeqEntry.mayDraw
/-- The scoreboard lets a word issue (R47). -/
def Strand.scoreboard (st : Strand) (i : Instr) : Bool := i.xReads.all st.canRead && i.xWrites.all st.canWrite && st.seedFree i

def isLoop : Instr → Bool
  | .vseq _ _ _ | .vrep _ _ _ => true
  | _ => false
/-- The permit class of a word (R296): 0 matrix, 1 vector, 2 SFU, 3 memory. A write of RBASE is handed over as an RBSET (R119). DESIGN CHOICE
(log 72): a VSFU and a vector memory word are sequencer handovers too, and the spec does not say whether they take a permit of both classes; the
model takes that of the SFU or of memory alone. -/
def permitClass (i : Instr) : Option Nat :=
  match i with
  | .vsfu _ _ _ _ _ => some 2
  | .cpy _ _ _ _ _ _ _ | .cpys _ _ _ _ _ _ | .cpyg _ _ _ _ _ _ _ | .cpysc _ _ _ _ _ _ _ => some 3
  | .accf _ _ _ _ _ | .cellrd _ _ _ _ _ _ => some 3
  | .sets sel _ | .swaps _ sel _ => if sel = 0x006 then some 1 else none
  | i =>
    if isChurn i then some 0
    else if i.memPred.isSome then some 3
    else if isSeq i || isLoop i then some 1
    else
      let op := i.op
      if (0x20 ≤ op && op ≤ 0x2A) || (0x30 ≤ op && op ≤ 0x37) then some 3 else none
def Core.rate (k : Core) : Nat → Nat
  | 0 => k.rateMtx.toNat | 1 => k.rateVec.toNat | 2 => k.rateSfu.toNat | _ => k.rateMem.toNat
def isDivide : Instr → Bool
  | .div _ _ _ _ | .divn _ _ _ _ | .rem _ _ _ _ | .remn _ _ _ _ => true
  | _ => false
/-- The unit can accept the word: a divide finds the divider free (R48), and a permit of the word's class is there; a rate of 64 never limits (R296).
A VSEQ or VREP needs one of the sequencer's. -/
def Core.permitted (k : Core) (i : Instr) : Bool :=
  !(isDivide i && k.divider.isSome) && match permitClass i with
  | none => true
  | some p => k.rate p == 64 || 64 ≤ k.permits.getD p 0
/-- An instruction takes a permit of its class; a VSEQ or VREP takes none but those of the entries that it hands over. -/
def Core.takePermit (k : Core) (i : Instr) : Core :=
  match permitClass i with
  | none => k
  | some p => if isLoop i then k else { k with permits := k.permits.set p (k.permits.getD p 0 - 64) }

/-- Steps 5, 7 and 8 of Table 3.9 for a decoded word (R43, R41). -/
def Strand.wordChecks (st : Strand) (i : Instr) : Option Nat :=
  if privileged (encode i) && !st.stat.sup then some 0x05 else st.regChecks st.rbase.toNat i

def isYield : Instr → Bool
  | .yield _ _ => true
  | _ => false

/-- The bundle's count (R51): every bundle other than a YIELD adds 1. -/
def Strand.count (st : Strand) (yield : Bool) : Strand := if yield then st else { st with ycnt := st.ycnt + 1 }
/-- The watchdog (R51): the new YCNT exceeds YBOUND. -/
def Strand.overBound (st : Strand) (yield : Bool) : Bool := !yield && st.ybound.toNat < st.ycnt.toNat + 1

/-- A strand's task ends at the task-exit address (R279). -/
def Strand.advance (st : Strand) : Strand :=
  if st.npc = Config.taskExit then { st with pc := st.npc, status := .ended } else { st with pc := st.npc }

/-- The core whose stream strand (c, t) issues: a follower's is its leader's (R287). -/
def State.streamCore (s : State) (c t : Nat) : Nat :=
  let st := s.strand c t
  if st.stat.slave then st.leader else c
/-- A follower's next pc is its leader's (R287). -/
def State.ledStrand (s : State) (c t : Nat) : Strand :=
  let st := s.strand c t
  if st.stat.slave then { st with npc := (s.strand (s.streamCore c t) t).npc } else st

/-- A bundle of strand (c, t) is done: the pc, and the rings of a strand whose task ends so (R143). -/
def State.complete (s : State) (c t : Nat) : State :=
  let st := (s.ledStrand c t).advance
  let s1 := s.setStrand c t st
  if st.status = .ended then s1.setPart c ((s1.core c).part.dropRings t) else s1
/-- A bundle of strand (c, t) issues and is done. -/
def State.retire (s : State) (c t : Nat) : State := (s.complete c t).noteIssue c t

/-- The memory that holds a word's waiters (R97, R232): a TCM by core, a vat slice. -/
def waitUnit (word : Nat) : Nat :=
  match region (4 * word) with
  | .tcm c _ => c
  | .vat d off => 8192 + d * 8 + off / 0x800000
  | _ => 9000
/-- Whether a waiter of the kind finds room at the memory of its first word: 16 at a TCM, 4,096 at a vat slice. -/
def State.roomToWait (s : State) (k : SleepKind) (words : List Nat) : Bool :=
  match words with
  | [] => true
  | w :: _ =>
    if k != .full && k != .completion then true
    else
      let n := s.cores.foldl (fun n e => n + (e.2.part.strands.filter fun x =>
        match x.2.asleep with
        | some z => z.registered && z.kind == k && waitUnit (z.words.headD 0) == waitUnit w
        | none => false).length) 0
      n < (if waitUnit w < 8192 then 16 else 4096)
/-- A bundle takes its permits at issue, those of a loop's body, handed over since `s0`, among them (R296). -/
def State.usePermits (s0 s : State) (i : Instr) (j : Option Instr) : State :=
  let k := s.myCore.takePermit i
  let k1 := match j with | some j => k.takePermit j | none => k
  s.setMyCore (if isLoop i then ((s.me.seq.drop s0.me.seq.length).filter (·.inLoop)).foldl (fun k e => k.takePermit e.instr) k1 else k1)
/-- CAUSE.ACC of a word's access (Table 14.1). -/
def accOf : Instr → Nat
  | .st _ _ _ _ | .stf _ _ _ _ | .stl _ _ _ _ | .stp _ _ _ _ | .clfe _ _ _ | .post _ _ | .msgmov _ true _ => 2
  | .vst _ _ _ _ | .vsts _ _ _ _ _ | .vstg _ _ _ _ _ => 2
  | .aadd _ _ _ _ _ _ _ | .aand _ _ _ _ _ _ _ | .aor _ _ _ _ _ _ _ | .axor _ _ _ _ _ _ _ | .amin _ _ _ _ _ _ _ => 3
  | .amax _ _ _ _ _ _ _ | .aswp _ _ _ _ _ _ _ | .acas _ _ _ _ _ _ _ | .accf _ _ _ _ _ | .cellrd _ _ _ _ _ _ => 3
  | .lde _ _ _ _ => 3
  | .mstz _ _ _ _ => 6
  | .mldz _ _ _ | .mprog _ _ => 5
  | _ => 1
/-- A fault that the TSC answered, with the access that it ends (R268). -/
def FaultInfo.for_ (f : FaultInfo) (i : Instr) : FaultInfo := if f.acc = 0 then { f with acc := accOf i } else f

/-- ea of form G: vaof(p) + sext(off11, 11) × size. DESIGN CHOICE (log 68): R91 does not say whether an address past 54 bits wraps; the model takes
it modulo 2^54. -/
def gEa (p : Word) (off : BitVec 11) (size : Nat) : Nat := (((vaof p : Nat) : Int) + off.toInt * size) % (2 ^ 54 : Nat) |>.toNat
/-- The spans (address, bytes) that a word's access translates through the load-store TLB (Table 14.6). -/
def Strand.lsSpans (st : Strand) (i : Instr) : List (Nat × Nat) :=
  let go (m : Mode) (ea n : Nat) : List (Nat × Nat) := if m = .G then [(ea, n)] else []
  let elem (b : Reg) (m : Mode) (off : BitVec 11) (k : Nat) : List (Nat × Nat) :=
    let p := st.xptr b.val
    go m (gEa p off (k * accsize (fmtof p))) (k * accsize (fmtof p))
  let at_ (a : Reg) (m : Mode) (n : Nat) : List (Nat × Nat) := go m (vaof (st.xptr a.val)) n
  match i with
  | .ld _ b m o | .lda _ b m o | .lds _ b m o | .lde _ b m o | .st _ b m o | .stf _ b m o | .stl _ b m o => elem b m o 1
  | .pfch b m o => elem b m o 1
  | .ldp _ b m o | .stp _ b m o => elem b m o 2
  | .aadd _ a _ w _ _ m | .aand _ a _ w _ _ m | .aor _ a _ w _ _ m | .axor _ a _ w _ _ m => at_ a m (if w then 4 else 8)
  | .amin _ a _ w _ _ m | .amax _ a _ w _ _ m | .aswp _ a _ w _ _ m | .acas _ a _ w _ _ m => at_ a m (if w then 4 else 8)
  | .accf a _ _ _ m => at_ a m 64
  | .cellrd _ a _ _ _ m => at_ a m 64
  | .promote a _ m => at_ a m 4
  | .post _ a => at_ a .G 1
  | .msgmov a _ m => at_ a m 64
  | .dtload a m => at_ a m 1024
  | .clfe a b m => at_ a m (st.xr b.val).toNat
  | _ => []
/-- The span that a VSEQ or VREP fetches beyond its own bundle (R117, R118). -/
def Strand.bodySpan (st : Strand) (i : Instr) : List (Nat × Nat) :=
  match i with
  | .vseq _ len _ | .vrep _ len _ => [(st.npc.toNat, 4 * (len.toNat + 1))]
  | _ => []
/-- The acting strand issues a bundle and falls asleep in it (R47, R270). -/
def State.fallAsleep (s : State) (k : SleepKind) (words : List Nat) (i : Instr) (j : Option Instr) : State :=
  let z : Sleep := { kind := k, control := i, arith := j, words := words, registered := s.roomToWait k words
                     via := s.lsEntries s.curCore s.me.regs.asid (s.me.lsSpans i) }
  (s.usePermits (s.setMe { s.me with asleep := some z }) i j).noteIssue s.curCore s.curStrand

/-- The releases of the register sends that filled the X registers that a word reads (R182): the word observes them. -/
def Strand.relsRead (st : Strand) (i : Instr) : List RelRec := i.xReads.filterMap fun n => (st.xreg n).rel
/-- The acting strand has observed the releases `l`. -/
def State.observe (s : State) (l : List RelRec) : State :=
  match l with
  | [] => s
  | l => s.setMe { s.me with readRecs := s.me.readRecs ++ l }
/-- Significant bits of a number. -/
def sigBits (n : Nat) : Nat := if n = 0 then 0 else Nat.log2 n + 1
/-- Significant bits of the magnitude of a divide's quotient (Table 4.1). -/
def quotBits (st : Strand) (a b : Reg) (w signed : Bool) : Nat :=
  let n := if w then 32 else 64
  let x := (st.xr a.val).toNat
  let y := (st.xr b.val).toNat
  sigBits (if signed then (sext (divS n x y) n).natAbs else divU n x y)
/-- The latency of a scalar word whose result comes later than the next core cycle (Table 4.1, R144, R156, Table 12.4). -/
def latencyOf (st : Strand) : Instr → Nat
  | .mul _ _ _ _ | .mulh _ _ _ _ | .mulhn _ _ _ _ => 3
  | .div _ a b w | .rem _ a b w => 18 + (quotBits st a b w true + 3) / 4
  | .divn _ a b w | .remn _ a b w => 18 + (quotBits st a b w false + 3) / 4
  | .fadd _ _ _ _ _ | .fmul _ _ _ _ _ => 4
  | .fma _ _ _ _ _ => 5
  | .fcvt _ _ _ _ _ => 3
  | .fcmp _ _ _ _ _ | .gets _ _ | .swaps _ _ _ | .mkrcap _ _ _ _ | .ringst _ _ | .cpyq _ | .mstat _ => 2
  | _ => 1
/-- The value at a place of the X file becomes available at a fabric time. -/
def Strand.landsAt (st : Strand) (place at_ : Nat) : Strand :=
  { st with x := Tab.put place { Tab.get {} place st.x with busy := true } st.x, landing := (place, at_) :: st.landing }
/-- In an exchange phase core cycles are fabric cycles (R185): a result of the word that strand `st` has issued becomes available after its latency,
and the divider is taken for that long (R48). Outside a phase the model counts no core cycles (log 26). -/
def State.latent (s : State) (st : Strand) (i : Instr) : State :=
  let n := latencyOf st i
  if !s.myCore.exch.active || n ≤ 1 then s
  else
    let s1 := s.setMe ((i.xWrites.filter fun d => d ≠ 0 && (s.me.xreg d).full && !(s.me.xreg d).busy).foldl (fun st d => st.landsAt (st.xidx d) (s.time + n)) s.me)
    if isDivide i then s1.setMyCore { s1.myCore with divider := some (s.time + n) } else s1
/-- A word of the acting strand completes, from `s1` to `s2`: its records of RECORD, what its registers' arrivals released (R182), its use of
translations (R265, R269), and its latency. -/
def afterWord (s1 s2 : State) (i : Instr) : State :=
  let asid := s1.me.regs.asid
  let spans := s1.me.lsSpans i
  let s3 := ((recordPass s1 s2 i).observe (s1.me.relsRead i)).tagAccesses s1.curCore s1.curStrand s1.nextId (s1.lsEntries s1.curCore asid spans)
  ((s3.useTlb s1.curCore .loadStore asid spans).useTlb s1.curCore .fetch asid (s1.me.bodySpan i)).latent s1.me i

/-- The acting strand issues a bundle that takes a fault, precisely (R28, R47). -/
def State.trapMe (s : State) (f : FaultInfo) (word : Bool) (pc : VAddr) : State :=
  (s.noteIssue s.curCore s.curStrand).takeFault s.curCore s.curStrand f word false false false pc
/-- Issues a word alone (R27, R47, R51): nothing happens while the strand is not ready. -/
def issueLone (i : Instr) (raw : State → Eff) (s : State) : State :=
  let st := s.me
  let pc := st.pc
  if !(s.canIssue && st.scoreboard i && s.myCore.permitted i) then s
  else
    match st.wordChecks i with
    | some code => s.trapMe { code := code } false pc
    | none =>
      let st1 := { st.count (isYield i) with npc := nextPc pc 4, missFault := none }
      let s1 := s.setMe st1
      let trap (s2 : State) (f : FaultInfo) : State := (s1.usePermits s2 i none).trapMe f false pc
      match raw s1 with
      | .wait => s
      | e =>
        if st.overBound (isYield i) then trap s1 { code := 0x38 }
        else
          match st.missFault with
          | some f => trap s1 (f.for_ i)
          | none =>
            match s.argMiss i with
            | some va => s.missScalar .scalar .loadStore va
            | none =>
              match e with
              | .done s2 => (s1.usePermits (afterWord s1 s2 i) i none).retire s.curCore s.curStrand
              | .trap f => trap s1 f
              | .trapIn s2 f => trap s2 f
              | .wait => s
              | .sleep k words s2 => s2.fallAsleep k words i none
              | .miss kind va => s.missScalar .scalar kind va

/-- The outcome of a word's meaning: a lone bundle of the acting strand. -/
def lone (i : Instr) (raw : State → Eff) (s : State) : Host.Outcome State Fault Refusal := .next (issueLone i raw s)

end Sys2Proof.Machine
end

