-- ==== Sys2Proof/Machine/Speed.lean ====
section
/-!
DEFINITION. Curves, published speed and caps (R11 to R15, R295), lanes of an octet (R108 to R110), and what a YIELD with
KV = 0 does to lanes, tiles and rings.
-/
namespace Sys2Proof.Machine

/-! ## Curves -/

/-- Eight points interpolated at v mV (R11, without the step of 25). -/
def interp (pts : List Nat) (v : Nat) : Nat :=
  let i := Nat.min ((v - 550) / 50) 7
  if i = 7 then pts.getD 7 0
  else
    let a : Int := (pts.getD i 0 : Nat)
    let b : Int := (pts.getD (i + 1) 0 : Nat)
    (a + ((b - a) * ((v : Int) - 550 - 50 * i)) / 50).toNat
/-- curvef (R11). -/
def curvef (pts : List Nat) (v : Nat) : Nat := interp pts v / 25 * 25
/-- Least grid voltage from v on, of `fuel` points, whose curve frequency is at or above `req`; 950 if there is none (R12). -/
def leastVolt (pts : List Nat) (req v : Nat) : Nat → Nat
  | 0 => 950
  | fuel + 1 => if req ≤ curvef pts v then v else leastVolt pts req (v + 5) fuel
def need (pts : List Nat) (req : Nat) : Nat := if req = 0 then 550 else leastVolt pts req 550 81

/-- The largest k below 2^bits, k ≥ acc, with k^25 × d ≤ n. -/
def root25 (n d acc : Nat) : Nat → Nat
  | 0 => acc
  | b + 1 => if (acc + 2 ^ b) ^ 25 * d ≤ n then root25 n d (acc + 2 ^ b) b else root25 n d acc b
/-- ⌊l × 2^((tj − 70) ÷ 25)⌋ (Table 1.4, CLEAK). -/
def leakAt (l : Nat) (tj : Int) : Nat :=
  let t := tj - 70
  if 0 ≤ t then root25 (l ^ 25 * 2 ^ t.toNat) 1 0 40 else root25 (l ^ 25) (2 ^ (-t).toNat) 0 40

/-- CSPEED.MHZ: the lowest of CFREQ and the caps (Table 1.4). -/
def Curve.speed (k : Curve) : Nat := capTo (capTo (capTo k.cfreq k.thCap) k.mCap) k.lnCap
/-- The target speed T (R108): lane caps do not lower it. -/
def Curve.target (k : Curve) : Nat := capTo (capTo k.cfreq k.thCap) k.mCap
/-- A cap holds the speed below CFREQ. -/
def Curve.holds (k : Curve) (cap : Option Nat) : Bool := cap.any (· < k.cfreq)
/-- CSPEED as it reads. -/
def Curve.speedWord (k : Curve) : Word :=
  BitVec.ofNat 64 (k.speed % 65536 + b2n k.lnCap.isSome * 65536 + b2n (k.holds k.thCap) * 131072 + b2n (k.holds k.mCap) * 262144)
/-- CLEAK recomputed at voltage v. -/
def Curve.releak (k : Curve) (v : Nat) : Curve := { k with cleak := leakAt (interp k.cvl v) k.tj }

/-! ## Rails -/

def quadCores (q : Nat) : List Nat := span (4 * q) 4
/-- VQ of a quad from its cores' requests (R12). -/
def State.quadVolt (s : State) (q : Nat) : Nat :=
  (quadCores q).foldl (fun m c => Nat.max m (need (s.core c).curve.cvf (s.core c).curve.request)) 550
/-- The voltage whose curve frequency a quad's clocks have (R13): the target of a lowering transition, else the settled one. -/
def Rail.clockVolt (r : Rail) : Nat := Nat.min r.volt (r.target.getD r.volt)
/-- CFREQ of core c at voltage v, and CLEAK at voltage w. -/
def State.clockAt (s : State) (c v w : Nat) : State :=
  s.onCurve c fun k => { (k.releak w) with cfreq := curvef k.cvf v, due := none }
/-- A transition to v mV starts (R13, R15): clocks step down first where it lowers the rail; where it raises it, new points that
were due take effect at the voltage that is present. -/
def State.startRail (s : State) (q v : Nat) : State :=
  let r := s.rail q
  let s1 := s.setRail q { r with target := some v }
  ((quadCores q).foldl (fun s c =>
    if v < r.volt then s.clockAt c v r.volt
    else if (s.core c).curve.due.isSome then s.clockAt c r.volt r.volt
    else s) s1).rematch (4 * q)
/-- The quad voltage is evaluated under R12; a transition in progress ends first. -/
def State.evalQuad (s : State) (q : Nat) : State :=
  let r := s.rail q
  let v := s.quadVolt q
  if r.target.isSome || r.stepUp || v = r.volt then s else s.startRail q v

/-! ## Lanes -/

/-- The octet lane rail runs at the higher voltage of the octet's two quads. -/
def State.laneRail (s : State) (o : Nat) : Nat := Nat.max (s.rail (2 * o)).volt (s.rail (2 * o + 1)).volt
def Octet.lane (o : Octet) (j : Nat) : Lane := Tab.get {} j o.lanes
/-- A lane's maximum frequency at the present lane rail (R108). -/
def State.laneMax (s : State) (o j : Nat) : Nat := interp ((s.octet o).lane j).pts (s.laneRail o)
/-- The lanes of core x's octet that strand t holds by the lanes' own record. -/
def State.ownedLanes (s : State) (x t : Nat) : List Nat := (span 0 128).filter fun j => ((s.octet (octetOf x)).lane j).owner == some (4 * x + t)
/-- The lanes of strand t on core c; a DUAL pair's partner holds lanes of its own octet for the pair's strand (R303). -/
def State.lanesOf (s : State) (c t : Nat) : List Nat := if (s.core c).part.mirror then s.ownedLanes c t else (s.strand c t).lanes
/-- A strand's lane floor in MHz, 0 without lanes (LANEF, R110). -/
def State.laneFloor (s : State) (c t : Nat) : Nat :=
  match s.lanesOf c t with
  | [] => 0
  | j :: rest => rest.foldl (fun m k => Nat.min m (s.laneMax (octetOf c) k)) (s.laneMax (octetOf c) j)
/-- Insertion by frequency, ties to the lower lane number. -/
def insertLane (x : Nat × Nat) : List (Nat × Nat) → List (Nat × Nat)
  | [] => [x]
  | y :: l => if x.1 < y.1 || (x.1 == y.1 && x.2 < y.2) then x :: y :: l else y :: insertLane x l
/-- The free lanes of the octet at or above `f` MHz, slowest first. -/
def State.eligible (s : State) (o f : Nat) : List (Nat × Nat) :=
  (span 0 128).foldl (fun l j =>
    if ((s.octet o).lane j).owner.isNone && f ≤ s.laneMax o j then insertLane (s.laneMax o j, j) l else l) []
/-- LANEFREE (Table 6.1). -/
def State.laneFree (s : State) (c : Nat) : Nat := (s.eligible (octetOf c) (s.core c).curve.target).length

def Octet.own (o : Octet) (l : List Nat) (who : Option Nat) : Octet :=
  { o with lanes := l.foldl (fun t j => Tab.put j { Tab.get {} j t with owner := who } t) o.lanes }
/-- The core without a lane cap, and the clocks matched with its own worked out anew (Table 1.4). -/
def State.uncap (s : State) (c : Nat) : State :=
  let s1 := s.onCurve c fun k => { k with lnCap := none, laneDue := none }
  if (s.core c).curve.lnCap.isSome then s1.rematch c else s1
/-- Lifts the core's lane cap once no strand's floor lies below T (R110). -/
def State.liftCap (s : State) (c : Nat) : State :=
  let k := s.core c
  let low := (span 0 4).any fun t => !(s.lanesOf c t).isEmpty && s.laneFloor c t < k.curve.target
  if low then s else s.uncap c
/-- Core c, and a DUAL pair's partner q, hold no lane cap where no strand of theirs has a floor below T (R110, R303). -/
def State.liftCaps (s : State) (c : Nat) (q : Option Nat) : State :=
  match q with
  | some k => (s.liftCap c).liftCap k
  | none => s.liftCap c
/-- Returns a strand's lanes to the pool. -/
def State.dropLanes (s : State) (c t : Nat) : State :=
  let st := s.strand c t
  let s1 := s.setOctet (octetOf c) ((s.octet (octetOf c)).own st.lanes none)
  s1.setStrand c t { st with lanes := [] }
/-- V registers whose contents are not defined (R109): free values. -/
def State.freeV (s : State) (c t : Nat) : State :=
  let st := s.strand c t
  let v := (span 0 32).map fun n => (n, ({ val := (Config.freeBits (s.freeCtr + n)).setWidth 2048, full := (st.vreg n).full } : VReg))
  ({ s with freeCtr := s.freeCtr + 32 } : State).setStrand c t { st with v := v }
/-- Records of the tier that `moves` names, by strand and place on its stack, move down to the area (R63). -/
def Part.moveDown (p : Part) (tier : Nat) (moves : Nat → Nat → Bool) : Part :=
  { p with strands := p.strands.map fun e =>
      (e.1, { e.2 with spill := e.2.spill.mapIdx fun n r => if r.tier = tier && moves e.1 n then { r with tier := 2 } else r }) }
/-- Parked data of any of the core's strands that lies in tiles just claimed moves down (R138, log 18): which records lie there is a free choice while
some tiles are not held. -/
def State.leaveTiles (s : State) (c : Nat) : State :=
  let p := (s.core c).part
  ({ s with freeCtr := s.freeCtr + 1024 } : State).setPart c (p.moveDown 1 fun u n => !p.zRoom || (Config.spillTier (s.freeCtr + 256 * u + n)).val ≠ 1)
/-- Parked data that lies in lanes of the octet just claimed moves down (R63, log 18): a free choice while what stays fits the unclaimed lanes. A DUAL
partner's step, at the place of core c, moves that core's own. -/
def State.leaveLanes (s : State) (c o : Nat) : State :=
  let go (all : Bool) (q : Nat) (p : Part) : Part :=
    p.moveDown 0 fun u n => all || (Config.spillTier (s.freeCtr + 1024 * (q % 8) + 256 * u + n)).val ≠ 0
  let mine (q : Nat) : Bool := if (s.core c).twinOf.isSome then q == c else octetOf q == o
  let run (all : Bool) : State :=
    { s with
      freeCtr := s.freeCtr + 8192
      cores := s.cores.map fun k => if mine k.1 then (k.1, { k.2 with part := go all k.1 k.2.part }) else k
      twins := s.twins.map fun k => if octetOf k.1 == o then (k.1, { k.2 with core := { k.2.core with part := go all k.1 k.2.core.part } }) else k }
  if (run false).parkedInLanes o ≤ s.laneRoom o then run false else run true
/-- Least power of two of 4 to 64 at or above n. -/
def pow2Above (n : Nat) : Nat := if n ≤ 4 then 4 else if n ≤ 8 then 8 else if n ≤ 16 then 16 else if n ≤ 32 then 32 else 64
/-- The largest grant within r and e. -/
def grantOf (r e : Nat) : Nat := ([64, 32, 16, 8, 4].find? fun g => g ≤ r && g ≤ e).getD 0

/-- The lanes that a DUAL partner's octet could grant to strand t; no bound without a partner (R303). -/
def State.partnerRoom (s : State) (c : Nat) : Nat :=
  match (s.core c).part.partner with
  | some q => (s.eligible (octetOf q) (s.core q).curve.target).length
  | none => 64
/-- The lanes that a DUAL partner holds for strand t return to its octet (R303). -/
def State.dropMirror (s : State) (c t : Nat) : State :=
  match (s.core c).part.partner with
  | none => s
  | some q => s.setOctet (octetOf q) ((s.octet (octetOf q)).own (s.ownedLanes q t) none)
/-- A strand's lanes return, and those that a DUAL partner holds for it. -/
def State.returnLanes (s : State) (c t : Nat) : State := (s.dropLanes c t).dropMirror c t
/-- The old lanes are taken back (R108): a grant of as many, all of them among the eligible `el`. -/
def takesBack (g : Nat) (old : List Nat) (el : List (Nat × Nat)) : Bool := g == old.length && old.all fun j => el.any fun e => e.2 == j
/-- The lanes of a grant of g: the old ones where they are taken back, else the slowest eligible (R108). -/
def grantLanes (g : Nat) (old : List Nat) (el : List (Nat × Nat)) : List Nat := if takesBack g old el then old else (el.take g).map (·.2)
/-- VCLAIM's grant (R108) of strand (c, t); in a DUAL pair both cores get the smaller of their grants (R303), each of its own octet's lanes. A core
keeps its V registers where its own old lanes are taken back (R109). -/
def State.claim (s : State) (c t n : Nat) : State :=
  let o := octetOf c
  let old := (s.strand c t).lanes
  let s1 := s.returnLanes c t
  let el := s1.eligible o (s.core c).curve.target
  let g := grantOf (pow2Above n) (Nat.min el.length (s1.partnerRoom c))
  let new := grantLanes g old el
  let s2 := s1.setOctet o ((s1.octet o).own new (some (4 * c + t)))
  let s3 := s2.setStrand c t { s2.strand c t with lanes := new }
  let (s4, kept) := match (s.core c).part.partner with
    | none => (s3, takesBack g old el)
    | some q =>
      let mine := s.ownedLanes q t
      let elq := s1.eligible (octetOf q) (s.core q).curve.target
      (s3.setOctet (octetOf q) ((s3.octet (octetOf q)).own (grantLanes g mine elq) (some (4 * q + t))),
        if (s.core c).twinOf.isSome then takesBack g mine elq else takesBack g old el)
  let s5 := if kept then s4 else s4.freeV c t
  let octets := if (s.core c).twinOf.isSome then [octetOf (s.selfCore c)] else o :: (s.core c).part.partner.toList.map octetOf
  (octets.foldl (fun s o => s.leaveLanes c o) s5).liftCaps c (s.core c).part.partner

/-! ## YIELD with KV = 0 -/

/-- The strand's tiles are dead (R139): their contents and types are free values and nothing holds them. -/
def State.freeZ (s : State) (c t : Nat) : State :=
  let st := s.strand c t
  let z (n : Nat) : ZTile := { bits := Config.freeBits (s.freeCtr + n), int := (Config.freeBits (s.freeCtr + 2)).getLsbD n }
  ({ s with freeCtr := s.freeCtr + 3 } : State).setStrand c t
    { st with mx := { st.mx with z0 := z 0, z1 := z 1, held := false } }
/-- The last LANES record of a recording holds the grant of the VCLAIM that made it (R242). -/
def TapeSeg.granted (g : TapeSeg) (n : Nat) : TapeSeg :=
  let back := g.recs.reverse
  let later := back.takeWhile fun r => r.header.toNat % 256 != 6
  match back.drop later.length with
  | [] => g
  | r :: before => { g with recs := before.reverse ++ { r with value := BitVec.ofNat 64 n } :: later.reverse }
/-- A member that records notes a VCLAIM's grant. -/
def State.noteGrant (s : State) (c : Nat) (n : Nat) : State :=
  let p := (s.core c).part
  if p.tape.mode = 1 && !p.tape.abandon then s.setPart c { p with tape := { p.tape with seg := p.tape.seg.granted n } } else s
/-- The claim of strand (c, t), where one has reached the octet, is served (R108): the lanes, and VCLAIM's Xd. -/
def State.serveClaim (s : State) (c t : Nat) : State :=
  match (s.strand c t).claim with
  | none => s
  | some q =>
    let s1 := s.claim c t q.n
    let st := s1.strand c t
    let s2 := s1.setStrand c t { st.xputAt q.xd { val := BitVec.ofNat 64 st.nlanes } with claim := none }
    if q.yield then s2 else s2.noteGrant c st.nlanes
/-- The claims of a fabric cycle, in increasing order of core and then strand (R108). -/
def State.serveClaims (s : State) : State :=
  (s.cores.flatMap fun e => (e.2.part.strands.filter fun x => x.2.claim.isSome).map fun x => (e.1, x.1)).foldl
    (fun s p => s.serveClaim p.1 p.2) s
/-- What a YIELD with KV = 0 at which the scheduler can act does (R53, R109, R139, R143): the grant is evaluated as a
VCLAIM of the present LANES; without lanes there is none to evaluate. -/
def State.yieldLoss (s : State) (c t : Nat) : State :=
  let st := s.strand c t
  let s1 := if st.nlanes = 0 then s else s.setStrand c t { st with claim := some { n := st.nlanes, yield := true } }
  let s2 := s1.freeZ c t
  s2.setPart c ((s2.core c).part.dropRings t)

end Sys2Proof.Machine
end

