-- ==== Sys2Proof/Machine/Handover.lean ====
section
/-!
DEFINITION. Handing vector work over to a strand's sequencer (R113 to R116).
-/
namespace Sys2Proof.Machine

/-- The sequencer has room for n more entries (R114). -/
def Strand.seqRoom (st : Strand) (n : Nat) : Bool := st.seq.length + n ≤ 16
/-- The sequencer is empty and no entry of it is held back by an outstanding fault (R115). -/
def Strand.seqEmpty (st : Strand) : Bool := st.seq.isEmpty

/-- The entry of a word (R114): copies of its X operands, its predicate and the RBASE that it uses. -/
def Strand.entry (st : Strand) (i : Instr) : SeqEntry :=
  let (c, w) := st.captured i
  { instr := i, pc := st.pc, npc := st.npc, sup := st.stat.sup, xa := st.xreg (i.xReads.getD 0 0), xb := st.xreg (i.xReads.getD 1 0)
    pcount := c, pwidth := w, rbase := st.rbase.toNat, fence := st.relFence, arm := st.promote }

/-- The predicate number that governs a word, 0 where none does. -/
def predOf (i : Instr) : Nat :=
  match i.govern with
  | some (p, _) => p
  | none => i.memPred.getD 0

/-- A count of 0 from an explicit predicate makes a vector instruction no operation (R113, log 33). -/
def Strand.noOp (st : Strand) (i : Instr) : Bool := predOf i != 0 && (st.captured i).1 == 0

/-- The checks of R113 and the lane check of R116 for one word. -/
def Strand.groupChecks (st : Strand) (i : Instr) : Option Nat :=
  let (c, w) := st.captured i
  let widthOk := match i.govern with
    | some (_, w0) => w == w0 || (match i with | .rsendv _ _ _ => true | _ => false)
    | none => true
  if st.nlanes = 0 then some 0x02
  else if !widthOk then some 0x02
  else if (vOps i w).any fun o => !o.single && 6 < o.len st.nlanes c then some 0x02
  else none

/-- The V registers as an entry reads them: those that its pair's control word has written over as they stood before it (R28), one that was empty then
with what has filled it since. -/
def Strand.fileOf (st : Strand) (e : SeqEntry) : Tab VReg := e.snap.foldl (fun f x => if x.2.full then Tab.put x.1 x.2 f else f) st.v
/-- What an earlier instruction's result changes in the V registers `regs` of the strand changes also what later entries keep of them (R28). -/
def Strand.intoSnaps (st : Strand) (regs : List Nat) (later : SeqEntry → Bool) : Strand :=
  { st with seq := st.seq.map fun e =>
      if later e && e.snap.any (fun x => regs.contains x.1) then
        { e with snap := e.snap.map fun x => if regs.contains x.1 then (x.1, st.vreg x.1) else x }
      else e }
/-- The sequencer without its head entry; in a loop, past the entry that the loop stands at, which keeps nothing for its next pass (R117). -/
def Strand.popSeq (st : Strand) : Strand :=
  match st.seq, st.loop with
  | e :: rest, some l =>
    let past := st.seq.mapIdx fun j x => if j = l.pos then { x with snap := [] } else x
    if !e.inLoop then { st with seq := rest }
    else if l.pos + 1 < l.len then { st with seq := past, loop := some { l with pos := l.pos + 1 } }
    else if l.iter + 1 < l.count then
      { st with seq := past, loop := some { l with pos := 0, iter := l.iter + 1, rbase := if l.rep then l.rbase else (l.rbase + l.step) % 16 } }
    else { st with seq := st.seq.drop l.len, loop := none }
  | _ :: rest, none => { st with seq := rest }
  | [], _ => st
/-- The entry that executes next. -/
def Strand.headSeq (st : Strand) : Option SeqEntry :=
  match st.seq, st.loop with
  | e :: _, some l => if e.inLoop then st.seq[l.pos]? else some e
  | e :: _, none => some e
  | [], _ => none

/-- Appends an entry with the next number; the strand waits while there is no room (R114). -/
def pushEntry (s : State) (st : Strand) (e : SeqEntry) : Eff :=
  if st.seqRoom 1 then .done (({ s with nextId := s.nextId + 1 } : State).setMe { st with seq := st.seq ++ [{ e with ord := s.nextId, handed := s.time }] }) else .wait

/-- Hands a vector integer or vector float word over. -/
def handOver (i : Instr) (s : State) : Eff :=
  let st := s.me
  if st.noOp i then .done s
  else
    match st.groupChecks i with
    | some code => trapCode code
    | none => pushEntry s st (st.entry i)

end Sys2Proof.Machine
end

