-- ==== Sys2Proof/Machine/Pail.lean ====
section
/-!
DEFINITION. The pail: its registers, acceptance of a message and moves from the overflow ring (R165 to R167).
-/
namespace Sys2Proof.Machine

/-- Occupied bytes of a pail, modulo 2^17 (R165). -/
def Part.occupancy (p : Part) : Nat := (p.pailTail - p.pailHead).toNat
/-- TCM offset of the head slot. -/
def Part.headSlot (p : Part) : Nat := p.pailBase.toNat + p.pailHead.toNat % p.pailSize.toNat
/-- The pail's place is legal (R165). -/
def pailPlaced (base size : Nat) : Bool :=
  [256, 512, 1024, 2048, 4096, 8192, 16384].contains size && base % size == 0 && base + size ≤ 0x16000
/-- A head that a program may write (R165): within PAILTAIL − PAILSIZE to PAILTAIL, a multiple of 64. -/
def Part.headOk (p : Part) (h : BitVec 17) : Bool := (p.pailTail - h).toNat ≤ p.pailSize.toNat && h.toNat % 64 == 0

/-- Writes a message at core c's tail slot with its source tag, sets the slot's words full, advances PAILTAIL and raises
event 0x3 on every strand of the part (R166). -/
def State.pailPut (s : State) (c : Nat) (m : Msg) : State :=
  let p := (s.core c).part
  let off := p.pailTail.toNat % p.pailSize.toNat
  let slot := span (c * 0x20000 + p.pailBase.toNat + off) 64
  let s0 := (s.logCode slot { agent := agentOf m.core m.strand, id := m.id }).writeB slot m.data.toNat
  let recs := s.records.filterMap (·.without slot)
  let s1 := ({ s0 with records := recs ++ m.rel.toList.map fun r => { r with bytes := slot } } : State).setFullB slot
  let q := { p with
    pailTail := p.pailTail + 64
    tags := Tab.put off (BitVec.ofNat 15 (m.strand * 8192 + m.core)) p.tags }
  s1.setPart c (q.raiseAll 3)
/-- Moves messages from the overflow ring into freed slots, in order (R166). -/
def State.drainTo (c : Nat) : List Msg → State → State
  | [], s => s
  | m :: rest, s =>
    let p := (s.core c).part
    if p.occupancy < p.pailSize.toNat then
      State.drainTo c rest ((s.setPart c { p with overflow := rest }).pailPut c m)
    else s
def State.drain (s : State) (c : Nat) : State := State.drainTo c (s.core c).part.overflow s

/-- PAILSRC (Table 8.1). -/
def Part.pailSrc (p : Part) : Word :=
  if p.pailHead = p.pailTail then 0
  else BitVec.ofNat 64 (32768 + (Tab.get 0 (p.pailHead.toNat % p.pailSize.toNat) p.tags).toNat)

end Sys2Proof.Machine
end

