-- ==== Sys2Proof/Machine/Selectors.lean ====
section
/-!
DEFINITION. State registers by selector: what a read gives and what a write does (R54, R55 and the selector tables of the
later chapters).
-/
namespace Sys2Proof.Machine

/-- COORD (Table 4.3, R10). -/
def coordWord (c : Nat) : Word :=
  BitVec.ofNat 64 (c / 2048 * 2 ^ 24 + coreX c * 2 ^ 18 + coreY c * 2 ^ 13 + c % 8192)
/-- Present exchange cycle of a core (R185, XSTAT.XCYC). -/
def State.xcyc (s : State) (c : Nat) : Nat :=
  let e := (s.core c).exch
  if e.active then s.time - e.start else 0
/-- XSTAT (Table 8.10). -/
def State.xstatWord (s : State) (c : Nat) : Word :=
  let e := (s.core c).exch
  BitVec.ofNat 64 (s.xcyc c % 2 ^ 32 * 2 ^ 32 + e.dom.toNat * 16 + b2n e.active * 4 + b2n e.late * 2 + b2n e.miss)
/-- TAPEST (Table 12.9). -/
def TapeState.word (t : TapeState) : Word :=
  let rec_ := t.mode == 1
  BitVec.ofNat 64 (t.mode.toNat * 2 ^ 62 + t.id.toNat * 2 ^ 50 + b2n t.fbk * 2 ^ 49 + b2n t.abandon * 2 ^ 48
    + (if rec_ then t.seg.recs.length * 2 ^ 35 + t.seg.slots.length * 2 ^ 28 + t.seg.guards.length * 2 ^ 22 else 0))
/-- PERMIT (Table 16.6). -/
def Core.permitWord (k : Core) : Word :=
  BitVec.ofNat 64 (k.rateMtx.toNat * 2 ^ 24 + k.rateVec.toNat * 2 ^ 16 + k.rateSfu.toNat * 2 ^ 8 + k.rateMem.toNat)
/-- SENDALW: free entries of the send buffer (R170). -/
def Strand.sendAlw (st : Strand) : Nat := 16 - st.sends.length

def wordOf {n : Nat} (b : BitVec n) : Word := b.setWidth 64
def wordN (n : Nat) : Word := BitVec.ofNat 64 n

/-- BDCLU, BDDIE and BDPKG (Table 9.9): the domains of a level that the resident member's launch was assigned and of which core c is a
member (R211, R214, R338). -/
def State.memberships (s : State) (c : Nat) (lv : BLevel) : Word :=
  wordN ((span 0 16).foldl (fun n k =>
    let d := s.domain (domKey lv (instOf lv c) k)
    if d.launch == some (s.core c).part.launch && d.member c then n + 2 ^ k else n) 0)
/-- The value of selector `sel` as strand (c, t) reads it; none where no chapter assigns the selector. -/
def State.readSel (s : State) (c t sel : Nat) : Option Word :=
  let k := s.core c
  let h := s.selfCore c
  let own := (s.core h).curve
  let p := k.part
  let st := s.strand c t
  let r := st.regs
  match sel with
  | 0x000 => some (st.stat.word t)
  | 0x001 => some r.cause
  | 0x002 => some (wordOf r.epc)
  | 0x003 => some (wordOf r.eva)
  | 0x004 => some (wordOf st.ycnt)
  | 0x005 => some (wordOf st.ybound)
  | 0x006 => some (wordOf st.rbase)
  | 0x007 => some (wordN st.nlanes)
  | 0x008 => some st.seed
  | 0x009 => some (wordOf r.uevec)
  | 0x00A => some (wordOf r.uevcode)
  | 0x00B => some (wordOf r.evpend)
  | 0x010 => some (wordOf r.rank)
  | 0x011 => some (wordOf r.gsize)
  | 0x012 => some (wordOf r.stage)
  | 0x013 => some (coordWord h)
  | 0x014 => some (wordOf r.share)
  | 0x015 => some (wordOf r.offset)
  | 0x016 => some (wordOf r.gspeed)
  | 0x017 => some (wordOf r.argbase)
  | 0x018 => some (wordOf r.launchid)
  | 0x019 => some r.arrive
  | 0x020 => some (wordN (own.cfreq % 65536))
  | 0x021 => some own.speedWord
  -- an estimate above 65,535 mW does not fit the field, and the spec is silent: the model reads it modulo 65,536 (log 65)
  | 0x022 => some (wordN (own.cleak % 65536))
  | 0x023 => some (wordOf own.cgen)
  | 0x024 => some (wordN (s.cvolt h % 65536))
  | 0x028 | 0x029 | 0x02A | 0x02B | 0x02C | 0x02D | 0x02E | 0x02F => some (wordN (own.cvf.getD (sel - 0x028) 0 % 65536))
  | 0x030 | 0x031 | 0x032 | 0x033 | 0x034 | 0x035 | 0x036 | 0x037 => some (wordN (own.cvl.getD (sel - 0x030) 0 % 65536))
  | 0x040 => some p.acctCyc
  | 0x041 => some p.acctNj
  | 0x050 => some (wordOf p.pailBase)
  | 0x051 => some (wordOf p.pailSize)
  | 0x052 => some (wordOf p.pailHead)
  | 0x053 => some (wordOf p.pailTail)
  | 0x054 => some (wordN st.sendAlw)
  | 0x060 => some p.tape.word
  | 0x070 => some (spmapWord p st)
  | 0x080 => some (wordOf r.evena)
  | 0x081 => some (wordOf r.uevpc)
  | 0x082 => some (wordOf st.ydefault)
  | 0x083 => some (wordOf r.capgen)
  | 0x084 => some (wordN (r.stlsc.toNat * 8 + r.ldasc.toNat))
  | 0x085 => some (wordN (s.laneFloor h t % 65536))
  | 0x086 => some (wordN (s.laneFree h))
  | 0x087 => some st.vstat.word
  | 0x088 => some st.vresume.word
  | 0x089 => some st.mresume.word
  | 0x08A => some (s.xstatWord c)
  | 0x08B => some (wordN (p.xdomsDie.toNat * 65536 + p.xdomsClu.toNat))
  | 0x08C => some (wordOf r.xsrcix)
  | 0x08D => some (wordOf (Tab.get 0 r.xsrcix.toNat p.xsrc))
  | 0x08E => some p.pailSrc
  | 0x08F => some r.rsfail
  | 0x090 => some (s.memberships c .cluster)
  | 0x091 => some (s.memberships c .die)
  | 0x092 => some (s.memberships c .package)
  | 0x093 => some r.engerr
  | 0x094 => some (wordOf r.englast)
  | 0x095 => some (wordN p.schedCur)
  | 0x096 => some (wordN p.sched.length)
  | 0x097 => some (wordOf r.fvec)
  | 0x098 => some (r.svs.getD 0 0)
  | 0x099 => some (r.svs.getD 1 0)
  | 0x09A => some (r.svs.getD 2 0)
  | 0x09B => some (r.svs.getD 3 0)
  | 0x09C => some (wordOf r.asid)
  | 0x09D => some (wordOf r.tmiss)
  | 0x09E => some (wordOf r.ctxid)
  | 0x0A0 => some (wordOf r.rangep)
  | 0x0A1 => some k.permitWord
  | 0x0B0 => some (wordN ((s.octet (octetOf h)).soft.toNat * 2 ^ 32 + (s.core h).softCore.toNat))
  | _ => none

/-- What a write does. -/
inductive SelWrite where
  | ok (s : State)
  | bad
  | wait

/-- A value whose ones lie within the named bits (Table 0.2: a 1 written to a reserved bit raises 0x02). -/
def within (mask : Nat) (v : Word) : Bool := v &&& ~~~(BitVec.ofNat 64 mask) == 0
def guardW (b : Bool) (s : State) : SelWrite := if b then .ok s else .bad

/-- RBASE written: handed over as an RBSET (R119). -/
def State.writeRbase (s : State) (c t : Nat) (v : Word) : SelWrite :=
  let st := s.strand c t
  if !within 0xF v then .bad
  else if !st.seqRoom 1 then .wait
  else
    let b := BitVec.ofNat 4 v.toNat
    .ok (({ s with nextId := s.nextId + 1 } : State).setStrand c t { st with seq := st.seq ++ [{ st.entry (.rbset b) with rbase := b.toNat, ord := s.nextId, handed := s.time }], rbase := b })
/-- PAILHEAD written (R165, R166): checked against the tail, and the freed slots take messages from the overflow ring. -/
def State.writePailHead (s : State) (c : Nat) (v : Word) : SelWrite :=
  let p := (s.core c).part
  let h := BitVec.ofNat 17 v.toNat
  if within 0x1FFFF v && p.headOk h then .ok ((s.setPart c { p with pailHead := h }).drain c) else .bad
/-- PAILBASE or PAILSIZE written (R165). -/
def State.writePailGeometry (s : State) (c : Nat) (size : Bool) (v : Word) : SelWrite :=
  let p := (s.core c).part
  if size then
    guardW (within 0x7FFF v && pailPlaced p.pailBase.toNat v.toNat) (s.setPart c { p with pailSize := BitVec.ofNat 15 v.toNat })
  else
    guardW (within 0x1FFFF v && pailPlaced v.toNat p.pailSize.toNat) (s.setPart c { p with pailBase := BitVec.ofNat 17 v.toNat })
/-- XSRCENT written (R184); the write waits while a phase is active on the core. -/
def State.writeXsrcent (s : State) (c t : Nat) (v : Word) : SelWrite :=
  let p := (s.core c).part
  if !within 0x800F07FF v then .bad
  else if (s.core c).exch.active || (s.core c).exch.waiting then .wait
  else .ok (s.setPart c { p with xsrc := Tab.put (s.strand c t).regs.xsrcix.toNat (BitVec.ofNat 32 v.toNat) p.xsrc })
/-- MSCOPE written (R95): scopes 6 and 7 are refused. -/
def State.writeMscope (s : State) (c t : Nat) (v : Word) : SelWrite :=
  let st := s.strand c t
  let lo := v.toNat % 8
  let hi := v.toNat / 8 % 8
  guardW (within 0x3F v && lo ≤ 5 && hi ≤ 5)
    (s.setStrand c t { st with regs := { st.regs with stlsc := BitVec.ofNat 3 hi, ldasc := BitVec.ofNat 3 lo } })
/-- ENGERR written (R229): W1C of VALID and MORE; the bits written to CODE and ADDR are ignored. -/
def State.writeEngerr (s : State) (c t : Nat) (v : Word) : SelWrite :=
  let st := s.strand c t
  guardW (within 0xFF3FFFFFFFFFFFFF v)
    (s.setStrand c t { st with regs := { st.regs with engerr := st.regs.engerr &&& ~~~(v &&& 0xC000000000000000#64) } })

def pcMask : Nat := 0x3FFFFFFFFFFFFC
def vaMask : Nat := 0x3FFFFFFFFFFFFF
def va54 (v : Word) : VAddr := v.setWidth 54

/-- A write of a state register without behaviour of its own, field by field (R54, Tables 4.3, 6.1, 7.9, 8.10, 14.3). -/
def State.writePlain (s : State) (c t sel : Nat) (v : Word) : SelWrite :=
  let st := s.strand c t
  let p := (s.core c).part
  let r := st.regs
  let regs (m : Nat) (r' : StrandRegs) : SelWrite := guardW (within m v) (s.setStrand c t { st with regs := r' })
  match sel with
  | 0x000 => guardW (within 0xF0F300 v) (s.setStrand c t { st with stat := st.stat.write v })
  | 0x001 => regs 0xFFFF00001FFF { r with cause := v }
  | 0x002 => regs pcMask { r with epc := va54 v }
  | 0x003 => regs vaMask { r with eva := va54 v }
  | 0x008 => .ok (s.setStrand c t { st with seed := v })
  | 0x009 => regs pcMask { r with uevec := va54 v }
  | 0x00B => regs 0x3E { r with evpend := if st.stat.sup then v.setWidth 6 else r.evpend &&& ~~~(v.setWidth 6) }
  | 0x040 => .ok (s.setPart c { p with acctCyc := v })
  | 0x041 => .ok (s.setPart c { p with acctNj := v })
  | 0x080 => regs 0x3E { r with evena := v.setWidth 6 }
  | 0x081 => regs pcMask { r with uevpc := va54 v }
  | 0x082 => guardW (256 ≤ v.toNat && v.toNat ≤ 2 ^ 31) (s.setStrand c t { st with ydefault := v.setWidth 32 })
  | 0x087 => guardW (within 0x7F v) (s.setStrand c t { st with vstat := st.vstat.write v })
  | 0x088 => guardW (within vaMask v) (s.setStrand c t { st with vresume := { st.vresume with skip := v.getLsbD 0 } })
  | 0x089 => guardW (within vaMask v) (s.setStrand c t { st with mresume := { st.mresume with skip := v.getLsbD 0 } })
  | 0x08A =>
    let k := s.core c
    guardW (within 0xFFFFFFFF000000F7 v) (s.setCore c { k with exch := { k.exch with
      late := k.exch.late && !v.getLsbD 1, miss := k.exch.miss && !v.getLsbD 0 } })
  | 0x08C => regs 0x1F { r with xsrcix := v.setWidth 5 }
  | 0x097 => regs pcMask { r with fvec := va54 v }
  | 0x098 => .ok (s.setStrand c t { st with regs := { r with svs := r.svs.set 0 v } })
  | 0x099 => .ok (s.setStrand c t { st with regs := { r with svs := r.svs.set 1 v } })
  | 0x09A => .ok (s.setStrand c t { st with regs := { r with svs := r.svs.set 2 v } })
  | 0x09B => .ok (s.setStrand c t { st with regs := { r with svs := r.svs.set 3 v } })
  | 0x09C => regs 0xFFFF { r with asid := v.setWidth 16 }
  | _ => .bad

/-- A write of selector `sel` by strand (c, t); unassigned and read-only selectors are refused. -/
def State.writeSel (s : State) (c t sel : Nat) (v : Word) : SelWrite :=
  match sel with
  | 0x006 => s.writeRbase c t v
  | 0x050 => s.writePailGeometry c false v
  | 0x051 => s.writePailGeometry c true v
  | 0x052 => s.writePailHead c v
  | 0x084 => s.writeMscope c t v
  | 0x08D => s.writeXsrcent c t v
  | 0x093 => s.writeEngerr c t v
  | _ => s.writePlain c t sel v

end Sys2Proof.Machine
end

