-- ==== Sys2Proof/Machine/Flow.lean ====
section
/-!
DEFINITION. Flow instructions, 0x00 to 0x10 (R49 to R53).
-/
namespace Sys2Proof.Machine

/-- The address of the bundle plus 4 × offset (R29). -/
def relTarget (s : State) (off : Int) : VAddr := s.me.pc + BitVec.ofInt 54 (4 * off)
/-- The strand's next bundle, after a transfer: on the exchange clock it issues no earlier than 2 core cycles later (R48). -/
def State.transfer (s : State) (st : Strand) (pc : VAddr) : State :=
  s.setMe { st with npc := pc, restUntil := if s.myCore.exch.active then s.time + 2 else st.restUntil }
def jumpTo (s : State) (pc : VAddr) : Eff := .done (s.transfer s.me pc)
/-- A taken relative transfer, or none (R49). -/
def branchIf (s : State) (cond : Bool) (off : Int) : Eff := if cond then jumpTo s (relTarget s off) else .done s
/-- LK ← next, then the transfer (R49). -/
def linkTo (s : State) (pc : VAddr) : Eff :=
  let st := s.me
  .done (s.transfer (st.xw 30 (wordOf st.npc)) pc)

/-- NOP: none (Table 4.2). -/
def rawNop (s : State) : Eff := .done s
def execNop (s : State) : Host.Outcome State Fault Refusal := lone .nop rawNop s
/-- BRA: always (Table 4.2). -/
def rawBra (off : BitVec 23) (s : State) : Eff := jumpTo s (relTarget s off.toInt)
def execBra (off : BitVec 23) (s : State) : Host.Outcome State Fault Refusal :=
  lone (.bra off) (rawBra off) s
/-- CALL: LK ← next, always (Table 4.2). -/
def rawCall (off : BitVec 23) (s : State) : Eff := linkTo s (relTarget s off.toInt)
def execCall (off : BitVec 23) (s : State) : Host.Outcome State Fault Refusal :=
  lone (.call off) (rawCall off) s
/-- RET: pc ← bits [53:2] of LK × 4 (Table 4.2). -/
def rawRet (s : State) : Eff := jumpTo s (target (s.me.xr 30))
def execRet (s : State) : Host.Outcome State Fault Refusal := lone .ret rawRet s
/-- JMPR: pc ← bits [53:2] of Xa × 4 (Table 4.2). -/
def rawJmpr (a : Reg) (s : State) : Eff := jumpTo s (target (s.me.xr a.val))
def execJmpr (a : Reg) (s : State) : Host.Outcome State Fault Refusal :=
  lone (.jmpr a) (rawJmpr a) s
/-- CALLR: the target is taken from Xa before LK ← next (Table 4.2). -/
def rawCallr (a : Reg) (s : State) : Eff := linkTo s (target (s.me.xr a.val))
def execCallr (a : Reg) (s : State) : Host.Outcome State Fault Refusal :=
  lone (.callr a) (rawCallr a) s
/-- BEQ: Xd = Xa (Table 4.2). -/
def rawBeq (d a : Reg) (off : BitVec 13) (s : State) : Eff := branchIf s (s.me.xr d.val == s.me.xr a.val) off.toInt
def execBeq (d a : Reg) (off : BitVec 13) (s : State) : Host.Outcome State Fault Refusal :=
  lone (.beq d a off) (rawBeq d a off) s
/-- BNE: Xd ≠ Xa (Table 4.2). -/
def rawBne (d a : Reg) (off : BitVec 13) (s : State) : Eff := branchIf s (s.me.xr d.val != s.me.xr a.val) off.toInt
def execBne (d a : Reg) (off : BitVec 13) (s : State) : Host.Outcome State Fault Refusal :=
  lone (.bne d a off) (rawBne d a off) s
/-- BLT: Xd < Xa, signed (Table 4.2). -/
def rawBlt (d a : Reg) (off : BitVec 13) (s : State) : Eff := branchIf s ((s.me.xr d.val).toInt < (s.me.xr a.val).toInt) off.toInt
def execBlt (d a : Reg) (off : BitVec 13) (s : State) : Host.Outcome State Fault Refusal :=
  lone (.blt d a off) (rawBlt d a off) s
/-- BGE: Xd ≥ Xa, signed (Table 4.2). -/
def rawBge (d a : Reg) (off : BitVec 13) (s : State) : Eff := branchIf s ((s.me.xr a.val).toInt ≤ (s.me.xr d.val).toInt) off.toInt
def execBge (d a : Reg) (off : BitVec 13) (s : State) : Host.Outcome State Fault Refusal :=
  lone (.bge d a off) (rawBge d a off) s
/-- BLTN: Xd < Xa, unsigned (Table 4.2). -/
def rawBltn (d a : Reg) (off : BitVec 13) (s : State) : Eff := branchIf s ((s.me.xr d.val).toNat < (s.me.xr a.val).toNat) off.toInt
def execBltn (d a : Reg) (off : BitVec 13) (s : State) : Host.Outcome State Fault Refusal :=
  lone (.bltn d a off) (rawBltn d a off) s
/-- BGEN: Xd ≥ Xa, unsigned (Table 4.2). -/
def rawBgen (d a : Reg) (off : BitVec 13) (s : State) : Eff := branchIf s ((s.me.xr a.val).toNat ≤ (s.me.xr d.val).toNat) off.toInt
def execBgen (d a : Reg) (off : BitVec 13) (s : State) : Host.Outcome State Fault Refusal :=
  lone (.bgen d a off) (rawBgen d a off) s
/-- BEQI: sext(Xd, 64) = i (Table 4.2). -/
def rawBeqi (d : Reg) (i : BitVec 5) (off : BitVec 13) (s : State) : Eff := branchIf s ((s.me.xr d.val).toInt == i.toInt) off.toInt
def execBeqi (d : Reg) (i : BitVec 5) (off : BitVec 13) (s : State) : Host.Outcome State Fault Refusal :=
  lone (.beqi d i off) (rawBeqi d i off) s
/-- BNEI: sext(Xd, 64) ≠ i (Table 4.2). -/
def rawBnei (d : Reg) (i : BitVec 5) (off : BitVec 13) (s : State) : Eff := branchIf s ((s.me.xr d.val).toInt != i.toInt) off.toInt
def execBnei (d : Reg) (i : BitVec 5) (off : BitVec 13) (s : State) : Host.Outcome State Fault Refusal :=
  lone (.bnei d i off) (rawBnei d i off) s
/-- BZ: Xd = 0 (Table 4.2). -/
def rawBz (d : Reg) (off : BitVec 18) (s : State) : Eff := branchIf s (s.me.xr d.val == 0) off.toInt
def execBz (d : Reg) (off : BitVec 18) (s : State) : Host.Outcome State Fault Refusal :=
  lone (.bz d off) (rawBz d off) s
/-- BNZ: Xd ≠ 0 (Table 4.2). -/
def rawBnz (d : Reg) (off : BitVec 18) (s : State) : Eff := branchIf s (s.me.xr d.val != 0) off.toInt
def execBnz (d : Reg) (off : BitVec 18) (s : State) : Host.Outcome State Fault Refusal :=
  lone (.bnz d off) (rawBnz d off) s

/-- Some Churn entry of strand t is queued, running or held (R139). -/
def Core.churnOf (k : Core) (t : Nat) : Bool :=
  k.churnQ.any (·.strand == t) || (k.churnRun.any fun e => e.strand == t) || !(Tab.get {} t k.part.strands).churnHeld.isEmpty
/-- A BARI of the strand is outstanding: its episode has not released (R212, R215, R258). -/
def State.barWaits (s : State) (c t : Nat) : Bool := s.domains.any fun e => e.2.arrivals.any fun a => a.core == c && a.strand == t
/-- The scheduler can act at a YIELD now (R53): no handler and no exchange phase. -/
def State.canAct (s : State) : Bool := !s.me.stat.uev && !s.myCore.exch.active
/-- YBOUND after a YIELD (R50). -/
def Strand.boundOf (st : Strand) (dl : BitVec 10) : BitVec 32 :=
  if dl = 0 then st.ydefault else BitVec.ofNat 32 (dl.toNat * 256)
/-- The strand of a marked context is held, unless a BARI of it is outstanding (R258). -/
def State.holdMe (s : State) : State :=
  if s.myPart.marked && !s.barWaits s.curCore s.curStrand then s.setMe { s.me with status := .held, heldAt := s.time } else s

/-- What the scheduler does at a YIELD of the acting strand (R53, R258). -/
def State.actAtYield (s : State) : State :=
  (if s.me.stat.kv then s else s.yieldLoss s.curCore s.curStrand).holdMe
/-- A YIELD of the strand's present privilege is to take effect later, or not. -/
def Strand.setDue (st : Strand) (b : Bool) : Strand := if st.stat.sup then { st with supDue := b } else { st with yieldDue := b }
/-- The YIELD of a pair whose arithmetic word is done takes effect on strand (c, t) (R28), at the privilege that it was issued at. -/
def State.yieldNow (s : State) (c t : Nat) : Option State :=
  let st := s.strand c t
  if st.dueNow && st.status == .running && st.seqEmpty && !(s.core c).churnOf t then
    some (((s.setStrand c t (st.setDue false)).at_ c t).actAtYield.at_ s.curCore s.curStrand)
  else none

/-- The acting strand's convoy ends at a YIELD (R287): followers fetch from `pc`, and the matching caps follow (Table 1.4). -/
def State.endConvoy (s : State) (pc : VAddr) : State :=
  let s1 := s.leaveConvoy s.curCore s.curStrand pc
  if s.hasFollowers s.curCore s.curStrand then s1.rematch s.curCore else s1
/-- YIELD (R50, R53): issues once the sequencer is empty (R115) and every matrix instruction of the strand has retired (R139). -/
def rawYield (dl : BitVec 10) (kv : Bool) (s : State) : Eff :=
  let st := s.me
  if !st.seqEmpty || s.myCore.churnOf s.curStrand then .wait
  else
    let s1 := s.setMe { st with ycnt := 0, ybound := st.boundOf dl, stat := { st.stat with kv := kv }, promote := none }
    let s2 := s1.endConvoy st.npc
    if s.canAct then .done s2.actAtYield else .done s2
/-- YIELD in a pair: the scheduler acts after the whole bundle (R28), once its arithmetic word is done. -/
def rawYieldPaired (dl : BitVec 10) (kv : Bool) (s : State) : Eff :=
  let st := s.me
  if !st.seqEmpty || s.myCore.churnOf s.curStrand then .wait
  else
    let s1 := s.setMe (({ st with ycnt := 0, ybound := st.boundOf dl, stat := { st.stat with kv := kv }, promote := none } : Strand).setDue s.canAct)
    .done (s1.endConvoy st.npc)
def execYield (dl : BitVec 10) (kv : Bool) (s : State) : Host.Outcome State Fault Refusal :=
  lone (.yield dl kv) (rawYield dl kv) s

end Sys2Proof.Machine
end

