-- ==== Sys2Proof/Machine/System.lean ====
section
/-!
DEFINITION. System and state instructions, 0x11 to 0x1D (R54 to R67).
-/
namespace Sys2Proof.Machine

/-- The selector is VSTAT, whose reads wait for an empty sequencer (R111). -/
def vstatHeld (s : State) (sel : BitVec 12) : Bool := sel == 0x087 && !s.me.seqEmpty
def ofSelWrite : SelWrite → Eff
  | .ok s => .done s
  | .bad => trapCode 0x02
  | .wait => .wait

/-- GETS Xd, s (R54). -/
def rawGets (d : Reg) (sel : BitVec 12) (s : State) : Eff :=
  if vstatHeld s sel then .wait
  else
    match s.readSel s.curCore s.curStrand sel.toNat with
    | some v => writeX s d v
    | none => trapCode 0x02
def execGets (d : Reg) (sel : BitVec 12) (s : State) : Host.Outcome State Fault Refusal :=
  lone (.gets d sel) (rawGets d sel) s
/-- SETS s, Xa (R54). -/
def rawSets (sel : BitVec 12) (a : Reg) (s : State) : Eff := ofSelWrite (s.writeSel s.curCore s.curStrand sel.toNat (s.me.xr a.val))
def execSets (sel : BitVec 12) (a : Reg) (s : State) : Host.Outcome State Fault Refusal :=
  lone (.sets sel a) (rawSets sel a) s
/-- SWAPS Xd, s, Xa: the read and then the write, as one step (R54). -/
def rawSwaps (d : Reg) (sel : BitVec 12) (a : Reg) (s : State) : Eff :=
  if vstatHeld s sel then .wait
  else
    match s.readSel s.curCore s.curStrand sel.toNat, s.writeSel s.curCore s.curStrand sel.toNat (s.me.xr a.val) with
    | some v, .ok s1 => writeX s1 d v
    | some _, .wait => .wait
    | _, _ => trapCode 0x02
def execSwaps (d : Reg) (sel : BitVec 12) (a : Reg) (s : State) : Host.Outcome State Fault Refusal :=
  lone (.swaps d sel a) (rawSwaps d sel a) s
/-- TRAP #n: fault 0x08 with the trap number (R57). -/
def rawTrap (n : BitVec 16) (s : State) : Eff := .trap { code := 0x08, trapno := n.toNat }
def execTrap (n : BitVec 16) (s : State) : Host.Outcome State Fault Refusal :=
  lone (.trap n) (rawTrap n) s

/-- The entries that a sequencer fault holds, as ERET restarts them (R116): without the faulting one under SKIP. DESIGN CHOICE (log 89): the spec does not
order them with entries that the handler itself has left in the sequencer; the held ones come first. -/
def Strand.resumeSeq (st : Strand) : Strand :=
  if st.vresume.pend then
    let held := { st with seq := st.seqHeld, seqHeld := [], vresume := { st.vresume with pend := false, skip := false } }
    let left := if st.vresume.skip then held.popSeq else held
    { left with seq := left.seq ++ st.seq }
  else st
/-- The held matrix entries, as ERET returns them to the front of the strand's issue (R158). -/
def Strand.resumeChurn (st : Strand) : Strand :=
  if st.mresume.pend then
    { st with churnHeld := if st.mresume.skip then st.churnHeld.drop 1 else st.churnHeld
              mresume := { st.mresume with pend := false, skip := false } }
  else st
/-- Where the scalar pipeline resumes (R58, R116, R158, R255): the later of the two held addresses when both are held. DEDUCED
(log 35): the higher one. -/
def Strand.resumePc (st : Strand) : VAddr :=
  match st.vresume.pend, st.mresume.pend with
  | false, false => target (wordOf st.regs.epc)
  | true, false => st.vresume.pc
  | false, true => st.mresume.pc
  | true, true => if st.vresume.pc.toNat < st.mresume.pc.toNat then st.mresume.pc else st.vresume.pc
/-- Moves held entries that are to execute again into the Churn queue of two, as far as there is room (R158). -/
def State.requeue (s : State) (c t : Nat) : State :=
  let k := s.core c
  let st := s.strand c t
  if st.mresume.pend || st.churnFault.isSome then s
  else
    let n := 2 - k.churnQ.length
    (s.setCore c { k with churnQ := k.churnQ ++ st.churnHeld.take n }).setStrand c t { st with churnHeld := st.churnHeld.drop n }

/-- ERET (R58, R116, R158, R255). -/
def rawEret (s : State) : Eff :=
  let st := s.me
  let st1 := { st.returnFromFault with npc := st.resumePc }
  .done ((s.setMe st1.resumeSeq.resumeChurn).requeue s.curCore s.curStrand)
def execEret (s : State) : Host.Outcome State Fault Refusal := lone .eret rawEret s
/-- UEVRET (R60). -/
def rawUevret (s : State) : Eff :=
  let st := s.me
  if !st.stat.uev then trapCode 0x02
  else onStrand s { st with npc := target (wordOf st.regs.uevpc), stat := { st.stat with uev := false } }
def execUevret (s : State) : Host.Outcome State Fault Refusal := lone .uevret rawUevret s

/-- The lowest set bit k of [5:1]. -/
def lowBit (b : BitVec 6) : Option Nat := [1, 2, 3, 4, 5].find? fun k => b.getLsbD k
/-- EVWAIT's test: the lowest pending event that EVENA leaves disabled is taken (R62). -/
def evTake (st : Strand) (d : Nat) : Option Strand :=
  (lowBit (st.regs.evpend &&& ~~~st.regs.evena)).map fun k =>
    ({ st with regs := { st.regs with evpend := st.regs.evpend &&& ~~~(BitVec.ofNat 6 (2 ^ k)) } } : Strand).xw d (wordN k)

/-- EVWAIT Xd (R62). -/
def rawEvwait (d : Reg) (s : State) : Eff :=
  match evTake s.me d.val with
  | some st => onStrand s st
  | none => .sleep .event [] s
def execEvwait (d : Reg) (s : State) : Host.Outcome State Fault Refusal :=
  lone (.evwait d) (rawEvwait d) s
/-- EVMASK Xd, Xa (R61). -/
def rawEvmask (d a : Reg) (s : State) : Eff :=
  let st := s.me
  let v := st.xr a.val
  if !within 0x3E v then trapCode 0x02
  else onStrand s (({ st with regs := { st.regs with evena := v.setWidth 6 } } : Strand).xw d.val (wordOf st.regs.evena))
def execEvmask (d a : Reg) (s : State) : Host.Outcome State Fault Refusal :=
  lone (.evmask d a) (rawEvmask d a) s

/-- A record of `bytes` bytes fits on the strand's stack and in the core's spill area (R63). -/
def spillFits (s : State) (bytes : Nat) : Bool := s.me.spill.length != 255 && s.myPart.parked + bytes ≤ 2048
/-- The tier of a record to be pushed: a free choice among those that have room for it (R63, log 18). -/
def State.tierFor (s : State) (bytes : Nat) : Nat :=
  let o := octetOf (s.selfCore s.curCore)
  match (Config.spillTier s.freeCtr).val with
  | 0 => if s.parkedInLanes o + bytes ≤ s.laneRoom o then 0 else 2
  | 1 => if s.myPart.zRoom then 1 else 2
  | _ => 2
/-- Pushes a record. -/
def State.pushSpill (s : State) (r : SpillRec) : State :=
  let tier := s.tierFor r.bytes
  ({ s with freeCtr := s.freeCtr + 1 } : State).setMe { s.me with spill := { r with tier := tier } :: s.me.spill }
/-- SPILL of class X: values and pointer marks of c registers, the first lowest. -/
def spillX (d n : Nat) (s : State) : Eff :=
  if !spillFits s (8 * n) then trapCode 0x18
  else .done (s.pushSpill { cls := .x, count := n, lanes := s.me.nlanes, xs := (span d n).map s.me.xreg })
/-- SPILL of class V: the record is pushed at handover, and the sequencer entry writes its values (R63, R116). -/
def spillV (i : Instr) (n : Nat) (s : State) : Eff :=
  let st := s.me
  if st.nlanes = 0 then trapCode 0x02
  else if !spillFits s (4 * st.nlanes * n) then trapCode 0x18
  else if !st.seqRoom 1 then .wait
  else
    let s1 := s.pushSpill { cls := .v, count := n, lanes := st.nlanes, id := s.nextId + 1 }
    .done (({ s1 with nextId := s.nextId + 1 } : State).setMe
      { s1.me with seq := st.seq ++ [{ st.entry i with pcount := s.nextId + 1, ord := s.nextId, handed := s.time }] })
/-- Writes popped X registers, with their marks. -/
def fillX (d : Nat) : List XReg → Strand → Strand
  | [], st => st
  | r :: l, st => fillX (d + 1) l (st.xput d r)
/-- The top record matches a FILL (R63). -/
def fillMatches (r : SpillRec) (cls : RClass) (n lanes : Nat) : Bool :=
  r.cls == cls && r.count == n && (cls == .x || r.lanes == lanes)

/-- SPILL Xd, #c or Vd, #c with c = field a + 1 (R63). -/
def rawSpill (cls : RClass) (d c : Reg) (s : State) : Eff :=
  match cls with
  | .x => spillX d.val (c.val + 1) s
  | .v => spillV (.spill .v d c) (c.val + 1) s
def execSpill (cls : RClass) (d c : Reg) (s : State) : Host.Outcome State Fault Refusal :=
  lone (.spill cls d c) (rawSpill cls d c) s
/-- FILL Xd, #c or Vd, #c with c = field a + 1 (R63). -/
def rawFill (cls : RClass) (d c : Reg) (s : State) : Eff :=
  let st := s.me
  match st.spill with
  | [] => trapCode 0x19
  | r :: rest =>
    if !fillMatches r cls (c.val + 1) st.nlanes then trapCode 0x19
    else
      match cls with
      | .x => onStrand s (fillX d.val r.xs { st with spill := rest })
      | .v => pushEntry s { st with spill := rest } { st.entry (.fill .v d c) with pcount := r.id, vals := r.vs }
def execFill (cls : RClass) (d c : Reg) (s : State) : Host.Outcome State Fault Refusal :=
  lone (.fill cls d c) (rawFill cls d c) s

/-- A register capability (Table 4.6). -/
def capability (c t : Nat) (cls : RClass) (r : Nat) (wm : Bool) (gen : BitVec 16) : Word :=
  let hi : BitVec 40 := BitVec.ofNat 40 (c / 2048 * 2 ^ 38 + c / 32 % 64 * 2 ^ 30 + c % 32 * 2 ^ 25 + t % 4 * 2 ^ 23
    + cls.code * 2 ^ 22 + r % 32 * 2 ^ 17 + b2n wm * 2 ^ 16 + gen.toNat)
  hi ++ Config.capCheck hi

/-- The passes that an entry of the sequencer has still to make: the RBASE and the register offset of each (R117, R118). -/
def Strand.passes (st : Strand) (e : SeqEntry) : List (Nat × Nat) :=
  match e.inLoop, st.loop with
  | true, some l =>
    (span 0 (Nat.min (l.count - l.iter) 16)).map fun k =>
      if l.rep then (l.rbase, (l.iter + k) * l.step) else ((l.rbase + k * l.step) % 16, 0)
  | _, _ => [(e.rbase, 0)]
/-- Words that read their destination too. -/
def readsDst : Instr → Bool
  | .vsel _ _ _ _ _ | .vfma _ _ _ _ _ _ | .vfms _ _ _ _ _ _ => true
  | _ => false
/-- An entry writes, or with `rd` reads or writes, physical V register p in a pass that it has still to make. -/
def Strand.entryTouches (st : Strand) (rd : Bool) (p : Nat) (e : SeqEntry) : Bool :=
  (st.passes e).any fun x =>
    let at_ (o : VOp) : Bool := (span o.n (o.len st.nlanes e.pcount)).any fun n => physOff x.1 x.2 n == p
    match e.instr with
    | .spill .v d n => rd && (span d.val (n.val + 1)).any fun r => phys x.1 r == p
    | .fill .v d n => (span d.val (n.val + 1)).any fun r => phys x.1 r == p
    | .mmovzv a _ _ => (span a.val (groupRegs st.nlanes 32 16)).any fun r => phys x.1 r == p
    | i => (vOps i e.pwidth).any fun o => (rd || o.dst) && at_ o
/-- An entry reads physical V register p in a pass that it has still to make. -/
def Strand.entryReads (st : Strand) (p : Nat) (e : SeqEntry) : Bool :=
  (st.passes e).any fun x =>
    match e.instr with
    | .spill .v d n => (span d.val (n.val + 1)).any fun r => phys x.1 r == p
    | i => (vOps i e.pwidth).any fun o => (!o.dst || readsDst i) && (span o.n (o.len st.nlanes e.pcount)).any fun n => physOff x.1 x.2 n == p
/-- An entry reads a V register that an arrival has still to fill, or has filled under a release: the read is a load that observes the arrival
(R182). -/
def Strand.observes (st : Strand) (e : SeqEntry) : Bool := st.v.any fun x => (!x.2.full || x.2.rel.isSome) && st.entryReads x.1 e
/-- A request is one of the member that the part runs (R260, R271). -/
def SfuReq.isOf (q : SfuReq) (p : Part) : Bool := q.launch == p.launch && q.rank == p.rank
/-- An SFU request or an armed selection of strand (c, t) still writes V register p (R134, R188). -/
def State.vregAwaited (s : State) (c t p : Nat) : Bool :=
  ((s.octet (octetOf c)).sfu.any fun q => q.core == c && q.strand == t && q.isOf (s.core c).part
      && ((vOps q.entry.instr q.entry.pwidth).any fun o => o.dst && (span o.n (o.len q.lanes q.entry.pcount)).any fun n => physOff q.entry.rbase q.off n == p))
    || (s.core c).exch.armed.any fun a => a.strand == t && a.reg == p
/-- An earlier instruction of strand (c, t) still reads or writes V register p: a sequencer entry, a request at the SFU, or an armed
selection (R47, R114, R134, R188). -/
def State.vregBusy (s : State) (c t p : Nat) : Bool :=
  let st := s.strand c t
  st.seq.any (st.entryTouches true p) || s.vregAwaited c t p

/-- MKRCAP Xd, Xa or Va, with .WM (R65): a V register is marked once earlier instructions have done with it (R47, R114). -/
def rawMkrcap (d a : Reg) (cls : RClass) (wm : Bool) (s : State) : Eff :=
  let st := s.me
  match cls with
  | .x =>
    if a.val = 0 ∨ a = d then trapCode 0x02
    else
      let st1 := st.xput a.val { st.xreg a.val with full := false }
      onStrand s (st1.xw d.val (capability s.curCore s.curStrand .x a.val wm st.regs.capgen))
  | .v =>
    let p := phys st.rbase.toNat a.val
    let st1 := st.vput p { st.vreg p with full := false }
    if s.vregBusy s.curCore s.curStrand p then .wait
    else onStrand s (st1.xw d.val (capability s.curCore s.curStrand .v p wm st.regs.capgen))
def execMkrcap (d a : Reg) (cls : RClass) (wm : Bool) (s : State) : Host.Outcome State Fault Refusal :=
  lone (.mkrcap d a cls wm) (rawMkrcap d a cls wm) s

/-- Every register that is empty becomes full, its contents unchanged (R66, R263). -/
def Strand.fillAll (st : Strand) : Strand :=
  { st with x := st.x.map fun e => (e.1, { e.2 with full := true }), v := st.v.map fun e => (e.1, { e.2 with full := true }) }

/-- RVOKE (R66). -/
def rawRvoke (s : State) : Eff :=
  let st := s.me.fillAll
  onStrand s { st with regs := { st.regs with capgen := st.regs.capgen + 1 } }
def execRvoke (s : State) : Host.Outcome State Fault Refusal := lone .rvoke rawRvoke s
/-- Later fetches of the acting core from the n bytes at `lo` see every store that the strand has performed and every one that it has
acquired (R67); 65,536 bytes or more stand for every address. -/
def State.iflush (s : State) (lo n : Nat) : State :=
  let k := s.me.known.join [(agentOf s.curCore s.curStrand, s.nextId)]
  if n = 0 then s else if 65536 ≤ n then s.flushFetch s.curCore 0 (2 ^ 54) k else s.flushFetch s.curCore lo n k
/-- IFLUSH Xa, Xb (R67). -/
def rawIflush (a b : Reg) (s : State) : Eff := .done (s.iflush (vaof (s.me.xr a.val)) (s.me.xr b.val).toNat)
def execIflush (a b : Reg) (s : State) : Host.Outcome State Fault Refusal :=
  lone (.iflush a b) (rawIflush a b) s

end Sys2Proof.Machine
end

