-- ==== Sys2Proof/Machine/Integer.lean ====
section
/-!
DEFINITION. Scalar integer instructions, 0x80 to 0xA3 (R68, R69), and the pointer tags (R70 to R73).
-/
namespace Sys2Proof.Machine

/-- The source values of Xa and Xb as numbers. -/
def xa (s : State) (a : Reg) : Nat := (s.me.xr a.val).toNat
/-- Xd ← an n-bit result, sign-extended under .W (R68). -/
def putW (s : State) (d : Reg) (w : Bool) (v : Nat) : Eff := writeX s d (wide w (v % 2 ^ opBits w))
/-- A signed n-bit source (R68). -/
def sx (s : State) (w : Bool) (a : Reg) : Int := sext (xa s a) (opBits w)
/-- Xd ← 1 if the condition holds, else 0. -/
def putBool (s : State) (d : Reg) (b : Bool) : Eff := writeX s d (if b then 1 else 0)

/-- ADD (Table 4.7). -/
def rawAdd (d a b : Reg) (w : Bool) (s : State) : Eff := putW s d w (xa s a + xa s b)
def execAdd (d a b : Reg) (w : Bool) (s : State) : Host.Outcome State Fault Refusal :=
  lone (.add d a b w) (rawAdd d a b w) s
/-- ADDI (Table 4.7). -/
def rawAddi (d a : Reg) (i : BitVec 13) (s : State) : Eff := writeX s d (s.me.xr a.val + i.signExtend 64)
def execAddi (d a : Reg) (i : BitVec 13) (s : State) : Host.Outcome State Fault Refusal :=
  lone (.addi d a i) (rawAddi d a i) s
/-- SUB (Table 4.7). -/
def rawSub (d a b : Reg) (w : Bool) (s : State) : Eff := putW s d w (wrap ((xa s a : Int) - xa s b) (opBits w))
def execSub (d a b : Reg) (w : Bool) (s : State) : Host.Outcome State Fault Refusal :=
  lone (.sub d a b w) (rawSub d a b w) s
/-- MUL: low half of the product (Table 4.7). -/
def rawMul (d a b : Reg) (w : Bool) (s : State) : Eff := putW s d w (xa s a * xa s b)
def execMul (d a b : Reg) (w : Bool) (s : State) : Host.Outcome State Fault Refusal :=
  lone (.mul d a b w) (rawMul d a b w) s
/-- MULH: high half of the signed product (Table 4.7). -/
def rawMulh (d a b : Reg) (w : Bool) (s : State) : Eff := putW s d w (wrap (sx s w a * sx s w b / (2 ^ opBits w : Nat)) (opBits w))
def execMulh (d a b : Reg) (w : Bool) (s : State) : Host.Outcome State Fault Refusal :=
  lone (.mulh d a b w) (rawMulh d a b w) s
/-- MULHN: high half of the unsigned product (Table 4.7). -/
def rawMulhn (d a b : Reg) (w : Bool) (s : State) : Eff := putW s d w ((xa s a % 2 ^ opBits w) * (xa s b % 2 ^ opBits w) / 2 ^ opBits w)
def execMulhn (d a b : Reg) (w : Bool) (s : State) : Host.Outcome State Fault Refusal :=
  lone (.mulhn d a b w) (rawMulhn d a b w) s
/-- DIV: signed quotient (Table 4.7, R69). -/
def rawDiv (d a b : Reg) (w : Bool) (s : State) : Eff := putW s d w (divS (opBits w) (xa s a) (xa s b))
def execDiv (d a b : Reg) (w : Bool) (s : State) : Host.Outcome State Fault Refusal :=
  lone (.div d a b w) (rawDiv d a b w) s
/-- DIVN: unsigned quotient (Table 4.7, R69). -/
def rawDivn (d a b : Reg) (w : Bool) (s : State) : Eff := putW s d w (divU (opBits w) (xa s a) (xa s b))
def execDivn (d a b : Reg) (w : Bool) (s : State) : Host.Outcome State Fault Refusal :=
  lone (.divn d a b w) (rawDivn d a b w) s
/-- REM: signed remainder (Table 4.7, R69). -/
def rawRem (d a b : Reg) (w : Bool) (s : State) : Eff := putW s d w (remS (opBits w) (xa s a) (xa s b))
def execRem (d a b : Reg) (w : Bool) (s : State) : Host.Outcome State Fault Refusal :=
  lone (.rem d a b w) (rawRem d a b w) s
/-- REMN: unsigned remainder (Table 4.7, R69). -/
def rawRemn (d a b : Reg) (w : Bool) (s : State) : Eff := putW s d w (remU (opBits w) (xa s a) (xa s b))
def execRemn (d a b : Reg) (w : Bool) (s : State) : Host.Outcome State Fault Refusal :=
  lone (.remn d a b w) (rawRemn d a b w) s
/-- AND (Table 4.7). -/
def rawAnd (d a b : Reg) (s : State) : Eff := writeX s d (s.me.xr a.val &&& s.me.xr b.val)
def execAnd (d a b : Reg) (s : State) : Host.Outcome State Fault Refusal :=
  lone (.and d a b) (rawAnd d a b) s
/-- ANDI, the immediate sign-extended (Table 4.7). -/
def rawAndi (d a : Reg) (i : BitVec 13) (s : State) : Eff := writeX s d (s.me.xr a.val &&& i.signExtend 64)
def execAndi (d a : Reg) (i : BitVec 13) (s : State) : Host.Outcome State Fault Refusal :=
  lone (.andi d a i) (rawAndi d a i) s
/-- OR (Table 4.7). -/
def rawOr (d a b : Reg) (s : State) : Eff := writeX s d (s.me.xr a.val ||| s.me.xr b.val)
def execOr (d a b : Reg) (s : State) : Host.Outcome State Fault Refusal :=
  lone (.or d a b) (rawOr d a b) s
/-- ORI, the immediate sign-extended (Table 4.7). -/
def rawOri (d a : Reg) (i : BitVec 13) (s : State) : Eff := writeX s d (s.me.xr a.val ||| i.signExtend 64)
def execOri (d a : Reg) (i : BitVec 13) (s : State) : Host.Outcome State Fault Refusal :=
  lone (.ori d a i) (rawOri d a i) s
/-- XOR (Table 4.7). -/
def rawXor (d a b : Reg) (s : State) : Eff := writeX s d (s.me.xr a.val ^^^ s.me.xr b.val)
def execXor (d a b : Reg) (s : State) : Host.Outcome State Fault Refusal :=
  lone (.xor d a b) (rawXor d a b) s
/-- XORI, the immediate sign-extended (Table 4.7). -/
def rawXori (d a : Reg) (i : BitVec 13) (s : State) : Eff := writeX s d (s.me.xr a.val ^^^ i.signExtend 64)
def execXori (d a : Reg) (i : BitVec 13) (s : State) : Host.Outcome State Fault Refusal :=
  lone (.xori d a i) (rawXori d a i) s
/-- SHL: a × 2^k, k = b mod 64, or mod 32 (Table 4.7). -/
def rawShl (d a b : Reg) (w : Bool) (s : State) : Eff := putW s d w (xa s a * 2 ^ (xa s b % opBits w))
def execShl (d a b : Reg) (w : Bool) (s : State) : Host.Outcome State Fault Refusal :=
  lone (.shl d a b w) (rawShl d a b w) s
/-- SHLI (Table 4.7). -/
def rawShli (d a : Reg) (k : BitVec 6) (s : State) : Eff := writeX s d (s.me.xr a.val <<< k.toNat)
def execShli (d a : Reg) (k : BitVec 6) (s : State) : Host.Outcome State Fault Refusal :=
  lone (.shli d a k) (rawShli d a k) s
/-- SHR: a div 2^k, unsigned (Table 4.7). -/
def rawShr (d a b : Reg) (w : Bool) (s : State) : Eff := putW s d w (xa s a % 2 ^ opBits w / 2 ^ (xa s b % opBits w))
def execShr (d a b : Reg) (w : Bool) (s : State) : Host.Outcome State Fault Refusal :=
  lone (.shr d a b w) (rawShr d a b w) s
/-- SHRI (Table 4.7). -/
def rawShri (d a : Reg) (k : BitVec 6) (s : State) : Eff := writeX s d (s.me.xr a.val >>> k.toNat)
def execShri (d a : Reg) (k : BitVec 6) (s : State) : Host.Outcome State Fault Refusal :=
  lone (.shri d a k) (rawShri d a k) s
/-- SRA: floor(sext(a) ÷ 2^k) (Table 4.7). -/
def rawSra (d a b : Reg) (w : Bool) (s : State) : Eff := putW s d w (wrap (sx s w a / (2 ^ (xa s b % opBits w) : Nat)) (opBits w))
def execSra (d a b : Reg) (w : Bool) (s : State) : Host.Outcome State Fault Refusal :=
  lone (.sra d a b w) (rawSra d a b w) s
/-- SRAI (Table 4.7). -/
def rawSrai (d a : Reg) (k : BitVec 6) (s : State) : Eff := writeX s d ((s.me.xr a.val).sshiftRight k.toNat)
def execSrai (d a : Reg) (k : BitVec 6) (s : State) : Host.Outcome State Fault Refusal :=
  lone (.srai d a k) (rawSrai d a k) s
/-- SLT: signed (Table 4.7). -/
def rawSlt (d a b : Reg) (s : State) : Eff := putBool s d ((s.me.xr a.val).toInt < (s.me.xr b.val).toInt)
def execSlt (d a b : Reg) (s : State) : Host.Outcome State Fault Refusal :=
  lone (.slt d a b) (rawSlt d a b) s
/-- SLTN: unsigned (Table 4.7). -/
def rawSltn (d a b : Reg) (s : State) : Eff := putBool s d (xa s a < xa s b)
def execSltn (d a b : Reg) (s : State) : Host.Outcome State Fault Refusal :=
  lone (.sltn d a b) (rawSltn d a b) s
/-- SLTI (Table 4.7). -/
def rawSlti (d a : Reg) (i : BitVec 13) (s : State) : Eff := putBool s d ((s.me.xr a.val).toInt < i.toInt)
def execSlti (d a : Reg) (i : BitVec 13) (s : State) : Host.Outcome State Fault Refusal :=
  lone (.slti d a i) (rawSlti d a i) s
/-- MIN: signed (Table 4.7). -/
def rawMin (d a b : Reg) (s : State) : Eff := writeX s d (if (s.me.xr b.val).toInt < (s.me.xr a.val).toInt then s.me.xr b.val else s.me.xr a.val)
def execMin (d a b : Reg) (s : State) : Host.Outcome State Fault Refusal :=
  lone (.min d a b) (rawMin d a b) s
/-- MAX: signed (Table 4.7). -/
def rawMax (d a b : Reg) (s : State) : Eff := writeX s d (if (s.me.xr a.val).toInt < (s.me.xr b.val).toInt then s.me.xr b.val else s.me.xr a.val)
def execMax (d a b : Reg) (s : State) : Host.Outcome State Fault Refusal :=
  lone (.max d a b) (rawMax d a b) s
/-- MOVI: sext(imm18, 18) (Table 4.7). -/
def rawMovi (d : Reg) (i : BitVec 18) (s : State) : Eff := writeX s d (i.signExtend 64)
def execMovi (d : Reg) (i : BitVec 18) (s : State) : Host.Outcome State Fault Refusal :=
  lone (.movi d i) (rawMovi d i) s
/-- MOVHI: zext(Xd × 2^18 + imm18, 64) (Table 4.7). -/
def rawMovhi (d : Reg) (i : BitVec 18) (s : State) : Eff := writeX s d (BitVec.ofNat 64 (xa s d * 2 ^ 18 + i.toNat))
def execMovhi (d : Reg) (i : BitVec 18) (s : State) : Host.Outcome State Fault Refusal :=
  lone (.movhi d i) (rawMovhi d i) s
/-- CLZ: leading zero bits (Table 4.7). -/
def rawClz (d a : Reg) (s : State) : Eff := writeX s d (wordN (leadZeros (xa s a)))
def execClz (d a : Reg) (s : State) : Host.Outcome State Fault Refusal :=
  lone (.clz d a) (rawClz d a) s
/-- POPC: set bits (Table 4.7). -/
def rawPopc (d a : Reg) (s : State) : Eff := writeX s d (wordN (popCount 64 (xa s a)))
def execPopc (d a : Reg) (s : State) : Host.Outcome State Fault Refusal :=
  lone (.popc d a) (rawPopc d a) s

/-- A fat pointer advanced within its 54 address bits (R72). -/
def padded (p v : Word) : Word := BitVec.ofNat 64 (p.toNat / 2 ^ 54 * 2 ^ 54 + (p.toNat % 2 ^ 54 + v.toNat) % 2 ^ 54)
/-- Xd ← a value with a pointer mark (R71). -/
def putMarked (s : State) (d : Reg) (v : Word) (mark : Bool) : Eff := onStrand s (s.me.xwm d.val v mark)

/-- PADD (R72). -/
def rawPadd (d a b : Reg) (s : State) : Eff := putMarked s d (padded (s.me.xr a.val) (s.me.xr b.val)) (s.me.xreg a.val).mark
def execPadd (d a b : Reg) (s : State) : Host.Outcome State Fault Refusal :=
  lone (.padd d a b) (rawPadd d a b) s
/-- PADDI (R72). -/
def rawPaddi (d a : Reg) (i : BitVec 13) (s : State) : Eff := putMarked s d (padded (s.me.xr a.val) (i.signExtend 64)) (s.me.xreg a.val).mark
def execPaddi (d a : Reg) (i : BitVec 13) (s : State) : Host.Outcome State Fault Refusal :=
  lone (.paddi d a i) (rawPaddi d a i) s
/-- PTAG: fault 0x13 for a code that names no format (R72). -/
def rawPtag (d a : Reg) (f : BitVec 6) (e : BitVec 4) (s : State) : Eff :=
  if isFormat f.toNat then putMarked s d (wordN (f.toNat * 2 ^ 58 + e.toNat * 2 ^ 54 + xa s a % 2 ^ 54)) true
  else trapCode 0x13
def execPtag (d a : Reg) (f : BitVec 6) (e : BitVec 4) (s : State) : Host.Outcome State Fault Refusal :=
  lone (.ptag d a f e) (rawPtag d a f e) s
/-- PSTRIP (R72). -/
def rawPstrip (d a : Reg) (s : State) : Eff := writeX s d (wordN (xa s a % 2 ^ 54))
def execPstrip (d a : Reg) (s : State) : Host.Outcome State Fault Refusal :=
  lone (.pstrip d a) (rawPstrip d a) s
/-- SEL: the chosen source with its pointer mark (Table 4.7, R71). -/
def rawSel (d a b : Reg) (s : State) : Eff :=
  let r := if s.me.xr d.val ≠ 0 then s.me.xreg a.val else s.me.xreg b.val
  putMarked s d r.val r.mark
def execSel (d a b : Reg) (s : State) : Host.Outcome State Fault Refusal :=
  lone (.sel d a b) (rawSel d a b) s

end Sys2Proof.Machine
end

