-- ==== Sys2Proof/Machine/Float.lean ====
section
/-!
DEFINITION. Scalar float instructions, 0xA4 to 0xA8 (R74 to R77).
-/
namespace Sys2Proof.Machine

/-- An operand's bits in a float format (R74). -/
def fx (s : State) (t : FTy) (a : Reg) : Nat := xa s a % 2 ^ t.width
/-- Writes a float result zero-extended, with its flags and SEED (R74, R75). -/
def putF (s : State) (d : Reg) (r : FRes) : Eff :=
  onStrand s ({ (s.me.setF r.flags) with seed := r.seed }.xw d.val (wordN r.bits))

/-- FADD (R75). -/
def rawFadd (d a b : Reg) (t : FTy) (sr : Bool) (s : State) : Eff := putF s d (fAdd t.fmt (modeOf sr) s.me.seed (fx s t a) (fx s t b))
def execFadd (d a b : Reg) (t : FTy) (sr : Bool) (s : State) : Host.Outcome State Fault Refusal :=
  lone (.fadd d a b t sr) (rawFadd d a b t sr) s
/-- FMUL (R75). -/
def rawFmul (d a b : Reg) (t : FTy) (sr : Bool) (s : State) : Eff := putF s d (fMul t.fmt (modeOf sr) s.me.seed (fx s t a) (fx s t b))
def execFmul (d a b : Reg) (t : FTy) (sr : Bool) (s : State) : Host.Outcome State Fault Refusal :=
  lone (.fmul d a b t sr) (rawFmul d a b t sr) s
/-- FMA: one rounding (R75). -/
def rawFma (d a b : Reg) (t : FTy) (sr : Bool) (s : State) : Eff := putF s d (fMa t.fmt (modeOf sr) s.me.seed (fx s t a) (fx s t b) (fx s t d))
def execFma (d a b : Reg) (t : FTy) (sr : Bool) (s : State) : Host.Outcome State Fault Refusal :=
  lone (.fma d a b t sr) (rawFma d a b t sr) s

/-- A conversion's result as 64 bits: sign-extended for signed types, zero-extended otherwise (R77). -/
def extended (t : ETy) (bits : Nat) : Word :=
  match t with
  | .int i => BitVec.ofInt 64 (i.read bits)
  | .flt _ => wordN bits

/-- FCVT (R77). -/
def rawFcvt (d a : Reg) (dt st : ETy) (sr : Bool) (s : State) : Eff :=
  let r := convert dt st (modeOf sr) s.me.seed (xa s a % 2 ^ st.bits)
  onStrand s ({ (s.me.setF r.flags) with seed := r.seed }.xw d.val (extended dt r.bits))
def execFcvt (d a : Reg) (dt st : ETy) (sr : Bool) (s : State) : Host.Outcome State Fault Refusal :=
  lone (.fcvt d a dt st sr) (rawFcvt d a dt st sr) s
/-- FCMP (R76). -/
def rawFcmp (d a b : Reg) (t : FTy) (c : FCond) (s : State) : Eff := putBool s d (fCmp t.fmt c (fx s t a) (fx s t b))
def execFcmp (d a b : Reg) (t : FTy) (c : FCond) (s : State) : Host.Outcome State Fault Refusal :=
  lone (.fcmp d a b t c) (rawFcmp d a b t c) s

end Sys2Proof.Machine
end

