-- ==== Sys2Proof/Machine/Access.lean ====
section
/-!
DEFINITION. Accesses of a strand: conversions of scalar loads and stores (Table 5.5, R96), scopes (R193), release records
(R196 to R200), and how an access is issued, performed and answered (R102, R194, R195).
-/
namespace Sys2Proof.Machine

/-! ## Scalar conversions -/

/-- Formats that a scalar load or store may use (Table 5.5). -/
def scalarFormat (f : Nat) : Bool := f ≤ 0x0C
/-- load(p, ea): the register value of stored bits (Table 5.5). -/
def loadVal (f bits : Nat) : Word :=
  match f with
  | 0x01 => BitVec.ofInt 64 (sext bits 8)
  | 0x02 => BitVec.ofInt 64 (sext bits 16)
  | 0x03 => BitVec.ofInt 64 (sext bits 32)
  | 0x0B => wordN (rnd fp16 .rne 0 (e4m3.val bits)).bits
  | 0x0C => wordN (rnd fp16 .rne 0 (e5m2.val bits)).bits
  | _ => wordN bits
/-- store(p, ea, v): the stored bits, STAT's flags and SEED (R96). -/
def storeVal (f : Nat) (v seed : Word) : FRes :=
  let sat (t : ITy) : FRes := { bits := wrap (clamp t.lo t.hi (if t.signed then v.toInt else (v.toNat : Int))) t.bits, seed := seed }
  let f8 (g : Fmt) : FRes :=
    let r := rnd g .rne seed (fp16.val (v.toNat % 65536))
    { bits := r.bits, flags := { of := r.ovf, nx := r.inexact }, seed := r.seed }
  match f with
  | 0x01 => sat .i8 | 0x02 => sat .i16 | 0x03 => sat .i32
  | 0x05 => sat .n8 | 0x06 => sat .n16 | 0x07 => sat .n32
  | 0x08 => { bits := v.toNat % 2 ^ 32, seed := seed }
  | 0x09 | 0x0A => { bits := v.toNat % 65536, seed := seed }
  | 0x0B => f8 e4m3 | 0x0C => f8 e5m2
  | _ => { bits := v.toNat, seed := seed }

/-! ## Scopes and release records -/

/-- Whether an agent of core q (strand u) lies in inst(P, s) of an agent of core p (strand t) (Table 9.1). -/
def inScope (p t q u : Nat) : Scope → Bool
  | .strand => p == q && t == u
  | .core => p == q
  | .cluster => clusterOf p == clusterOf q
  | .die => dieOf p == dieOf q
  | .package => true
  | .system => true
def overlaps (a b : List Nat) : Bool := a.any b.contains

/-- Traffic between core c and the bytes passes no edge of a fenced rectangle (R301). -/
def State.edgeOpen (s : State) (c : Nat) (bytes : List Nat) : Bool :=
  s.rects.all fun e => e.2.state == .fencing
    || bytes.all fun b => e.2.has c == (match tcmCore b with | some q => e.2.has q | none => false)
/-- Whether a record's release synchronises with an acquire of strand (c, t) at scope s' (R198), an armed promotion counted
(R200). -/
def RelRec.syncs (r : RelRec) (c t : Nat) (s' : Scope) (promote : Option Arming) : Bool :=
  let at_ (p : Arming) : Bool := inScope c t r.core r.strand p.scope && inScope r.core r.strand c t p.scope
  let promoted := promote.any (fun p => r.bytes.contains p.word && at_ p) || r.promo.any at_
  (inScope r.core r.strand c t r.scope || promoted) && inScope c t r.core r.strand s'

def FlitState.pending : FlitState → Bool
  | .inFlight => true | .refusedRoom _ => true
  | _ => false
/-- The sender has not heard of the flit's acknowledgement or refusal yet (R52, R279): on its way, or refused and not reported. -/
def FlitState.unsettled : FlitState → Bool
  | .acked => false
  | _ => true
/-- The entry accesses memory or sends to a register (R114, R182). -/
def SeqEntry.accesses (e : SeqEntry) : Bool := e.instr.memPred.isSome || (match e.instr with | .rsendv _ _ _ => true | _ => false)
/-- The entry stands for an access of the strand (R114, R182): it accesses memory, sends to a register, or reads a register that an arrival fills. -/
def Strand.orders (st : Strand) (e : SeqEntry) : Bool := e.accesses || st.observes e
/-- The numbers by which releases name what the strand has not performed yet (R301): its accesses, and the entries in its sequencer or held. -/
def Strand.openIds (st : Strand) : List Nat :=
  ((st.out.filter fun a => !a.performed).flatMap fun a => a.id :: a.ord.toList) ++ (st.seq ++ st.seqHeld).map (·.ord)
/-- Some strand has an access `id` that is not performed yet, or an entry of that number in its sequencer, or a message or register send of that
number is not yet applied: for ordering these are stores (R182). -/
def State.unperformed (s : State) (id : Nat) : Bool :=
  (s.cores.any fun k => k.2.part.strands.any fun e =>
      (e.2.out.any fun a => (a.id == id || a.ord == some id) && !a.performed) || (e.2.seq ++ e.2.seqHeld).any fun q => q.ord == id)
    || s.flits.any fun f => (f.id == id || f.ord == some id) && f.state.pending
/-- Every access that the synchronising records wait for is performed. -/
def State.settled (s : State) (l : List RelRec) (c t : Nat) (s' : Scope) (promote : Option Arming) : Bool :=
  l.all fun r => !r.syncs c t s' promote || r.pending.all fun id => !s.unperformed id
/-- A synchronising record names accesses of a fenced agent that will never be performed (R301). -/
def State.lostIn (s : State) (l : List RelRec) (c t : Nat) (s' : Scope) (promote : Option Arming) : Bool :=
  l.any fun r => r.syncs c t s' promote && r.pending.any s.lost.contains
/-- The records that a load of the bytes reads (R197); a curd cell has none (R207). -/
def State.recordsAt (s : State) (bytes : List Nat) : List RelRec := s.records.filter fun r => !r.cell && !r.via && overlaps r.bytes bytes
/-- The records that the copy commands which have arrived at a completion word have read (R236). -/
def State.viaRecords (s : State) (bytes : List Nat) : List RelRec := s.records.filter fun r => r.via && r.bytes == bytes
/-- The additions that a cell's value includes (R210). -/
def State.cellRecords (s : State) (bytes : List Nat) : List RelRec := s.records.filter fun r => r.cell && r.bytes == bytes

/-- The copy engine or the Churn, at work for strand (c, t), has read the bytes: a FENCE of kind ENG of the strand acquires from their
releases (R199). -/
def State.engineReads (s : State) (c t : Nat) (bytes : List Nat) : State :=
  match s.recordsAt bytes with
  | [] => s
  | l =>
    let st := s.strand c t
    s.setStrand c t { st with engRecs := st.engRecs ++ l }

/-- What a store to `bytes` leaves of a release's record (R197): an atomic's write to exactly its bytes continues its sequence, any other store
ends it, and the bytes that still stand can be read from it (R198). A completion word's record of copies goes with the word (R236). A cell's
additions are ended by no such store (R207), but a cell all of whose bytes are 0, as `zero` says, includes none (R210). -/
def RelRec.after (r : RelRec) (bytes : List Nat) (atomic zero : Bool) : Option RelRec :=
  if r.cell then (if overlaps r.bytes bytes && zero then none else some r)
  else if atomic && r.open_ && r.bytes == bytes then some r
  else if r.via then (if overlaps r.bytes bytes then none else some r)
  else r.without bytes
/-- Stores `v` at the bytes (R194); the releases `rel` head sequences of their own (R197). -/
def State.storeAt (s : State) (bytes : List Nat) (v : Nat) (atomic : Bool) (rel : List RelRec) (who : Storer) : State :=
  let s1 := (s.logCode bytes who).writeB bytes v
  { s1 with records := (s.records.filterMap fun r => r.after bytes atomic (s1.readB r.bytes == 0)) ++ rel }
/-- The record of a store by strand (c, t) that a FENCE made a release (R196). -/
def fenceRel (f : Option FenceRec) (c t : Nat) (bytes : List Nat) : List RelRec :=
  match f with
  | some f => [{ bytes := bytes, core := c, strand := t, scope := f.scope, pending := f.pending, known := f.known }]
  | none => []
/-- The bytes of an access's separate stores, of the lengths `parts`; all of them where none is given. -/
def splitBytes : List Nat → List Nat → List (List Nat)
  | [], l => if l.isEmpty then [] else [l]
  | n :: ns, l => l.take n :: splitBytes ns (l.drop n)
/-- The records of stores by strand (c, t), one after another, that a FENCE made releases: each store heads a sequence of its own (R196, R197). -/
def fenceRels (f : Option FenceRec) (c t : Nat) (stores : List (List Nat)) : List RelRec :=
  stores.foldl (fun l b => (l.filterMap (·.without b)) ++ fenceRel f c t b) []

/-! ## Issue -/

def AccOp.isLoad : AccOp → Bool
  | .load => true
  | _ => false
def AccOp.isStore : AccOp → Bool
  | .store => true | .clear => true
  | _ => false
/-- A store of a scalar instruction: one of the 16 that may be outstanding (R102). -/
def Access.scalarStore (a : Access) : Bool := !a.vec && match a.op with | .store => true | _ => false
def AccOp.isAtomic : AccOp → Bool
  | .atomic _ => true
  | _ => false
/-- The access changes data in memory. -/
def AccOp.writes : AccOp → Bool
  | .store => true | .atomic _ => true
  | _ => false
/-- Room for one more access of the kind: 8 loads, 16 stores, 16 atomics (R102, R203). A CLFE stalls nothing and takes none of the places (R101).
DESIGN CHOICE (log 86): the spec does not say whether a vector store counts among the 16 stores; here it does not. -/
def Strand.accRoom (st : Strand) (op : AccOp) : Bool :=
  match op with
  | .load => (st.out.filter fun a => a.op.isLoad).length < 8
  | .atomic _ => (st.out.filter fun a => a.op.isAtomic).length < 16
  | .store => (st.out.filter Access.scalarStore).length < 16
  | .clear => true
/-- An earlier access of the strand to some of the bytes is not performed yet (R102). -/
def Strand.holdsBytes (st : Strand) (bytes : List Nat) : Bool := st.out.any fun a => !a.performed && overlaps a.bytes bytes
/-- What happens before the acting strand's next release: what it has acquired, and its own accesses so far (R198). -/
def State.knownNow (s : State) : Known := s.me.known.join [(agentOf s.curCore s.curStrand, s.nextId)]
/-- Identifiers of the acting strand's accesses and sends that are not performed yet, those that stand in its sequencer among them: what a
release covers (R196, R182). -/
def State.coverIds (s : State) : List Nat :=
  ((s.me.out.filter fun a => !a.performed).map (·.id)) ++ ((s.me.seq.filter s.me.orders).map (·.ord)).eraseDups
    ++ (s.flits.filter fun f => f.src == s.curCore && f.strand == s.curStrand && f.state.pending).map (·.id)

/-- Where a virtual byte of core c's context lies, whatever the rights: by the TLB of the kind, else by the pages of the context's address space. -/
def State.vaPlace (s : State) (c : Nat) (kind : TlbKind) (asid : BitVec 16) (va : Nat) : Option Nat :=
  match s.mapped c kind asid va with
  | some pa => some pa
  | none => ((Tab.get {} (s.core c).part.ctx s.ctxs).pages.find? fun e => e.matches asid va).map fun e =>
      e.pa / pageBytes e.size * pageBytes e.size + va % pageBytes e.size
/-- The physical bytes of a contiguous span in a mode, those that have a place. DESIGN CHOICE (log 73): a mode-G byte of a page that neither the
TLB nor the context's pages know is taken to be disjoint from every other access. -/
def State.bytesAt (s : State) (c t : Nat) (m : Mode) (ea n : Nat) : List Nat :=
  match m with
  | .G => ((span ea n).map (· % 2 ^ 54)).filterMap (s.vaPlace c .loadStore (s.strand c t).regs.asid)
  | m => (span ea n).filterMap (s.place c (s.strand c t).stat.sup m)

/-- An uncorrectable error in the words that a load of consecutive bytes from `ea` on returns (R93): EVA is the word's address. -/
def State.badLoad (s : State) (acc : AccKind) (ea : Nat) (bytes : List Nat) : Option FaultInfo :=
  ((span ea bytes.length).zip bytes |>.find? fun e => s.badWords.contains (e.2 / 4)).map fun e =>
    { code := 0x1E, acc := acc.acc, eva := e.1 / 4 * 4 }
/-- The checks of R93 for a scalar access of `n` bytes at `ea`, and an uncorrectable error on what a load returns. -/
def State.accessBytes (s : State) (acc : AccKind) (m : Mode) (ea n align : Nat) (needFE : Bool) : Chk :=
  let st := s.me
  match s.check s.curCore st.stat.sup st.regs.asid .loadStore acc m ea n align needFE with
  | .ok bytes =>
    if acc == .store then .ok bytes
    else
      match s.badLoad acc ea bytes with
      | some f => .fault f
      | none => .ok bytes
  | r => r

/-- Continues with the bytes of a checked access. -/
def onBytes (r : Chk) (k : List Nat → Eff) : Eff :=
  match r with
  | .ok bytes => k bytes
  | .fault f => .trap f
  | .miss va => .miss .loadStore va

/-- The source identifier of an agent of core c (R204): the global core number in [15:3], the agent in [2:0]. -/
def State.sourceId (s : State) (c agent : Nat) : Nat := ((s.core c).part.alias_.getD c) * 8 + agent
/-- The next sequence number of a core's agent, and the state that has drawn it. -/
def State.drawSeq (s : State) (c agent : Nat) : Nat × State :=
  let k := s.core c
  let n := Tab.get 0 agent k.seqNo
  (n.toNat, s.setCore c { k with seqNo := Tab.put agent (n + 1) k.seqNo })

/-- The unit that holds a byte (R202): a TCM by core, a vat slice, an HBM4E stack, LP6, a peer. -/
def unitOf (pa : Nat) : Nat :=
  match region pa with
  | .tcm c _ => c
  | .vat d off => 8192 + d * 8 + off / 0x800000
  | .hbm off => 8224 + off / 0xC00000000
  | .lp6 _ => 8240
  | .peer p _ => 8300 + p
  | .hole => 9000
/-- An atomic that leaves core c: its word lies at another unit, so that it carries a sequence number and falls under that unit's window (R204). -/
def Access.leaves (a : Access) (c : Nat) : Bool := a.op.isAtomic && unitOf (a.bytes.headD 0) != c

/-- The promotion that an acquire of the bytes uses (R200). -/
def Strand.armFor (st : Strand) (bytes : List Nat) : Option Arming := st.promote.filter fun p => bytes.contains p.word
/-- An earlier load of the strand is the one that a FENCE will make the promotion's acquire. -/
def Strand.armTaken (st : Strand) (p : Arming) : Bool :=
  (st.promoteRead && st.promote.any (·.no == p.no)) || st.readRecs.any (fun r => r.promo.any (·.no == p.no)) || st.out.any fun a => a.arm.any (·.no == p.no)
/-- The promotion, of those armed before it, that a load of the bytes uses if a FENCE makes it an acquire: only the first such load does (R196, R200). -/
def Strand.candidate (st : Strand) (arm : Option Arming) (bytes : List Nat) : Option Arming :=
  arm.filter fun p => bytes.contains p.word && !st.armTaken p
/-- A load is the first of the strand that may use the promotion. -/
def Strand.noteArm (st : Strand) (arm : Option Arming) : Strand :=
  { st with promoteRead := st.promoteRead || arm.any fun p => st.promote.any (·.no == p.no) }
/-- A load or an atomic that is no acquire by itself: a FENCE may make it one (R196). -/
def Access.plainRead (a : Access) : Bool := a.acq.isNone && (a.op.isLoad || a.op.isAtomic)

/-- Adds an outstanding access to the acting strand, an atomic that leaves the core with its sequence number (R204), a read with the promotion that
stands armed for it (R200), and makes the registers that it will write busy. -/
def State.addAccess (s : State) (a : Access) (busy : List Nat) : State :=
  let (n, s1) := if a.leaves s.curCore then s.drawSeq s.curCore s.curStrand else (0, s)
  let st1 := busy.foldl (fun st n => st.xbusy n) s1.me
  let arm := if a.acq.isSome then st1.armFor a.bytes else if a.plainRead then st1.candidate st1.promote a.bytes else none
  let st2 := if a.plainRead then st1.noteArm arm else st1
  ({ s1 with nextId := s.nextId + 1 } : State).setMe
    { st2 with out := st2.out ++ [{ a with id := s.nextId, pc := s.me.pc, since := s.time, seq := n, fence := s.me.relFence, known := s.knownNow, arm := arm }] }

/-! ## Performing and answering -/

def Strand.access (st : Strand) (id : Nat) : Option Access := st.out.find? fun a => a.id == id
/-- Replaces the outstanding access of the same identifier. -/
def Strand.putAccess (st : Strand) (a : Access) : Strand := { st with out := st.out.map fun b => if b.id = a.id then a else b }
def Strand.dropAccess (st : Strand) (id : Nat) : Strand := { st with out := st.out.filter fun b => b.id != id }
/-- No earlier access of the strand to overlapping bytes is still to be performed (R195). -/
def Strand.mayPerform (st : Strand) (a : Access) : Bool :=
  !a.performed && (st.out.takeWhile fun b => b.id != a.id).all fun b => b.performed || !overlaps b.bytes a.bytes

/-- The release records that an access's store leaves at its bytes: its own and that of a fence before it. -/
def Access.relRecs (a : Access) (c t : Nat) : List RelRec :=
  (match a.rel with
    | some sc => [{ bytes := a.bytes, core := c, strand := t, scope := sc, pending := a.covers, known := a.known,
                    cell := (match a.op with | .atomic (.accf _ _ _ _ _) => true | _ => false) }]
    | none => []) ++ fenceRels a.fence c t (splitBytes a.parts a.bytes)

/-- An access takes its place in the total order (R194): a load reads, a store writes, a clearing empties its words. DEDUCED (log 10): R92 lets the
parts of a mode-C access wider than 4 bytes, and the halves of an LDP or STP in LP6 and at peers, be seen apart, and R101 lets a CLFE clear its
range in parts; the model performs each of them in one step. -/
def State.performAccess (s : State) (c t : Nat) (a : Access) : State :=
  let st := s.strand c t
  match a.op with
  | .load =>
    (s.setStrand c t (st.putAccess { a with performed := true, result := s.readB a.bytes, records := s.recordsAt a.bytes })).moved c a.bytes
  | .store =>
    let s1 := s.storeAt a.bytes a.data false (a.relRecs c t) { agent := agentOf c t, id := a.id }
    let s2 := if a.setFull then s1.setFullB a.bytes else s1
    (s2.setStrand c t (st.dropAccess a.id)).moved c a.bytes
  | .clear => (s.setEmptyB a.bytes).setStrand c t (st.dropAccess a.id)
  | .atomic _ => s

/-- The pointer mark of a loaded value (R71): an 8-byte load marks by its bits [63:58]. -/
def markOf (size : Nat) (v : Word) : Bool := size == 8 && loadMark v
/-- The kind of a taint follows the mark that the load set (R239). -/
def Taint.withKind (t : Taint) (mark : Bool) : Taint :=
  match t with
  | .linear i sh off _ => .linear i sh off mark
  | t => t
/-- Writes a loaded value to its place in the X file. -/
def Strand.landLoad (st : Strand) (d : Option Nat) (f size : Nat) (bits : Nat) (ta : Taint) : Strand :=
  let v := loadVal f bits
  let m := markOf size v
  st.xputAt d { val := v, mark := m, taint := ta.withKind m }

/-- STAT's flags that a CELLRD's result carries in bits [67:64] (R209). -/
def cellFlags (r : Nat) : FFlags :=
  { nv := r / 2 ^ 64 % 2 == 1, of := r / 2 ^ 65 % 2 == 1, nx := r / 2 ^ 66 % 2 == 1 }
/-- What a reply writes: M0 to M7, an atomic's result, or loaded values (R102, R201). -/
def Access.land (a : Access) (st : Strand) : Strand :=
  if a.toM then { st with m := BitVec.ofNat 512 a.result }
  else
    match a.op with
    | .atomic _ => (st.xputAt a.dst { val := wordN a.result, taint := a.taint }).setF (cellFlags a.result)
    | _ =>
      let one := st.landLoad a.dst a.fmt a.size (a.result % 2 ^ (8 * a.size)) a.taint
      if a.pair then one.landLoad a.dst2 a.fmt a.size (a.result / 2 ^ (8 * a.size) % 2 ^ (8 * a.size)) a.taint2 else one
/-- The strand has read the records `recs` by an access that uses the promotion `arm` as an acquire (R196, R200). -/
def Strand.readsFrom (st : Strand) (recs : List RelRec) (arm : Option Arming) : Strand :=
  { st with readRecs := st.readRecs ++ recs.map fun r => { r with promo := arm.filter fun p => r.bytes.contains p.word } }
/-- A load of the bytes by the strand, made at once, has read the records; it uses a promotion of those in `arm` as `candidate` says. -/
def Strand.loadsFrom (st : Strand) (bytes : List Nat) (recs : List RelRec) (arm : Option Arming) : Strand :=
  let p := st.candidate arm bytes
  (st.readsFrom recs p).noteArm p
/-- An acquire has used the promotion (R200): the arming ends, and no load before it is its acquire any more. DEDUCED (log 94): whether a FENCE will
make such a load an acquire is not known yet. -/
def Strand.usePromote (st : Strand) (arm : Option Arming) : Strand :=
  match arm with
  | some p =>
    let drop (m : Option Arming) : Option Arming := m.filter fun q => q.no != p.no
    { st with promote := drop st.promote, promoteRead := st.promoteRead && (drop st.promote).isSome
              readRecs := st.readRecs.map fun r => { r with promo := drop r.promo }
              out := st.out.map fun a => { a with arm := drop a.arm } }
  | none => st
/-- An acquire at scope `sc` by strand (c, t) that reads the records `l` has what happens before those that synchronise with it before
it (R198). -/
def Strand.acquire (st : Strand) (c t : Nat) (sc : Scope) (l : List RelRec) (promote : Option Arming) : Strand :=
  { st with known := (l.filter fun r => r.syncs c t sc promote).foldl (fun k r => k.join r.known) st.known }
/-- A reply writes the destination and frees the place (R102); an acquire synchronises (R198), and the promotion that it uses ends (R200). -/
def State.answer (s : State) (c t : Nat) (a : Access) : State :=
  let st := a.land ((s.strand c t).dropAccess a.id)
  let recs := a.records.map fun r => { r with seen := some a.ea }
  s.setStrand c t (match a.acq with
    | some sc => ((st.usePromote a.arm).readsFrom recs a.arm).acquire c t sc a.records a.arm
    | none => st.readsFrom recs a.arm)

end Sys2Proof.Machine
end

