-- ==== Sys2Proof/Machine/ScalarMem.lean ====
section
/-!
DEFINITION. Scalar memory instructions, 0x20 to 0x2A (R95 to R102).
-/
namespace Sys2Proof.Machine

/-- Continues with the format of a scalar pointer, or faults 0x13 (R89, R96); a format fault names no access (log 36). -/
def onFormat (p : Word) (k : Nat → Eff) : Eff := if scalarFormat (fmtof p) then k (fmtof p) else trapCode 0x13

/-- The index group of a gather or scatter is available to the sequencer (R115): its registers are full, and nothing earlier in the
sequencer (`before`; in a loop its whole body, for every pass that is left) still writes one of them. -/
def State.indexReady (s : State) (c t : Nat) (before : List SeqEntry) (e : SeqEntry) (b : Reg) : Bool :=
  let st := s.strand c t
  let work := if e.inLoop then before ++ st.seq.filter (·.inLoop) else before
  (st.passes e).all fun x =>
    (span b.val (groupRegs st.nlanes 32 e.pcount)).all fun n =>
      let p := physOff x.1 x.2 n
      (st.vreg p).full && !work.any (st.entryTouches false p) && !s.vregAwaited c t p
/-- Element addresses and bytes of a gather or scatter in its k-th pass, from the index group at operand `b`. -/
def Strand.gatherEas (st : Strand) (e : SeqEntry) (b : Reg) (es k : Nat) : List (Nat × Nat) :=
  let x := match e.inLoop, st.loop with
    | true, some l => if l.rep then (l.rbase, k * l.step) else ((l.rbase + (k - l.iter) * l.step) % 16, 0)
    | _, _ => (e.rbase, 0)
  (span 0 e.pcount).map fun i =>
    ((((vaof e.xa.ptr : Nat) : Int) + sext (vget (st.fileOf e) st.nlanes x.1 x.2 b.val 32 i) 32) % (2 ^ 54 : Nat) |>.toNat, es)
/-- The bytes of a vector memory entry of strand (c, t)'s sequencer in its k-th pass, behind the entries `before`; none while its addresses
are not formed (R115). -/
def State.entryEas (s : State) (c t : Nat) (before : List SeqEntry) (e : SeqEntry) (k : Nat) : Option (List (Nat × Nat)) :=
  let st := s.strand c t
  let p := e.xa.ptr
  let f := fmtof p
  let es := if f = 0 then e.pwidth / 8 else accsize f
  let base := vaof p
  let blocked := (0x10 ≤ f && f ≤ 0x15) || f == 0x19
  let blk := if f = 0x19 then 2 ^ blkof p + 1 else match f with | 0x12 => 25 | 0x13 => 25 | 0x14 => 17 | _ => 33
  match e.instr with
  | .vld _ _ _ _ | .vst _ _ _ _ | .vldsy _ _ _ _ =>
    let be := if f = 0x19 then 2 ^ blkof p else 32
    if blocked then
      let n := (e.pcount + be - 1) / be * blk
      some [(base + k * n, n)]
    else some [(base + k * (e.pcount * es), e.pcount * es)]
  | .vlds _ _ _ _ _ | .vsts _ _ _ _ _ =>
    let stride := e.xb.val.toInt
    some ((span 0 e.pcount).map fun i => ((((base : Nat) : Int) + ((i : Nat) + k * e.pcount : Int) * stride) % (2 ^ 54 : Nat) |>.toNat, es))
  | .vldg _ _ b _ _ | .vstg _ _ b _ _ => if s.indexReady c t before e b then some (st.gatherEas e b es k) else none
  | .vldb _ _ _ _ => some [(base, if blocked then blk else es)]
  | _ => some []
/-- The mode of a vector memory word. -/
def memMode : Instr → Option Mode
  | .vld _ _ _ m | .vst _ _ _ m | .vldb _ _ _ m | .vldsy _ _ _ m => some m
  | .vlds _ _ _ _ m | .vldg _ _ _ _ m | .vsts _ _ _ _ m | .vstg _ _ _ _ m => some m
  | _ => none
/-- A vector memory entry behind the entries `before` may still touch one of the bytes: its addresses are not formed, or they meet
(R115). -/
def State.entryMeets (s : State) (c t : Nat) (before : List SeqEntry) (e : SeqEntry) (bytes : List Nat) : Bool :=
  match memMode e.instr with
  | none => false
  | some m =>
    let st := s.strand c t
    let turns := match e.inLoop, st.loop with
      | true, some l => span l.iter (l.count - l.iter)
      | _, _ => [0]
    turns.any fun k =>
      match s.entryEas c t before e k with
      | none => true
      | some l => l.any fun x => overlaps (s.bytesAt c t m x.1 x.2) bytes
/-- One of the entries that `sel` names may still touch one of the bytes. -/
def State.entriesMeet (s : State) (c t : Nat) (es : List SeqEntry) (sel : SeqEntry → Bool) (bytes : List Nat) : Bool :=
  (List.range es.length).any fun n =>
    match es[n]? with
    | some e => sel e && s.entryMeets c t (es.take n) e bytes
    | none => false
/-- An earlier vector memory entry of the acting strand overlaps the bytes (R102, R115). -/
def State.vecMeets (s : State) (bytes : List Nat) : Bool := s.entriesMeet s.curCore s.curStrand s.me.seq (fun _ => true) bytes
/-- An earlier vector memory entry of the acting strand has not performed its access (R98, R115). -/
def Strand.vecMem (st : Strand) : Bool := (st.seq.any fun e => (memMode e.instr).isSome) || st.out.any fun a => a.vec && !a.performed

/-- The taint of a load through Xb (R239): from the argument block, or mixed of the base's. -/
def Strand.ldTaint (st : Strand) (b : Reg) (m : Mode) (ea size : Nat) : Taint :=
  match loadTaint st.regs.argbase.toNat m ea size with
  | .none => mixedOf (st.xreg b.val).taint.mask
  | t => t
/-- A scalar load: checked, then outstanding until its reply (R96, R102). -/
def loadOp (d b : Reg) (m : Mode) (off : BitVec 11) (acq : Option Scope) (s : State) : Eff :=
  let st := s.me
  let p := st.xptr b.val
  onFormat p fun f =>
    let size := accsize f
    let ea := gEa p off size
    onBytes (s.accessBytes .load m ea size size false) fun bytes =>
      if !st.accRoom .load || s.vecMeets bytes then .wait
      else
        .done (s.addAccess { id := 0, op := .load, bytes := bytes, fmt := f, size := size, dst := st.xplace d.val, acq := acq, taint := st.ldTaint b m ea size, ea := ea } [d.val])
/-- An access that changes full/empty bits in mode C and is wider than 4 bytes raises 0x10 in the place of the alignment check (R93, R96). -/
def Chk.wideInC (r : Chk) (fe : Bool) (m : Mode) (size : Nat) (acc : AccKind) (ea : Nat) : Chk :=
  if fe && m == .C && 4 < size then
    match r with
    | .fault f => if f.code = 0x15 ∨ f.code = 0x16 then r else .fault { code := 0x10, acc := acc.acc, eva := ea }
    | _ => .fault { code := 0x10, acc := acc.acc, eva := ea }
  else r
/-- A scalar store: checked, then outstanding until it is performed (R96, R102). -/
def storeOp (d b : Reg) (m : Mode) (off : BitVec 11) (fe : Bool) (rel : Option Scope) (s : State) : Eff :=
  let st := s.me
  let p := st.xptr b.val
  onFormat p fun f =>
    let size := accsize f
    let ea := gEa p off size
    onBytes ((s.accessBytes .store m ea size size fe).wideInC fe m size .store ea) fun bytes =>
      if !st.accRoom .store || s.vecMeets bytes || (rel.isSome && st.vecMem) then .wait
      else
        let r := storeVal f (st.xr d.val) st.seed
        let s1 := s.setMe { (st.setF r.flags) with seed := r.seed }
        .done (s1.addAccess { id := 0, op := .store, bytes := bytes, data := r.bits, fmt := f, size := size, setFull := fe, rel := rel, covers := s.coverIds, ea := ea } [])

/-- LD: relaxed load (Table 5.8). -/
def rawLd (d b : Reg) (m : Mode) (off : BitVec 11) (s : State) : Eff := loadOp d b m off none s
def execLd (d b : Reg) (m : Mode) (off : BitVec 11) (s : State) : Host.Outcome State Fault Refusal :=
  lone (.ld d b m off) (rawLd d b m off) s

/-- The words (by number) that cover the bytes. -/
def wordsOf (bytes : List Nat) : List Nat := (bytes.map (· / 4)).eraseDups
/-- Every word is full. -/
def State.allFull (s : State) (words : List Nat) : Bool := words.all fun n => !s.empties.contains n
/-- LDS and LDE once the covering words are full: the load, and under LDE the words become empty, in one step (R96). -/
def fullLoad (d : Reg) (f size : Nat) (ta : Taint) (bytes : List Nat) (empty : Bool) (s : State) : State :=
  let st := s.me
  let st1 := st.landLoad (st.xplace d.val) f size (s.readB bytes) ta
  let s1 := (s.setMe (st1.loadsFrom bytes (s.recordsAt bytes) st.promote)).moved s.curCore bytes
  if empty then s1.setEmptyB bytes else s1
/-- LDS and LDE (R96, R97): they sleep until every covering word is full; an uncorrectable error is met at the load (R93). -/
def waitLoad (d b : Reg) (m : Mode) (off : BitVec 11) (empty : Bool) (s : State) : Eff :=
  let st := s.me
  let p := st.xptr b.val
  onFormat p fun f =>
    let size := accsize f
    let ea := gEa p off size
    let acc : AccKind := if empty then .loadEmpty else .load
    onBytes ((s.check s.curCore st.stat.sup st.regs.asid .loadStore acc m ea size size true).wideInC empty m size acc ea) fun bytes =>
      if !st.accRoom .load || st.holdsBytes bytes || s.vecMeets bytes then .wait
      else if s.allFull (wordsOf bytes) then
        match s.badLoad acc ea bytes with
        | some f => .trap f
        | none => .done (fullLoad d f size (st.ldTaint b m ea size) bytes empty s)
      else .sleep .full (wordsOf bytes) s
/-- The scope that a code of MSCOPE names (R95). -/
def scopeOf (n : BitVec 3) : Scope := (Scope.of n.toNat).getD .system

/-- LDS: sleeps until every covering word is full (Table 5.8). -/
def rawLds (d b : Reg) (m : Mode) (off : BitVec 11) (s : State) : Eff := waitLoad d b m off false s
def execLds (d b : Reg) (m : Mode) (off : BitVec 11) (s : State) : Host.Outcome State Fault Refusal :=
  lone (.lds d b m off) (rawLds d b m off) s
/-- LDA: an acquire at scope MSCOPE.LDASC (Table 5.8, R98). -/
def rawLda (d b : Reg) (m : Mode) (off : BitVec 11) (s : State) : Eff := loadOp d b m off (some (scopeOf s.me.regs.ldasc)) s
def execLda (d b : Reg) (m : Mode) (off : BitVec 11) (s : State) : Host.Outcome State Fault Refusal :=
  lone (.lda d b m off) (rawLda d b m off) s
/-- LDE: sleeps until every covering word is full, then reads and marks them empty (Table 5.8). -/
def rawLde (d b : Reg) (m : Mode) (off : BitVec 11) (s : State) : Eff := waitLoad d b m off true s
def execLde (d b : Reg) (m : Mode) (off : BitVec 11) (s : State) : Host.Outcome State Fault Refusal :=
  lone (.lde d b m off) (rawLde d b m off) s
/-- ST: relaxed store (Table 5.8). -/
def rawSt (d b : Reg) (m : Mode) (off : BitVec 11) (s : State) : Eff := storeOp d b m off false none s
def execSt (d b : Reg) (m : Mode) (off : BitVec 11) (s : State) : Host.Outcome State Fault Refusal :=
  lone (.st d b m off) (rawSt d b m off) s
/-- STF: stores and marks every covering word full (Table 5.8). -/
def rawStf (d b : Reg) (m : Mode) (off : BitVec 11) (s : State) : Eff := storeOp d b m off true none s
def execStf (d b : Reg) (m : Mode) (off : BitVec 11) (s : State) : Host.Outcome State Fault Refusal :=
  lone (.stf d b m off) (rawStf d b m off) s
/-- STL: a release at scope MSCOPE.STLSC (Table 5.8, R98). -/
def rawStl (d b : Reg) (m : Mode) (off : BitVec 11) (s : State) : Eff := storeOp d b m off false (some (scopeOf s.me.regs.stlsc)) s
def execStl (d b : Reg) (m : Mode) (off : BitVec 11) (s : State) : Host.Outcome State Fault Refusal :=
  lone (.stl d b m off) (rawStl d b m off) s
/-- LDP: two loads of one element each (Table 5.8). -/
def rawLdp (d b : Reg) (m : Mode) (off : BitVec 11) (s : State) : Eff :=
  let st := s.me
  let p := st.xptr b.val
  onFormat p fun f =>
    let size := accsize f
    let ea := gEa p off (2 * size)
    onBytes (s.accessBytes .load m ea (2 * size) (2 * size) false) fun bytes =>
      if !st.accRoom .load || s.vecMeets bytes then .wait
      else
        .done (s.addAccess { id := 0, op := .load, bytes := bytes, fmt := f, size := size, dst := st.xplace d.val, dst2 := st.xplace (d.val + 1), pair := true, taint := st.ldTaint b m ea size, taint2 := st.ldTaint b m (ea + size) size, ea := ea } [d.val, d.val + 1])
def execLdp (d b : Reg) (m : Mode) (off : BitVec 11) (s : State) : Host.Outcome State Fault Refusal :=
  lone (.ldp d b m off) (rawLdp d b m off) s
/-- STP: two stores of one element each (Table 5.8). -/
def rawStp (d b : Reg) (m : Mode) (off : BitVec 11) (s : State) : Eff :=
  let st := s.me
  let p := st.xptr b.val
  onFormat p fun f =>
    let size := accsize f
    let ea := gEa p off (2 * size)
    onBytes (s.accessBytes .store m ea (2 * size) (2 * size) false) fun bytes =>
      if !st.accRoom .store || s.vecMeets bytes then .wait
      else
        let r := storeVal f (st.xr d.val) st.seed
        let r2 := storeVal f (st.xr (d.val + 1)) r.seed
        let s1 := s.setMe { (st.setF (r.flags.or r2.flags)) with seed := r2.seed }
        .done (s1.addAccess { id := 0, op := .store, bytes := bytes, data := r.bits + 2 ^ (8 * size) * r2.bits, fmt := f, size := size, parts := [size, size], covers := s.coverIds, ea := ea } [])
def execStp (d b : Reg) (m : Mode) (off : BitVec 11) (s : State) : Host.Outcome State Fault Refusal :=
  lone (.stp d b m off) (rawStp d b m off) s
/-- PFCH (R100): a mode-G address without a translation asks for one; nothing waits for it, and no fault arises. -/
def rawPfch (b : Reg) (m : Mode) (off : BitVec 11) (s : State) : Eff :=
  let st := s.me
  let p := st.xptr b.val
  let ea := gEa p off (accsize (fmtof p))
  match m with
  | .G =>
    match s.translate s.curCore .loadStore st.regs.asid .prefetch ea with
    | .miss va => .done (s.walk { who := .prefetch, kind := .loadStore, core := s.curCore, strand := s.curStrand, va := va, asid := st.regs.asid })
    | _ => .done s
  | _ => .done s
def execPfch (b : Reg) (m : Mode) (off : BitVec 11) (s : State) : Host.Outcome State Fault Refusal :=
  lone (.pfch b m off) (rawPfch b m off) s

/-- A range lies within one vat window. -/
def oneVat (bytes : List Nat) : Bool :=
  match bytes with
  | [] => true
  | a :: l => 0x40000000 ≤ a && l.all fun b => 0x40000000 ≤ b && (b - 0x40000000) / 0x4000000 == (a - 0x40000000) / 0x4000000
def oneTcm (bytes : List Nat) : Bool :=
  match bytes with
  | [] => true
  | a :: l => l.all fun b => b / 0x20000 == a / 0x20000

/-- CLFE (R101): the clearing is an access of the strand to the range; a length of 0 has no effect whatever the pointer. Where part of a
mode-G range has no full/empty bits the model gives 0x14 before the 0x15 of a range in more than one window (DESIGN CHOICE, log 68). -/
def rawClfe (a b : Reg) (m : Mode) (s : State) : Eff :=
  let st := s.me
  let ea := vaof (st.xptr a.val)
  let n := (st.xr b.val).toNat
  if n = 0 then .done s
  else if !scalarFormat (fmtof (st.xptr a.val)) then trapCode 0x13
  else if 0x1000000 < n then .trap { code := 0x15, acc := 2, eva := ea }
  else
    let chk := s.check s.curCore st.stat.sup st.regs.asid .loadStore .store m ea n 4 false
    let early := match chk with | .fault f => f.code == 0x15 || f.code == 0x16 | _ => false
    if n % 4 ≠ 0 && !early then .trap { code := 0x10, acc := 2, eva := ea }
    else onBytes chk fun bytes =>
      if bytes.any fun x => !hasFE x then .trap { code := 0x14, acc := 2, eva := ea }
      else if m == .G && !(oneVat bytes || oneTcm bytes) then .trap { code := 0x15, acc := 2, eva := ea }
      else if s.vecMeets bytes then .wait
      else .done (s.addAccess { id := 0, op := .clear, bytes := bytes, size := n, covers := s.coverIds, ea := ea } [])
def execClfe (a b : Reg) (m : Mode) (s : State) : Host.Outcome State Fault Refusal :=
  lone (.clfe a b m) (rawClfe a b m) s

end Sys2Proof.Machine
end

