-- ==== Sys2Proof/Machine/Sync.lean ====
section
/-!
DEFINITION. Atomics and synchronisation, 0x30 to 0x3F (R199 to R215).
-/
namespace Sys2Proof.Machine

/-! ## Atomics -/

/-- Formats that an atomic takes (R201). -/
def atomicFormat (w : Bool) (f : Nat) : Bool := f == 0 || (w && (f == 3 || f == 7)) || (!w && f == 4)
def acquires : Order → Bool
  | .acq => true | .ar => true | _ => false
def releases : Order → Bool
  | .rel => true | .ar => true | _ => false
/-- An atomic (R201): checked, then outstanding until the unit that holds its word executes it and the reply returns. -/
def atomicOp (i : Instr) (d a b : Reg) (w : Bool) (o : Order) (sc : Scope) (m : Mode) (s : State) : Eff :=
  let st := s.me
  let p := st.xptr a.val
  let f := fmtof p
  let size := if w then 4 else 8
  let ea := vaof p
  if !atomicFormat w f then trapCode 0x13
  else
    let chk := s.accessBytes .atomic m ea size size false
    let early := match chk with | .fault e => e.code == 0x15 || e.code == 0x16 | _ => false
    if m == .C && !w && !early then .trap { code := 0x10, acc := 3, eva := ea }
    else
      onBytes chk fun bytes =>
        if !st.accRoom (.atomic i) || s.vecMeets bytes then .wait
        else
          let y := (st.xr b.val).toNat % 2 ^ (8 * size)
          let cmp := (st.xr d.val).toNat % 2 ^ (8 * size)
          .done (s.addAccess { id := 0, op := .atomic i, bytes := bytes, data := y + 2 ^ 64 * cmp, fmt := f, size := size,
                               dst := st.xplace d.val, acq := if acquires o then some sc else none,
                               rel := if releases o then some sc else none, covers := s.coverIds,
                               taint := st.resultTaint i, ea := ea } [d.val])

/-- AADD (R201, Table 9.6). -/
def rawAadd (d a b : Reg) (w : Bool) (o : Order) (sc : Scope) (m : Mode) (s : State) : Eff := atomicOp (.aadd d a b w o sc m) d a b w o sc m s
def execAadd (d a b : Reg) (w : Bool) (o : Order) (sc : Scope) (m : Mode) (s : State) : Host.Outcome State Fault Refusal :=
  lone (.aadd d a b w o sc m) (rawAadd d a b w o sc m) s
/-- AAND (R201, Table 9.6). -/
def rawAand (d a b : Reg) (w : Bool) (o : Order) (sc : Scope) (m : Mode) (s : State) : Eff := atomicOp (.aand d a b w o sc m) d a b w o sc m s
def execAand (d a b : Reg) (w : Bool) (o : Order) (sc : Scope) (m : Mode) (s : State) : Host.Outcome State Fault Refusal :=
  lone (.aand d a b w o sc m) (rawAand d a b w o sc m) s
/-- AOR (R201, Table 9.6). -/
def rawAor (d a b : Reg) (w : Bool) (o : Order) (sc : Scope) (m : Mode) (s : State) : Eff := atomicOp (.aor d a b w o sc m) d a b w o sc m s
def execAor (d a b : Reg) (w : Bool) (o : Order) (sc : Scope) (m : Mode) (s : State) : Host.Outcome State Fault Refusal :=
  lone (.aor d a b w o sc m) (rawAor d a b w o sc m) s
/-- AXOR (R201, Table 9.6). -/
def rawAxor (d a b : Reg) (w : Bool) (o : Order) (sc : Scope) (m : Mode) (s : State) : Eff := atomicOp (.axor d a b w o sc m) d a b w o sc m s
def execAxor (d a b : Reg) (w : Bool) (o : Order) (sc : Scope) (m : Mode) (s : State) : Host.Outcome State Fault Refusal :=
  lone (.axor d a b w o sc m) (rawAxor d a b w o sc m) s
/-- AMIN (R201, Table 9.6). -/
def rawAmin (d a b : Reg) (w : Bool) (o : Order) (sc : Scope) (m : Mode) (s : State) : Eff := atomicOp (.amin d a b w o sc m) d a b w o sc m s
def execAmin (d a b : Reg) (w : Bool) (o : Order) (sc : Scope) (m : Mode) (s : State) : Host.Outcome State Fault Refusal :=
  lone (.amin d a b w o sc m) (rawAmin d a b w o sc m) s
/-- AMAX (R201, Table 9.6). -/
def rawAmax (d a b : Reg) (w : Bool) (o : Order) (sc : Scope) (m : Mode) (s : State) : Eff := atomicOp (.amax d a b w o sc m) d a b w o sc m s
def execAmax (d a b : Reg) (w : Bool) (o : Order) (sc : Scope) (m : Mode) (s : State) : Host.Outcome State Fault Refusal :=
  lone (.amax d a b w o sc m) (rawAmax d a b w o sc m) s
/-- ASWP (R201, Table 9.6). -/
def rawAswp (d a b : Reg) (w : Bool) (o : Order) (sc : Scope) (m : Mode) (s : State) : Eff := atomicOp (.aswp d a b w o sc m) d a b w o sc m s
def execAswp (d a b : Reg) (w : Bool) (o : Order) (sc : Scope) (m : Mode) (s : State) : Host.Outcome State Fault Refusal :=
  lone (.aswp d a b w o sc m) (rawAswp d a b w o sc m) s
/-- ACAS (R201, Table 9.6). -/
def rawAcas (d a b : Reg) (w : Bool) (o : Order) (sc : Scope) (m : Mode) (s : State) : Eff := atomicOp (.acas d a b w o sc m) d a b w o sc m s
def execAcas (d a b : Reg) (w : Bool) (o : Order) (sc : Scope) (m : Mode) (s : State) : Host.Outcome State Fault Refusal :=
  lone (.acas d a b w o sc m) (rawAcas d a b w o sc m) s

/-- The new value of an atomic and whether it stores, from the old value, the operand and the compare value (Table 9.6). -/
def atomicNew (i : Instr) (n : Nat) (unsigned : Bool) (old y cmp : Nat) : Nat × Bool :=
  let lt (x z : Nat) : Bool := if unsigned then x < z else decide (sext x n < sext z n)
  match i with
  | .aadd _ _ _ _ _ _ _ => ((old + y) % 2 ^ n, true)
  | .aand _ _ _ _ _ _ _ => (old &&& y, true)
  | .aor _ _ _ _ _ _ _ => (old ||| y, true)
  | .axor _ _ _ _ _ _ _ => (old ^^^ y, true)
  | .amin _ _ _ _ _ _ _ => (if lt y old then y else old, true)
  | .amax _ _ _ _ _ _ _ => (if lt old y then y else old, true)
  | .aswp _ _ _ _ _ _ _ => (y, true)
  | .acas _ _ _ _ _ _ _ => (y, old == cmp)
  | _ => (old, false)

/-! ## Curd cells -/

/-- SUM, COUNT and the flags of a cell (Table 9.8). -/
def cellSum (v : Nat) : Int := sext v 320
def cellCount (v : Nat) : Nat := v / 2 ^ 320 % 2 ^ 32
def cellFlag (v k : Nat) : Bool := v / 2 ^ k % 2 == 1
def orBit (v k : Nat) (b : Bool) : Nat := if b && !cellFlag v k then v + 2 ^ k else v
/-- An ACCF applied to a cell's 512 bits (R208). -/
def accumulate (cell : Nat) (x : FVal) : Nat :=
  let top : Int := (2 ^ 319 : Nat)
  let put (k : Int) : Nat := cell / 2 ^ 320 * 2 ^ 320 + wrap k 320
  let c1 := match x with
    | .nan => orBit cell 352 true
    | .inf false => orBit cell 353 true
    | .inf true => orBit cell 354 true
    | .num neg mag e =>
      let k := scaled neg mag e (-149)
      let t := cellSum cell + k
      if top - 1 < t then orBit (put (top - 1)) 355 true
      else if t < -top then orBit (put (-top)) 355 true
      else put t
  if cellCount c1 = 2 ^ 32 - 1 then orBit c1 356 true else c1 + 2 ^ 320
/-- CELLRD's result with its flags in bits [66:64] (R209). -/
def cellValue (cell : Nat) (t : FTy) : Nat :=
  let f := t.fmt
  if cellFlag cell 352 || (cellFlag cell 353 && cellFlag cell 354) then
    f.nan + (if cellFlag cell 352 then 0 else 2 ^ 64)
  else if cellFlag cell 353 then f.infBits false
  else if cellFlag cell 354 then f.infBits true
  else
    let r := rnd f .rne 0 (FVal.ofInt (cellSum cell) (-149))
    r.bits + (if r.ovf then 2 ^ 65 else 0) + (if r.ovf || r.inexact then 2 ^ 66 else 0)
/-- The checks of ACCF and CELLRD (R208, R209): alignment to 64, then a cell outside a vat faults 0x17; then an uncorrectable error (R93). -/
def cellBytes (m : Mode) (ea : Nat) (s : State) : Chk :=
  match s.check s.curCore s.me.stat.sup s.me.regs.asid .loadStore .atomic m ea 64 64 false with
  | .ok bytes =>
    match region (bytes.headD 0) with
    | .vat _ _ =>
      match s.badLoad .atomic ea bytes with
      | some f => .fault f
      | none => .ok bytes
    | _ => .fault { code := 0x17, acc := 3, eva := ea }
  | r => r

/-- ACCF: a release at its scope; the strand does not wait (R208, R210). -/
def rawAccf (a b : Reg) (f : FTy) (sc : Scope) (m : Mode) (s : State) : Eff :=
  let st := s.me
  let ea := vaof (st.xptr a.val)
  onBytes (cellBytes m ea s) fun bytes =>
    if !st.accRoom (.atomic .nop) || s.vecMeets bytes then .wait
    else
      .done (s.addAccess { id := 0, op := .atomic (.accf a b f sc m), bytes := bytes, data := (st.xr b.val).toNat % 2 ^ f.width,
                           size := 64, rel := some sc, covers := s.coverIds, ea := ea } [])
def execAccf (a b : Reg) (f : FTy) (sc : Scope) (m : Mode) (s : State) : Host.Outcome State Fault Refusal :=
  lone (.accf a b f sc m) (rawAccf a b f sc m) s
/-- CELLRD: an acquire at its scope (R209, R210). -/
def rawCellrd (d a : Reg) (clr : Bool) (f : FTy) (sc : Scope) (m : Mode) (s : State) : Eff :=
  let st := s.me
  let ea := vaof (st.xptr a.val)
  onBytes (cellBytes m ea s) fun bytes =>
    if !st.accRoom (.atomic .nop) || s.vecMeets bytes then .wait
    else
      .done (s.addAccess { id := 0, op := .atomic (.cellrd d a clr f sc m), bytes := bytes, size := 64, dst := st.xplace d.val,
                           acq := some sc, covers := s.coverIds, taint := st.resultTaint (.cellrd d a clr f sc m), ea := ea } [d.val])
def execCellrd (d a : Reg) (clr : Bool) (f : FTy) (sc : Scope) (m : Mode) (s : State) : Host.Outcome State Fault Refusal :=
  lone (.cellrd d a clr f sc m) (rawCellrd d a clr f sc m) s

/-- The result that a unit keeps for a source's request, if it lies in the window of 64 (R204). -/
def State.windowHit (s : State) (unit src seq : Nat) : Option Nat :=
  (s.windows.find? fun w => w.unit == unit && w.src == src && w.seq == seq).map fun w => w.result.toNat
/-- An effect that core c has forwarded to another unit is counted (R206): one that a window suppresses too, one that is resent only once. DESIGN
CHOICE (log 87): the spec does not say whether a plain store, which the router forwards too, is one of the forwarded effects of which more than 64
stop a re-run; here only what carries a sequence number is, since only such an effect lies in a window. -/
def State.countEffect (s : State) (c unit : Nat) (resent : Bool) : State :=
  let k := s.core c
  if unit = c || resent then s else s.setCore c { k with effects := Tab.put unit (Tab.get 0 unit k.effects + 1) k.effects }
/-- Records a result, keeping the last 64 of the source at the unit (R204). -/
def State.windowPut (s : State) (unit src seq result : Nat) : State :=
  let mine := s.windows.filter fun w => w.unit == unit && w.src == src
  let rest := s.windows.filter fun w => !(w.unit == unit && w.src == src)
  let new : WindowEntry := { unit := unit, src := src, seq := seq, result := BitVec.ofNat 512 result }
  { s with windows := rest ++ (if mine.length < 64 then mine else mine.drop (mine.length - 63)) ++ [new] }
/-- What an atomic's execution at its unit gives: new bytes if it stores, and the result (R201, R208, R209). -/
def atomicEffect (a : Access) (i : Instr) (old : Nat) : Option Nat × Nat :=
  match i with
  | .accf _ _ f _ _ => (some (accumulate old (f.fmt.val a.data)), 0)
  | .cellrd _ _ clr f _ _ => (if clr then some 0 else none, cellValue old f)
  | i =>
    let n := 8 * a.size
    let r := atomicNew i n (a.fmt == 7) old (a.data % 2 ^ 64) (a.data / 2 ^ 64)
    let res := if a.size = 4 && a.fmt != 7 then (BitVec.ofInt 64 (sext old 32)).toNat else old
    (if r.2 then some r.1 else none, res)
/-- An atomic executed indivisibly at the unit that holds its word (R202); one that has come from elsewhere and whose number is in the window returns
the recorded result (R204). A CELLRD.CLR leaves a cell to which nothing has been added (R210). -/
def State.atomicAt (s : State) (c t : Nat) (a : Access) (i : Instr) : State :=
  let unit := unitOf (a.bytes.headD 0)
  let src := s.sourceId c t
  let s := s.countEffect c unit a.resent
  match if a.leaves c then s.windowHit unit src a.seq else none with
  | some r => s.setStrand c t ((s.strand c t).putAccess { a with performed := true, result := r })
  | none =>
    let old := s.readB a.bytes
    let (new, res) := atomicEffect a i old
    let recs := s.recordsAt a.bytes ++ (match i with | .cellrd _ _ _ _ _ _ => s.cellRecords a.bytes | _ => [])
    let s0 := match i with
      | .cellrd _ _ true _ _ _ => { s with records := s.records.filter fun r => !(r.cell && r.bytes == a.bytes) }
      | _ => s
    let s1 := match new with
      | some v => s0.storeAt a.bytes v true (a.relRecs c t) { agent := agentOf c t, id := a.id }
      | none => s
    ((if a.leaves c then s1.windowPut unit src a.seq res else s1).setStrand c t
      ((s1.strand c t).putAccess { a with performed := true, result := res, records := recs })).moved c a.bytes

/-! ## Fences and promotion -/

/-- A copy command of strand t is queued or running (R199, R230). -/
def Core.copiesOf (k : Core) (t : Nat) : Nat :=
  (k.engQ.filter fun q => q.strand == t).length + (match k.engRun with | some r => if r.cmd.strand = t then 1 else 0 | none => 0)
/-- The records whose releases a FENCE that acquires synchronises with (R196): those that loads read since the strand's last such fence, and
under ENG those that its copy commands and matrix instructions read (R199). -/
def fenceRecs (st : Strand) (k : FenceKind) : List RelRec := if k = .eng then st.readRecs ++ st.engRecs else st.readRecs
/-- The waits that a FENCE takes before it issues (R199). -/
def State.fenceReady (s : State) (k : FenceKind) (sc : Scope) : Bool :=
  let st := s.me
  let loads := st.out.all (fun a => !(a.op.isLoad || a.op.isAtomic)) && !st.seq.any st.observes
  let settled := s.settled (fenceRecs st k) s.curCore s.curStrand sc none
  let engines := s.myCore.copiesOf s.curStrand == 0 && !s.myCore.churnOf s.curStrand
  !st.vecMem && match k with
    | .rel => true
    | .acq => loads && settled
    | .full => loads && settled && s.coverIds.isEmpty
    | .eng => loads && settled && s.coverIds.isEmpty && engines

/-- A fence has made the earlier loads acquires (R196); the promotion that one of them used has ended (R200). -/
def Strand.acquireReads (st : Strand) : Strand :=
  { st with readRecs := [], promote := if st.promoteRead then none else st.promote, promoteRead := false }
/-- The address of the word that the strand has read and whose release names accesses that will never be performed (R301); for one that no
access of its own has read, its place in memory (log 44). -/
def State.lostAddr (s : State) (l : List RelRec) (sc : Scope) : Nat :=
  match l.find? fun r => r.syncs s.curCore s.curStrand sc none && r.pending.any s.lost.contains with
  | some r => r.seen.getD (r.bytes.headD 0)
  | none => 0
/-- FENCE.k.s: the strand is not ready while its waits last (R199); one that acquires from accesses that will never be
performed takes 0x16 (R301, log 44). -/
def rawFence (k : FenceKind) (sc : Scope) (s : State) : Eff :=
  let st := s.me
  let acq := (st.acquire s.curCore s.curStrand sc (fenceRecs st k) none).acquireReads
  if k != .rel && s.lostIn (fenceRecs st k) s.curCore s.curStrand sc none then .trap { code := 0x16, acc := 1, eva := s.lostAddr (fenceRecs st k) sc }
  else if !s.fenceReady k sc then .wait
  else
    match k with
    | .rel => onStrand s { st with relFence := some { scope := sc, pending := s.coverIds, known := s.knownNow } }
    | .acq => onStrand s acq
    | .full => onStrand s { acq with relFence := some { scope := sc, pending := [], known := acq.known.join s.knownNow } }
    | .eng =>
      let eng := acq.known.join [(engineFor s.curCore s.curStrand, s.nextId), (churnFor s.curCore s.curStrand, s.nextId)]
      onStrand s { acq with known := eng, engRecs := [], relFence := some { scope := sc, pending := [], known := eng.join s.knownNow } }
def execFence (k : FenceKind) (sc : Scope) (s : State) : Host.Outcome State Fault Refusal :=
  lone (.fence k sc) (rawFence k sc) s
/-- PROMOTE.s (R200): arms a promotion of the aligned word. -/
def rawPromote (a : Reg) (sc : Scope) (m : Mode) (s : State) : Eff :=
  let st := s.me
  let ea := vaof (st.xptr a.val)
  onBytes (s.check s.curCore st.stat.sup st.regs.asid .loadStore .load m ea 4 4 false) fun bytes =>
    match bytes with
    | x :: _ =>
      match region x with
      | .lp6 _ | .peer _ _ | .hole => .trap { code := 0x15, acc := 1, eva := ea }
      | _ => onStrand { s with nextId := s.nextId + 1 } { st with promote := some { word := x, scope := sc, no := s.nextId }, promoteRead := false }
    | [] => .done s
def execPromote (a : Reg) (sc : Scope) (m : Mode) (s : State) : Host.Outcome State Fault Refusal :=
  lone (.promote a sc m) (rawPromote a sc m) s

/-! ## Barriers -/

/-- The key of the domain that a word names, for the issuing core. -/
def State.domOf (s : State) (lv : BLevel) (k : BitVec 4) : Nat := domKey lv (instOf lv s.curCore) k.toNat
/-- The strand may use the domain: its launch was assigned it and its core is a member (R212). -/
def State.domUsable (s : State) (d : Domain) : Bool := d.launch == some s.myPart.launch && d.member s.curCore
/-- The acting strand has arrived at the current episode. -/
def State.arrived (s : State) (d : Domain) : Bool := d.arrivals.any fun a => a.core == s.curCore && a.strand == s.curStrand
/-- The strand arrives (R212): the stamp is the fabric time (R220), and the arrival covers the accesses before it (R213). -/
def State.arrive (s : State) (key : Nat) : State :=
  let d := s.domain key
  let s1 := s.setDomain key { d with arrivals := d.arrivals ++ [{ core := s.curCore, strand := s.curStrand, stamp := s.time, covers := s.coverIds, known := s.knownNow }] }
  s1.setMe { s1.me with bars := Tab.put key { episode := d.episode, stamp := s.time, open_ := true } s1.me.bars }
/-- BARI and BAR arrive: 0x2B, 0x2D, or not ready while the last arrival's episode has not released. -/
def arriveAt (lv : BLevel) (k : BitVec 4) (s : State) (go : State → Eff) : Eff :=
  let key := s.domOf lv k
  let d := s.domain key
  if !s.domUsable d then trapCode 0x2B
  else if d.broken then trapCode 0x2D
  else if s.arrived d then .wait
  else go (s.arrive key)

/-- BARW (R212). -/
def rawBarw (k : BitVec 4) (lv : BLevel) (s : State) : Eff :=
  let key := s.domOf lv k
  let d := s.domain key
  let st := s.me
  if !s.domUsable d then trapCode 0x2B
  else if d.broken then trapCode 0x2D
  else
    match st.bars.find? fun e => e.1 == key with
    | some (_, r) =>
      if !r.open_ then .done s
      else if r.episode < d.episode then
        onStrand s { st with
          regs := { st.regs with arrive := wordN r.stamp }, known := st.known.join d.known
          bars := Tab.put key { r with open_ := false, again := none } st.bars }
      else .sleep .barrier [key] s
    | none => .done s
def execBarw (k : BitVec 4) (lv : BLevel) (s : State) : Host.Outcome State Fault Refusal :=
  lone (.barw k lv) (rawBarw k lv) s
/-- The acting strand's BAR at its pc has arrived, and a fault of R253 step 1 has interrupted it since. -/
def State.barAgain (s : State) (key : Nat) : Bool :=
  match s.me.bars.find? fun e => e.1 == key with
  | some (_, r) => r.open_ && r.again == some s.me.pc
  | none => false
/-- BAR: BARI followed by BARW as one instruction (R212). DEDUCED (log 74): one that a fault has interrupted after its arrival issues again after
the monitor's ERET and then is its BARW alone, since the arrival stands. -/
def rawBar (k : BitVec 4) (lv : BLevel) (s : State) : Eff :=
  if s.barAgain (s.domOf lv k) then rawBarw k lv s else arriveAt lv k s fun s1 => .sleep .barrier [s.domOf lv k] s1
def execBar (k : BitVec 4) (lv : BLevel) (s : State) : Host.Outcome State Fault Refusal :=
  lone (.bar k lv) (rawBar k lv) s
/-- BARI: the strand arrives and continues (R212). -/
def rawBari (k : BitVec 4) (lv : BLevel) (s : State) : Eff := arriveAt lv k s fun s1 => .done s1
def execBari (k : BitVec 4) (lv : BLevel) (s : State) : Host.Outcome State Fault Refusal :=
  lone (.bari k lv) (rawBari k lv) s
/-- Core c holds a member of the launch: a resident one, where a DUAL pair's partner core counts as holding none (R303), or one switched out of it
and not restored yet (R257, R260). -/
def State.holds (s : State) (c launch : Nat) : Bool :=
  ((s.core c).part.resident && !(s.core c).part.mirror && (s.core c).part.launch == launch)
    || s.images.any fun e => e.2.oldCore == c && e.2.restored.isNone && e.2.part.launch == launch

/-- The mask of a BSET reaches the barrier network, which applies it from the next episode (R214). -/
def State.takeBset (s : State) (q : BsetReq) : State :=
  let d := s.domain q.key
  s.setDomain q.key { d with pendingMasks := Tab.put (clusterOf q.core) q.mask d.pendingMasks }
/-- Insertion behind every request of a lower core and strand, or of the same. -/
def insertBset (q : BsetReq) : List BsetReq → List BsetReq
  | [] => [q]
  | r :: l => if 4 * q.core + q.strand < 4 * r.core + r.strand then q :: r :: l else r :: insertBset q l
/-- The BSETs of a fabric cycle reach their networks, in increasing order of core and then strand (R214). -/
def State.takeBsets (s : State) : State :=
  let l := s.clusters.flatMap fun e => e.2.bsets.foldl (fun l q => insertBset q l) []
  match l with
  | [] => s
  | l => { l.foldl State.takeBset s with clusters := s.clusters.map fun e => (e.1, { e.2 with bsets := [] }) }
/-- BSET: on its way to the cluster's barrier network (R214). -/
def rawBset (d : Reg) (k : BitVec 4) (lv : BLevel) (s : State) : Eff :=
  let v := s.me.xr d.val
  let key := s.domOf lv k
  let dm := s.domain key
  let cl := clusterOf s.curCore
  if v.toNat / 2 ^ 32 ≠ 0 then trapCode 0x02
  else if dm.launch != some s.myPart.launch then trapCode 0x2B
  else if (span 0 32).any fun q => v.getLsbD q && !s.holds (cl * 32 + q) s.myPart.launch then trapCode 0x2B
  else
    let k := s.cluster cl
    .done (s.setCluster cl { k with bsets := k.bsets ++ [{ core := s.curCore, strand := s.curStrand, key := key, mask := v.setWidth 32 }] })
def execBset (d : Reg) (k : BitVec 4) (lv : BLevel) (s : State) : Host.Outcome State Fault Refusal :=
  lone (.bset d k lv) (rawBset d k lv) s

end Sys2Proof.Machine
end

