-- ==== Sys2Proof/Machine/Messages.lean ====
section
/-!
DEFINITION. Messaging and register fabric, 0x40 to 0x4A (R163 to R182, R245, R246).
-/
namespace Sys2Proof.Machine

/-- 64 µs of fabric time (R164, R263). -/
def us64 : Nat := 128000

/-- Core c holds a member of context k, resident or saved, or a member of it left c within the last 64 µs (R173, R257). -/
def State.ctxAt (s : State) (c k : Nat) : Bool :=
  ((s.core c).part.resident && !(s.core c).part.mirror && (s.core c).part.ctx == k)
    || s.images.any fun e => e.2.oldCore == c && e.2.part.ctx == k &&
        (match e.2.restored with | none => true | some _ => s.time < e.2.until_)
/-- The M registers still wait for a MSGMOV (R174). -/
def Strand.mBusy (st : Strand) : Bool := st.out.any (·.toM)

/-- The rectangle's cores that an MCAST reaches, with its validity (R173, Table 8.2). -/
def mcastOk (v : Nat) : Bool :=
  v / 2 ^ 27 == 0 && v / 2 ^ 5 % 8 == 0 && v / 2 ^ 19 % 64 + v / 2 ^ 8 % 64 ≤ 63 && v / 2 ^ 14 % 32 + v % 32 ≤ 31
def mcastCores (v : Nat) : List Nat :=
  (span (v / 2 ^ 14 % 32) (v % 32 + 1)).flatMap fun y =>
    (span (v / 2 ^ 19 % 64) (v / 2 ^ 8 % 64 + 1)).map fun x => coreAt (v / 2 ^ 25 % 4) x y

/-- An address in the memory to which a message or a record goes: the TCM of the target core, the vat of the home cluster's die (R294). -/
def flitMem (kind dst : Nat) : Option Nat :=
  if kind = 2 || kind = 3 then some (dst * 0x20000) else if kind = 4 then some (0x40000000 + dst / 64 * 0x4000000) else none
/-- The energy of a message's or record's 64 bytes (R294). -/
def State.movedFlit (s : State) (kind dst : Nat) : State :=
  match flitMem kind dst with
  | some a => s.moved s.curCore (span a 64)
  | none => s
/-- A flit of the acting strand enters the fabric with its sequence number (R164, R204). -/
def State.emit (s : State) (kind entry dst : Nat) (data : BitVec 512) (target : Word) (count width : Nat) (fence : Option FenceRec)
    (ord : Option Nat) : State :=
  let (n, s1) := (s.movedFlit kind dst).drawSeq s.curCore s.curStrand
  let p := s.myPart
  { s1 with
    nextId := s1.nextId + 1
    flits := s1.flits ++ [{ id := s1.nextId, kind := kind, src := s.curCore, strand := s.curStrand, launch := p.launch, ctx := p.ctx,
                            entry := entry, source := s.sourceId s.curCore s.curStrand, seq := n, dst := dst, data := data, target := target, count := count, width := width,
                            rel := (fenceRel fence s.curCore s.curStrand []).head?, ord := ord, since := s.time }] }
/-- Flits to several destinations; their identifiers. -/
def State.emitAll (s : State) (kind entry : Nat) (data : BitVec 512) (target : Word) : List Nat → State × List Nat
  | [] => (s, [])
  | c :: rest =>
    let s1 := s.emit kind entry c data target 0 0 s.me.relFence none
    let (s2, ids) := s1.emitAll kind entry data target rest
    (s2, (s1.nextId - 1) :: ids)
/-- SEND, MCAST and POST once their target is checked (R170): Xd ← 1 without a free entry, else the flits leave and Xd ← 0. DESIGN CHOICE (log 93):
of an MCAST whose every core is skipped (R173) no copy leaves, and the spec does not say whether SENDALW falls; here such an MCAST takes no entry. -/
def sendTo (d : Reg) (kind : Nat) (target : Word) (dsts : List Nat) (s : State) : Eff :=
  if s.me.mBusy then .wait
  else if s.me.sendAlw = 0 then writeX s d 1
  else
    let id := s.nextId
    let s0 : State := { s with nextId := id + 1 }
    let (s1, ids) := s0.emitAll kind id s.me.m target dsts
    let st := s1.me
    let st1 := if ids.isEmpty then st else { st with sends := st.sends ++ [{ id := id, kind := kind, target := target, left := ids }] }
    .done (s1.setMe (st1.xw d.val 0))

/-- SEND Xd, Xa (R170, R173). -/
def rawSend (d a : Reg) (s : State) : Eff :=
  let v := s.me.xr a.val
  let c := v.toNat % 8192
  if v.toNat / 8192 ≠ 0 || !s.inMap c || !s.ctxAt c s.myPart.ctx then trapCode 0x23 else sendTo d 2 v [c] s
def execSend (d a : Reg) (s : State) : Host.Outcome State Fault Refusal :=
  lone (.send d a) (rawSend d a) s

/-- The core that a capability names (Table 4.6). -/
def capCore (v : Word) : Nat := v.toNat / 2 ^ 62 * 2048 + v.toNat / 2 ^ 54 % 256 * 32 + v.toNat / 2 ^ 49 % 32
/-- CHECK and CLASS hold (R177). -/
def capOk (v : Word) (cls : RClass) : Bool :=
  BitVec.ofNat 24 v.toNat == Config.capCheck (BitVec.ofNat 40 (v.toNat / 2 ^ 24)) && v.toNat / 2 ^ 46 % 2 == cls.code
/-- A register send leaves (R177); a sequencer entry's has the fence before its handover, and its number (R182, R196). -/
def State.regSend (s : State) (kind : Nat) (v : Word) (data : BitVec 512) (count width : Nat) (fence : Option FenceRec) (ord : Option Nat) : State :=
  let s1 := s.emit kind 0 (capCore v) data v count width fence ord
  s1.setMe { s1.me with regSends := s1.me.regSends ++ [s1.nextId - 1] }

/-- The strand that a register send names (Table 4.6). -/
def capStrand (v : Word) : Nat := v.toNat / 2 ^ 47 % 4
/-- An RSENDV to the strand that the capability names still stands in the sequencer. -/
def Strand.rsendvTo (st : Strand) (v : Word) : Bool :=
  (st.seq ++ st.seqHeld).any fun e => match e.instr with
    | .rsendv _ _ _ => capCore e.xa.val == capCore v && capStrand e.xa.val == capStrand v
    | _ => false
/-- RSEND Xa, Xb (R177). DESIGN CHOICE (log 95): while an RSENDV to the same strand stands in the sequencer, one of the eight entries is kept for it: the
RSEND may land only after it (R163), and eight such RSENDs would keep it from ever leaving. -/
def rawRsend (a b : Reg) (s : State) : Eff :=
  let v := s.me.xr a.val
  if !capOk v .x then trapCode 0x21
  else if (if s.me.rsendvTo v then 7 else 8) ≤ s.me.regSends.length then .wait
  else .done (s.regSend 1 v ((s.me.xr b.val).setWidth 512) 0 0 s.me.relFence none)
def execRsend (a b : Reg) (s : State) : Host.Outcome State Fault Refusal :=
  lone (.rsend a b) (rawRsend a b) s
/-- RSENDV Xa, Vb, Pg: a sequencer entry (R177). -/
def rawRsendv (a b : Reg) (pg : Fin 8) (s : State) : Eff :=
  let st := s.me
  let (c, w) := st.pred pg.val 32
  if pg.val ≠ 0 && c = 0 then .done s
  else if st.nlanes = 0 then trapCode 0x02
  else if elems st.nlanes w < c || 512 < c * w then trapCode 0x02
  else pushEntry s st { st.entry (.rsendv a b pg) with pcount := c, pwidth := w }
def execRsendv (a b : Reg) (pg : Fin 8) (s : State) : Host.Outcome State Fault Refusal :=
  lone (.rsendv a b pg) (rawRsendv a b pg) s

/-- RECV and RPEEK read the head slot's arrival as a load (R182). -/
def takeSlot (s : State) (d : Reg) : Eff :=
  let p := s.myPart
  let slot := span (s.curCore * 0x20000 + p.headSlot) 64
  let st := s.me.xw d.val (wordN p.headSlot)
  onStrand s (st.loadsFrom slot (s.recordsAt slot) st.promote)

/-- RECV Xd: sleeps while the pail is empty (R168, R169). -/
def rawRecv (d : Reg) (s : State) : Eff := if s.myPart.pailHead = s.myPart.pailTail then .sleep .recv [] s else takeSlot s d
def execRecv (d : Reg) (s : State) : Host.Outcome State Fault Refusal :=
  lone (.recv d) (rawRecv d) s
/-- RPEEK Xd: all ones when the pail is empty (R168). -/
def rawRpeek (d : Reg) (s : State) : Eff := if s.myPart.pailHead = s.myPart.pailTail then writeX s d (BitVec.allOnes 64) else takeSlot s d
def execRpeek (d : Reg) (s : State) : Host.Outcome State Fault Refusal :=
  lone (.rpeek d) (rawRpeek d) s
/-- RACK: frees the head slot, into which the overflow ring moves a message (R166, R168). -/
def rawRack (s : State) : Eff :=
  let p := s.myPart
  if p.pailHead = p.pailTail then .done s else .done ((s.setMyPart { p with pailHead := p.pailHead + 64 }).drain s.curCore)
def execRack (s : State) : Host.Outcome State Fault Refusal := lone .rack rawRack s

/-- The home cluster of a physical address (R246). -/
def homeCluster (pa : Nat) : Nat :=
  match region pa with
  | .tcm c _ => clusterOf c
  | .vat d off => d * 64 + off / 0x800000 * 8 + pa / 2 ^ 16 % 8
  | .hbm off => off / 0xC00000000 / 2 * 64 + 32 * (off / 0xC00000000 % 2) + pa / 2 ^ 16 % 32
  | _ => pa / 2 ^ 16 % 4 * 64 + pa / 2 ^ 18 % 64

/-- POST Xd, Xa: a record to the home cluster of the address (R246); the address is checked as a store (log 37). -/
def rawPost (d a : Reg) (s : State) : Eff :=
  let st := s.me
  match s.translate s.curCore .loadStore st.regs.asid .store (vaof (st.xptr a.val)) with
  | .fault f => .trap f
  | .miss va => .miss .loadStore va
  | .ok bytes => sendTo d 4 (st.xr a.val) [homeCluster (bytes.headD 0)] s
def execPost (d a : Reg) (s : State) : Host.Outcome State Fault Refusal :=
  lone (.post d a) (rawPost d a) s
/-- TAKE Xd and TAKE.WAIT Xd (R246). -/
def rawTake (d : Reg) (wait : Bool) (s : State) : Eff :=
  let k := clusterOf s.curCore
  let cl := s.cluster k
  let ctx := s.myPart.ctx
  if s.me.mBusy then .wait
  else
    match cl.tasks.find? fun r => r.ctx == ctx with
    | some r =>
      let s1 := (s.setCluster k { cl with tasks := cl.tasks.erase r }).movedFlit 4 k
      .done (s1.setMe ({ s1.me with m := r.data, readRecs := s1.me.readRecs ++ r.rel.toList }.xw d.val 1))
    | none => if wait then .sleep .task [] s else writeX s d 0
def execTake (d : Reg) (wait : Bool) (s : State) : Host.Outcome State Fault Refusal :=
  lone (.take d wait) (rawTake d wait) s
/-- NEXT Xd (R245): the next schedule entry, marked as by an 8-byte load; 0 past the end. -/
def rawNext (d : Reg) (s : State) : Eff :=
  let p := s.myPart
  match p.sched[p.schedCur]? with
  | some v => let s1 := s.setMyPart { p with schedCur := p.schedCur + 1 }
              putMarked s1 d v (loadMark v)
  | none => writeX s d 0
def execNext (d : Reg) (s : State) : Host.Outcome State Fault Refusal :=
  lone (.next d) (rawNext d) s
/-- MCAST Xd, Xa (R170, R173): one copy for each member of the context in the rectangle. -/
def rawMcast (d a : Reg) (s : State) : Eff :=
  let v := s.me.xr a.val
  if !mcastOk v.toNat then trapCode 0x23
  else sendTo d 3 v ((mcastCores v.toNat).filter fun c => s.inMap c && s.ctxAt c s.myPart.ctx) s
def execMcast (d a : Reg) (s : State) : Host.Outcome State Fault Refusal :=
  lone (.mcast d a) (rawMcast d a) s
/-- MSGMOV and MSGMOV.ST: a relaxed load or store of 64 bytes (R174). -/
def rawMsgmov (a : Reg) (toMem : Bool) (m : Mode) (s : State) : Eff :=
  let st := s.me
  let ea := vaof (st.xptr a.val)
  let acc : AccKind := if toMem then .store else .load
  onBytes (s.accessBytes acc m ea 64 64 false) fun bytes =>
    if st.mBusy || !st.accRoom (if toMem then .store else .load) || s.vecMeets bytes then .wait
    else if toMem then
      .done (s.addAccess { id := 0, op := .store, bytes := bytes, data := st.m.toNat, size := 64, covers := s.coverIds, ea := ea } [])
    else .done (s.addAccess { id := 0, op := .load, bytes := bytes, size := 64, toM := true, ea := ea } [])
def execMsgmov (a : Reg) (toMem : Bool) (m : Mode) (s : State) : Host.Outcome State Fault Refusal :=
  lone (.msgmov a toMem m) (rawMsgmov a toMem m) s

end Sys2Proof.Machine
end

