-- ==== Sys2Proof/Machine/Formats.lean ====
section
/-!
DEFINITION. Memory formats beyond one scalar element: floating-point codes, microscaling blocks (R82 to R84), the decode
table and TAB8 (R85 to R87), and the conversions of vector loads and stores (R89, Table 5.5).
-/
namespace Sys2Proof.Machine

/-- The floating-point formats by code (Table 5.5). -/
def fltFmt : Nat → Option Fmt
  | 0x08 => some fp32 | 0x09 => some bf16 | 0x0A => some fp16 | 0x0B => some e4m3 | 0x0C => some e5m2
  | _ => none
def isMx (f : Nat) : Bool := 0x10 ≤ f && f ≤ 0x15
def isSparse (f : Nat) : Bool := 0x20 ≤ f && f ≤ 0x22
def isIntFmt (f : Nat) : Bool := 1 ≤ f && f ≤ 7
/-- Element width and packed bytes of a block, and emax (Table 5.3). -/
def mxWidth : Nat → Nat
  | 0x12 => 6 | 0x13 => 6 | 0x14 => 4 | _ => 8
def mxBytes (f : Nat) : Nat := 4 * mxWidth f
def mxEmax : Nat → Int
  | 0x10 => 8 | 0x11 => 15 | 0x12 => 4 | 0x13 => 2 | 0x14 => 2 | _ => 0
/-- The element format of a block; none for MXINT8. -/
def mxElem : Nat → Option Fmt
  | 0x10 => some e4m3 | 0x11 => some e5m2 | 0x12 => some e3m2 | 0x13 => some e2m3 | 0x14 => some e2m1
  | _ => none
/-- Elements and bytes of a block (R82, R86). -/
def blockElems (f blk : Nat) : Nat := if isMx f then 32 else if f = 0x19 then 2 ^ blk else 1
def blockBytes (f blk : Nat) : Nat := if isMx f then mxBytes f + 1 else if f = 0x19 then 2 ^ blk + 1 else accsize f
/-- A code that a fat pointer may use: 0x19 needs a block exponent of 1 to 10 (R86). -/
def usable (f blk : Nat) : Bool := isFormat f && (f != 0x19 || (1 ≤ blk && blk ≤ 10))

/-! ## The decode table -/

/-- Entry k of the identity ramp (R85): enc(k ÷ 8, Q19), with the sign for the upper half. -/
def rampEntry (k : Nat) : Nat := (rnd q19 .rne 0 (.num false (k % 128) (-3))).bits + (if 128 ≤ k then 2 ^ 18 else 0)
/-- Entry k of a core's table: Q19 in [18:0], F in bit 19. -/
def dtEntry (t : Option (BitVec 8192)) (k : Nat) : Nat :=
  match t with
  | some b => b.toNat / 2 ^ (32 * k) % 2 ^ 20
  | none => rampEntry k
def dtFlag (t : Option (BitVec 8192)) (k : Nat) : Bool := dtEntry t k / 2 ^ 19 == 1
/-- What a TAB8 code decodes to (R85, R86). -/
def tabVal (t : Option (BitVec 8192)) (c : Nat) : FVal := if dtFlag t c then .nan else q19.val (dtEntry t c % 2 ^ 19)
/-- K: how many of the entries 0 to 127 are unflagged. -/
def tabK (t : Option (BitVec 8192)) : Nat := ((span 0 128).filter fun k => !dtFlag t k).length
/-- The checks of R85 on the 1 KiB of a table. -/
def tableOk (b : BitVec 8192) : Bool :=
  let word (k : Nat) : Nat := b.toNat / 2 ^ (32 * k) % 2 ^ 32
  let t : Option (BitVec 8192) := some b
  let fin (k : Nat) : Bool := match q19.val (dtEntry t k % 2 ^ 19) with
    | .num false _ _ => true
    | _ => false
  (span 0 256).all (fun k => word k / 2 ^ 20 == 0)
    && (span 0 128).all (fun k => dtFlag t k || (fin k && dtEntry t k / 2 ^ 18 % 2 == 0))
    && (span 0 127).all (fun k => !dtFlag t k || dtFlag t (k + 1))
    && (span 0 127).all (fun k => dtFlag t k || dtFlag t (k + 1) || !(tabVal t (k + 1)).lt (tabVal t k))
    && (span 0 128).all (fun k => word (128 + k) == word k ^^^ 2 ^ 18)

/-- The magnitude of a value. -/
def FVal_abs : FVal → FVal
  | .nan => .nan | .inf _ => .inf false | .num _ m e => .num false m e
/-- Encoding into TAB8 (R87) with K > 0 unflagged entries: code, overflow, inexact, SEED. -/
def tabEnc (t : Option (BitVec 8192)) (seed : Word) (x : FVal) : RndOut :=
  match x with
  | .nan => { bits := ((span 0 128).find? (dtFlag t)).getD 0, seed := seed }
  | x =>
    let k := tabK t
    let sg := if x.isNeg then 0x80 else 0
    let a := FVal_abs x
    let v (i : Nat) : FVal := tabVal t i
    if !a.lt (v (k - 1)) then
      { bits := sg + (k - 1), ovf := (v (k - 1)).lt a, inexact := (v (k - 1)).lt a, seed := seed }
    else if !(v 0).lt a then { bits := sg, inexact := a.lt (v 0), seed := seed }
    else
      match (span 0 k).find? fun i => a.eq (v i) with
      | some i => { bits := sg + i, seed := seed }
      | none =>
        let lo := ((span 0 k).filter fun i => (v i).lt a).length - 1
        let hi := lo + 1
        let dl := (a.add (v lo).neg).1
        let dh := ((v hi).add a.neg).1
        let gap := ((v hi).add (v lo).neg).1
        if (v 0).isZero && lo = 0 then
          let s := nextSeed seed
          let th := match dl, gap with
            | .num _ m e, .num _ n g => scaled false (2 ^ 24 * m) e (min e g) / scaled false n g (min e g)
            | _, _ => 0
          { bits := sg + (if ((s.toNat / 2 ^ 40 : Nat) : Int) < th then hi else lo), inexact := true, seed := s }
        else
          let pick := if dl.lt dh then lo else if dh.lt dl then hi else if lo % 2 = 0 then lo else hi
          { bits := sg + pick, inexact := true, seed := seed }

/-! ## Blocks -/

/-- x × 2^(s − 127) with scale byte s; 0xFF makes every element NaN (R83). -/
def withScale (s : Nat) (x : FVal) : FVal :=
  if s = 0xFF then .nan
  else
    match x with
    | .num n m e => .num n m (e + ((s : Nat) - 127 : Int))
    | x => x
/-- The value of an unscaled element's bits. -/
def elemVal (f : Nat) (t : Option (BitVec 8192)) (b : Nat) : FVal :=
  match fltFmt f, mxElem f with
  | some g, _ => g.val b
  | none, some g => g.val b
  | none, none => if f = 0x15 then FVal.ofInt (sext b 8) (-6) else tabVal t (b % 256)
/-- Element j of the block whose bytes, first least significant, are `b` (R82, R84, R86). -/
def blockVal (f blk : Nat) (t : Option (BitVec 8192)) (b j : Nat) : FVal :=
  if isMx f then withScale (b / 2 ^ (8 * mxBytes f) % 256) (elemVal f t (b / 2 ^ (mxWidth f * j) % 2 ^ mxWidth f))
  else if f = 0x19 then withScale (b / 2 ^ (8 * 2 ^ blk) % 256) (elemVal f t (b / 2 ^ (8 * j) % 256))
  else elemVal f t b

/-- One element of a block after division by 2^E (R84): its bits, flags and SEED. -/
def mxRound (f : Nat) (seed : Word) (x : FVal) : RndOut :=
  match mxElem f with
  | some g => rnd g .rne seed x
  | none =>
    match x with
    | .num neg mag e =>
      let band := mag != 0 && e + Nat.log2 mag < -6
      let r := roundAt neg mag e (-6) (if band then .sr else .rne) seed
      let k := Nat.min r.k 127
      { bits := wrap (if neg then -(k : Int) else k) 8, ovf := 127 < r.k, inexact := r.inexact || 127 < r.k, seed := r.seed }
    | _ => { bits := 0, seed := seed }

/-- The greatest of floor(log2 |v|) of the nonzero values. -/
def topExp : List FVal → Option Int
  | [] => none
  | .num _ m e :: l =>
    if m = 0 then topExp l
    else match topExp l with
      | some k => some (max k (e + Nat.log2 m))
      | none => some (e + Nat.log2 m)
  | _ :: l => topExp l
/-- Elements packed from bit 0 upward. -/
def mxPack (f : Nat) (ex : Int) : Nat → List FVal → FRes → FRes
  | _, [], r => r
  | j, x :: l, r =>
    let y := match x with
      | .num n m e => FVal.num n m (e - ex)
      | x => x
    let o := mxRound f r.seed y
    mxPack f ex (j + 1) l { bits := r.bits + o.bits * 2 ^ (mxWidth f * j), flags := r.flags.or o.flags, seed := o.seed }
/-- A block of 32 values encoded (R84): the bytes as one number, the flags and SEED. -/
def mxEncode (f : Nat) (seed : Word) (vs : List FVal) : FRes :=
  if vs.any fun v => v.isNan || v.isInf then { bits := 0xFF * 2 ^ (8 * mxBytes f), seed := seed }
  else
    let e0 : Int := match topExp vs with | some k => k - mxEmax f | none => -127
    let ex := min (max e0 (-127)) 127
    let r := mxPack f ex 0 vs { bits := 0, seed := seed }
    { r with bits := r.bits + (ex + 127).toNat * 2 ^ (8 * mxBytes f) }

/-! ## Vector registers and memory (Table 5.5) -/

/-- The register type of a floating-point format at width w. -/
def regFmt (f w : Nat) : Fmt := if w = 16 then (if f = 0x0A then fp16 else bf16) else fp32
/-- A format's value as register bits of width w (R80, R84, R86). -/
def toReg (f w : Nat) (v : FVal) : Nat := (rnd (regFmt f w) .rne 0 v).bits
/-- What a vector load makes of the stored bits of a byte-sized element. -/
def loadElem (f w : Nat) (t : Option (BitVec 8192)) (b : Nat) : Nat :=
  if f = 0 then b % 2 ^ w
  else if isIntFmt f then wrap (if f ≤ 4 then sext b (8 * accsize f) else (b : Nat)) w
  else if f = 0x08 || ((f = 0x09 || f = 0x0A) && w = 16) then b
  else toReg f w (elemVal f t b)
/-- What a vector store makes of register bits (R81, R87, R104): bits, VSTAT flags, SEED. -/
structure StoreRes where
  bits : Nat
  flags : VFlags := {}
  seed : Word
  deriving DecidableEq, Repr
/-- The VSTAT flags of float flags. -/
def vflags (f : FFlags) : VFlags := { nv := f.nv, of := f.of, uf := f.uf, nx := f.nx }
def storeElem (f w : Nat) (t : Option (BitVec 8192)) (seed : Word) (r : Nat) : StoreRes :=
  if f = 0 then { bits := r % 2 ^ w, seed := seed }
  else if isIntFmt f then
    let n := 8 * accsize f
    let v : Int := if f ≤ 4 then sext r w else (r % 2 ^ w : Nat)
    let lo : Int := if f ≤ 4 then -(2 ^ (n - 1) : Nat) else 0
    let hi : Int := if f ≤ 4 then (2 ^ (n - 1) : Nat) - 1 else (2 ^ n : Nat) - 1
    { bits := wrap (clamp lo hi v) n, flags := { sat := clamp lo hi v != v }, seed := seed }
  else if f = 0x08 || ((f = 0x09 || f = 0x0A) && w = 16) then { bits := r % 2 ^ w, seed := seed }
  else
    let v := (regFmt f w).val (r % 2 ^ w)
    let o := match fltFmt f with
      | some g => rnd g .rne seed v
      | none => tabEnc t seed v
    { bits := o.bits, flags := vflags o.flags, seed := o.seed }

end Sys2Proof.Machine
end

