-- ==== Sys2Proof/Machine/VectorInt.lean ====
section
/-!
DEFINITION. Vector integer instructions, 0xA9 to 0xBB (R121): handed over at issue, and what their sequencer entries do.
-/
namespace Sys2Proof.Machine

/-! ## What a sequencer entry works on -/

/-- The registers that an entry reads and writes: the source file, LANES, the RBASE and register offset in force, the count. -/
structure VCtx where
  src : Tab VReg
  lanes : Nat
  rbase : Nat
  off : Nat
  c : Nat
  deriving DecidableEq, Repr

/-- Element i of width w of the operand n. -/
def VCtx.el (k : VCtx) (n : Reg) (w i : Nat) : Nat := vget k.src k.lanes k.rbase k.off n.val w i
/-- An element's value, its flags and SEED after it. -/
structure ElRes where
  bits : Nat
  flags : VFlags := {}
  seed : Word
  deriving DecidableEq, Repr
/-- What an entry leaves: the registers, the flags it sets, SEED. -/
structure VOut where
  file : Tab VReg
  flags : VFlags := {}
  seed : Word
  deriving DecidableEq, Repr
/-- Writes element i of every active element in increasing order (R121, R122); the sources stay those of `k`. -/
def VCtx.each (k : VCtx) (d : Reg) (w : Nat) (f : Nat → Word → ElRes) : List Nat → VOut → VOut
  | [], o => o
  | i :: l, o =>
    let r := f i o.seed
    k.each d w f l { file := vset o.file k.lanes k.rbase k.off d.val w i r.bits, flags := o.flags.or r.flags, seed := r.seed }
def VCtx.map (k : VCtx) (file : Tab VReg) (seed : Word) (d : Reg) (w : Nat) (f : Nat → Word → ElRes) : VOut :=
  k.each d w f (span 0 k.c) { file := file, seed := seed }

/-! ## Elements of Table 6.6 -/

/-- A sum or difference; .SAT clamps (Table 6.6). -/
def satRes (t : ITy) (sat : Bool) (v : Int) : Nat × VFlags :=
  if sat then (wrap (clamp t.lo t.hi v) t.bits, { sat := clamp t.lo t.hi v != v }) else (wrap v t.bits, {})
def ones (w : Nat) (b : Bool) : Nat := if b then 2 ^ w - 1 else 0
/-- Element i of Vd for the vector integer instructions; x, y and d are elements of Va, Vb and Vd. -/
def intElem (k : VCtx) (xa : Word) (i : Instr) (n : Nat) : Nat × VFlags :=
  match i with
  | .vadd _ a b _ t sat => satRes t sat (t.read (k.el a t.bits n) + t.read (k.el b t.bits n))
  | .vsub _ a b _ t sat => satRes t sat (t.read (k.el a t.bits n) - t.read (k.el b t.bits n))
  | .vmul _ a b _ t => (k.el a t.bits n * k.el b t.bits n % 2 ^ t.bits, {})
  | .vmulh _ a b _ t =>
    (wrap (t.read (k.el a t.bits n) * t.read (k.el b t.bits n) / (2 ^ t.bits : Nat)) t.bits, {})
  | .vand _ a b _ t => (k.el a t.bits n &&& k.el b t.bits n, {})
  | .vor _ a b _ t => (k.el a t.bits n ||| k.el b t.bits n, {})
  | .vxor _ a b _ t => (k.el a t.bits n ^^^ k.el b t.bits n, {})
  | .vshl _ a b _ t => (k.el a t.bits n * 2 ^ (k.el b t.bits n % t.bits) % 2 ^ t.bits, {})
  | .vshr _ a b _ t => (k.el a t.bits n / 2 ^ (k.el b t.bits n % t.bits), {})
  | .vsra _ a b _ t =>
    (wrap (sext (k.el a t.bits n) t.bits / (2 ^ (k.el b t.bits n % t.bits) : Nat)) t.bits, {})
  | .vmin _ a b _ t => (wrap (min (t.read (k.el a t.bits n)) (t.read (k.el b t.bits n))) t.bits, {})
  | .vmax _ a b _ t => (wrap (max (t.read (k.el a t.bits n)) (t.read (k.el b t.bits n))) t.bits, {})
  | .vcmp _ a b _ t lt =>
    let x := t.read (k.el a t.bits n)
    let y := t.read (k.el b t.bits n)
    (ones t.bits (if lt then x < y else x == y), {})
  | .vsel d a b _ t => (if k.el d t.bits n != 0 then k.el a t.bits n else k.el b t.bits n, {})
  | .vbcst _ _ _ t => (xa.toNat % 2 ^ t.bits, {})
  | .vperm _ a b _ t => (if k.el b t.bits n < k.c then k.el a t.bits (k.el b t.bits n) else 0, {})
  | .vslide _ a _ _ t up =>
    let x := xa.toNat
    if up then (if x ≤ n then k.el a t.bits (n - x) else 0, {})
    else (if n + x < k.c then k.el a t.bits (n + x) else 0, {})
  | .viota _ _ t => (n % 2 ^ t.bits, {})
  | _ => (0, {})
/-- VEXT's result (Table 6.6). -/
def vextVal (k : VCtx) (xb : Word) (a : Reg) (t : ITy) : Word :=
  if k.c ≤ xb.toNat then 0 else BitVec.ofInt 64 (t.read (k.el a t.bits xb.toNat))

/-- VADD (Table 6.6). -/
def rawVadd (d a b : Reg) (pg : Fin 8) (t : ITy) (sat : Bool) (s : State) : Eff := handOver (.vadd d a b pg t sat) s
def execVadd (d a b : Reg) (pg : Fin 8) (t : ITy) (sat : Bool) (s : State) : Host.Outcome State Fault Refusal :=
  lone (.vadd d a b pg t sat) (rawVadd d a b pg t sat) s
/-- VSUB (Table 6.6). -/
def rawVsub (d a b : Reg) (pg : Fin 8) (t : ITy) (sat : Bool) (s : State) : Eff := handOver (.vsub d a b pg t sat) s
def execVsub (d a b : Reg) (pg : Fin 8) (t : ITy) (sat : Bool) (s : State) : Host.Outcome State Fault Refusal :=
  lone (.vsub d a b pg t sat) (rawVsub d a b pg t sat) s
/-- VMUL (Table 6.6). -/
def rawVmul (d a b : Reg) (pg : Fin 8) (t : ITy) (s : State) : Eff := handOver (.vmul d a b pg t) s
def execVmul (d a b : Reg) (pg : Fin 8) (t : ITy) (s : State) : Host.Outcome State Fault Refusal :=
  lone (.vmul d a b pg t) (rawVmul d a b pg t) s
/-- VMULH (Table 6.6). -/
def rawVmulh (d a b : Reg) (pg : Fin 8) (t : ITy) (s : State) : Eff := handOver (.vmulh d a b pg t) s
def execVmulh (d a b : Reg) (pg : Fin 8) (t : ITy) (s : State) : Host.Outcome State Fault Refusal :=
  lone (.vmulh d a b pg t) (rawVmulh d a b pg t) s
/-- VAND (Table 6.6). -/
def rawVand (d a b : Reg) (pg : Fin 8) (t : ITy) (s : State) : Eff := handOver (.vand d a b pg t) s
def execVand (d a b : Reg) (pg : Fin 8) (t : ITy) (s : State) : Host.Outcome State Fault Refusal :=
  lone (.vand d a b pg t) (rawVand d a b pg t) s
/-- VOR (Table 6.6). -/
def rawVor (d a b : Reg) (pg : Fin 8) (t : ITy) (s : State) : Eff := handOver (.vor d a b pg t) s
def execVor (d a b : Reg) (pg : Fin 8) (t : ITy) (s : State) : Host.Outcome State Fault Refusal :=
  lone (.vor d a b pg t) (rawVor d a b pg t) s
/-- VXOR (Table 6.6). -/
def rawVxor (d a b : Reg) (pg : Fin 8) (t : ITy) (s : State) : Eff := handOver (.vxor d a b pg t) s
def execVxor (d a b : Reg) (pg : Fin 8) (t : ITy) (s : State) : Host.Outcome State Fault Refusal :=
  lone (.vxor d a b pg t) (rawVxor d a b pg t) s
/-- VSHL (Table 6.6). -/
def rawVshl (d a b : Reg) (pg : Fin 8) (t : ITy) (s : State) : Eff := handOver (.vshl d a b pg t) s
def execVshl (d a b : Reg) (pg : Fin 8) (t : ITy) (s : State) : Host.Outcome State Fault Refusal :=
  lone (.vshl d a b pg t) (rawVshl d a b pg t) s
/-- VSHR (Table 6.6). -/
def rawVshr (d a b : Reg) (pg : Fin 8) (t : ITy) (s : State) : Eff := handOver (.vshr d a b pg t) s
def execVshr (d a b : Reg) (pg : Fin 8) (t : ITy) (s : State) : Host.Outcome State Fault Refusal :=
  lone (.vshr d a b pg t) (rawVshr d a b pg t) s
/-- VSRA (Table 6.6). -/
def rawVsra (d a b : Reg) (pg : Fin 8) (t : ITy) (s : State) : Eff := handOver (.vsra d a b pg t) s
def execVsra (d a b : Reg) (pg : Fin 8) (t : ITy) (s : State) : Host.Outcome State Fault Refusal :=
  lone (.vsra d a b pg t) (rawVsra d a b pg t) s
/-- VMIN (Table 6.6). -/
def rawVmin (d a b : Reg) (pg : Fin 8) (t : ITy) (s : State) : Eff := handOver (.vmin d a b pg t) s
def execVmin (d a b : Reg) (pg : Fin 8) (t : ITy) (s : State) : Host.Outcome State Fault Refusal :=
  lone (.vmin d a b pg t) (rawVmin d a b pg t) s
/-- VMAX (Table 6.6). -/
def rawVmax (d a b : Reg) (pg : Fin 8) (t : ITy) (s : State) : Eff := handOver (.vmax d a b pg t) s
def execVmax (d a b : Reg) (pg : Fin 8) (t : ITy) (s : State) : Host.Outcome State Fault Refusal :=
  lone (.vmax d a b pg t) (rawVmax d a b pg t) s
/-- VCMP (Table 6.6). -/
def rawVcmp (d a b : Reg) (pg : Fin 8) (t : ITy) (lt : Bool) (s : State) : Eff := handOver (.vcmp d a b pg t lt) s
def execVcmp (d a b : Reg) (pg : Fin 8) (t : ITy) (lt : Bool) (s : State) : Host.Outcome State Fault Refusal :=
  lone (.vcmp d a b pg t lt) (rawVcmp d a b pg t lt) s
/-- VSEL (Table 6.6). -/
def rawVsel (d a b : Reg) (pg : Fin 8) (t : ITy) (s : State) : Eff := handOver (.vsel d a b pg t) s
def execVsel (d a b : Reg) (pg : Fin 8) (t : ITy) (s : State) : Host.Outcome State Fault Refusal :=
  lone (.vsel d a b pg t) (rawVsel d a b pg t) s
/-- VBCST (Table 6.6). -/
def rawVbcst (d a : Reg) (pg : Fin 8) (t : ITy) (s : State) : Eff := handOver (.vbcst d a pg t) s
def execVbcst (d a : Reg) (pg : Fin 8) (t : ITy) (s : State) : Host.Outcome State Fault Refusal :=
  lone (.vbcst d a pg t) (rawVbcst d a pg t) s
/-- VEXT: its entry writes Xd when it completes (R115). -/
def handExt (i : Instr) (d : Reg) (s : State) : Eff :=
  let st := s.me
  if st.noOp i then .done s
  else
    match st.groupChecks i with
    | some code => trapCode code
    | none => pushEntry s (st.xbusy d.val) { st.entry i with xd := st.xplace d.val }
/-- VEXT (Table 6.6). -/
def rawVext (d a b : Reg) (pg : Fin 8) (t : ITy) (s : State) : Eff := handExt (.vext d a b pg t) d s
def execVext (d a b : Reg) (pg : Fin 8) (t : ITy) (s : State) : Host.Outcome State Fault Refusal :=
  lone (.vext d a b pg t) (rawVext d a b pg t) s
/-- VPERM (Table 6.6). -/
def rawVperm (d a b : Reg) (pg : Fin 8) (t : ITy) (s : State) : Eff := handOver (.vperm d a b pg t) s
def execVperm (d a b : Reg) (pg : Fin 8) (t : ITy) (s : State) : Host.Outcome State Fault Refusal :=
  lone (.vperm d a b pg t) (rawVperm d a b pg t) s
/-- VSLIDE (Table 6.6). -/
def rawVslide (d a b : Reg) (pg : Fin 8) (t : ITy) (up : Bool) (s : State) : Eff := handOver (.vslide d a b pg t up) s
def execVslide (d a b : Reg) (pg : Fin 8) (t : ITy) (up : Bool) (s : State) : Host.Outcome State Fault Refusal :=
  lone (.vslide d a b pg t up) (rawVslide d a b pg t up) s
/-- VIOTA (Table 6.6). -/
def rawViota (d : Reg) (pg : Fin 8) (t : ITy) (s : State) : Eff := handOver (.viota d pg t) s
def execViota (d : Reg) (pg : Fin 8) (t : ITy) (s : State) : Host.Outcome State Fault Refusal :=
  lone (.viota d pg t) (rawViota d pg t) s

end Sys2Proof.Machine
end

