-- ==== Sys2Proof/Machine/Sfu.lean ====
section
/-!
DEFINITION. The special functions of R133: exact where the result is rational, and otherwise enclosed between two fixed-point
numbers that round alike; a rounding that stays undecided is a free value (log 16).
-/
namespace Sys2Proof.Machine

/-- An interval of multiples of 2^(−p). -/
structure Iv where
  lo : Int
  hi : Int
  deriving DecidableEq, Repr
def Iv.of (k : Int) (p : Nat) : Iv := { lo := k * (2 ^ p : Nat), hi := k * (2 ^ p : Nat) }
def Iv.add (a b : Iv) : Iv := { lo := a.lo + b.lo, hi := a.hi + b.hi }
def Iv.neg (a : Iv) : Iv := { lo := -a.hi, hi := -a.lo }
def Iv.sub (a b : Iv) : Iv := a.add b.neg
/-- Product rounded outward. -/
def Iv.mul (p : Nat) (a b : Iv) : Iv :=
  let w : Int := (2 ^ p : Nat)
  let l := min (min (a.lo * b.lo) (a.lo * b.hi)) (min (a.hi * b.lo) (a.hi * b.hi))
  let h := max (max (a.lo * b.lo) (a.lo * b.hi)) (max (a.hi * b.lo) (a.hi * b.hi))
  { lo := l / w, hi := h / w + 1 }
def Iv.scale (k : Int) (a : Iv) : Iv := if 0 ≤ k then { lo := a.lo * k, hi := a.hi * k } else { lo := a.hi * k, hi := a.lo * k }
def Iv.divNat (n : Nat) (a : Iv) : Iv := { lo := a.lo / n, hi := a.hi / n + 1 }
/-- Quotient of an interval by a positive one. -/
def Iv.div (p : Nat) (a b : Iv) : Iv :=
  let w : Int := (2 ^ p : Nat)
  let l := min (a.lo * w / b.lo) (a.lo * w / b.hi)
  let h := max (a.hi * w / b.lo) (a.hi * w / b.hi)
  { lo := l, hi := h + 1 }

/-- Σ t_k with t_(k+1) = t_k × r ÷ den k, n terms from index j; the tail is below one unit of the last term's bound. -/
def series (p : Nat) (r : Iv) (den : Nat → Nat) : Nat → Nat → Iv → Iv → Iv
  | 0, _, t, acc =>
    let e := max t.hi (-t.lo) + 1
    { lo := acc.lo - e, hi := acc.hi + e }
  | n + 1, j, t, acc => series p r den n (j + 1) ((Iv.mul p t r).divNat (den j)) (acc.add t)
/-- e^r for |r| below 1. -/
def expIv (p : Nat) (r : Iv) : Iv := series p r (fun j => j + 1) (p / 3) 0 (Iv.of 1 p) (Iv.of 0 p)
/-- sin r and cos r for |r| below 1. -/
def sinIv (p : Nat) (r : Iv) : Iv :=
  series p (Iv.mul p r r).neg (fun j => (2 * j + 2) * (2 * j + 3)) (p / 6) 0 r (Iv.of 0 p)
def cosIv (p : Nat) (r : Iv) : Iv :=
  series p (Iv.mul p r r).neg (fun j => (2 * j + 1) * (2 * j + 2)) (p / 6) 0 (Iv.of 1 p) (Iv.of 0 p)
/-- Σ sign^j z^(2j+1) ÷ (2j+1): atanh (sign 1) or arctan (sign −1) of z, |z| at most 1 ÷ 3. -/
def oddSum (p : Nat) (z2 : Iv) (sign : Int) : Nat → Nat → Iv → Iv → Iv
  | 0, _, t, acc =>
    let e := max t.hi (-t.lo) + 1
    { lo := acc.lo - e, hi := acc.hi + e }
  | n + 1, j, t, acc => oddSum p z2 sign n (j + 1) ((Iv.mul p t z2).scale sign) (acc.add (t.divNat (2 * j + 1)))
def oddIv (p : Nat) (z : Iv) (sign : Int) : Iv := oddSum p (Iv.mul p z z) sign (p / 3) 0 z (Iv.of 0 p)
def recipIv (p n : Nat) : Iv := (Iv.of 1 p).divNat n
/-- ln 2 = 2 atanh(1 ÷ 3); π = 16 arctan(1 ÷ 5) − 4 arctan(1 ÷ 239). -/
def ln2Iv (p : Nat) : Iv := (oddIv p (recipIv p 3) 1).scale 2
def piIv (p : Nat) : Iv := ((oddIv p (recipIv p 5) (-1)).scale 16).sub ((oddIv p (recipIv p 239) (-1)).scale 4)

/-- mag × 2^e as a multiple of 2^(−p); exact for e ≥ −p. -/
def fixed (neg : Bool) (mag : Nat) (e : Int) (p : Nat) : Int := scaled neg mag e (-(p : Int))
def Iv.exact (k : Int) : Iv := { lo := k, hi := k }

/-- The function value as an interval of multiples of 2^(−p), with a factor 2^shift, for the arguments that reach it. -/
def sfuIv (f : SfuFn) (p : Nat) (neg : Bool) (mag : Nat) (e : Int) : Iv × Int :=
  let x := fixed neg mag e p
  let w : Int := (2 ^ p : Nat)
  match f with
  | .exp2 =>
    let n := x / w
    (expIv p (Iv.mul p (Iv.exact (x - n * w)) (ln2Iv p)), n)
  | .log2 =>
    let k := Nat.log2 mag
    let m : Int := (mag * 2 ^ (p - k) : Nat)
    let z := Iv.div p (Iv.exact (m - w)) (Iv.exact (m + w))
    (Iv.add (Iv.of (e + k) p) (Iv.div p ((oddIv p z 1).scale 2) (ln2Iv p)), 0)
  | .sin | .cos =>
    let half := Iv.div p (piIv p) (Iv.of 2 p)
    let q := (2 * x + half.lo) / (2 * half.lo)
    let r := (Iv.exact x).sub (half.scale q)
    let t := (q + (if f == .cos then 1 else 0)) % 4
    let v := if t % 2 = 0 then sinIv p r else cosIv p r
    (if 2 ≤ t then v.neg else v, 0)
  | .tanh | .logistic =>
    -- E = e^(−2|x|) or e^(−|x|)
    let a : Int := if f == .tanh then 2 * (x.natAbs : Int) else (x.natAbs : Int)
    let l2 := ln2Iv p
    let n := a / l2.hi
    let r := (Iv.exact a).sub (l2.scale n)
    let big := expIv p r.neg
    let ex : Iv := { lo := big.lo / (2 ^ n.toNat : Nat), hi := big.hi / (2 ^ n.toNat : Nat) + 1 }
    if f == .tanh then
      let v := Iv.div p ((Iv.of 1 p).sub ex) ((Iv.of 1 p).add ex)
      (if neg then v.neg else v, 0)
    else if neg then (Iv.div p big ((Iv.of 1 p).add ex), -n)
    else (Iv.div p (Iv.of 1 p) ((Iv.of 1 p).add ex), 0)
  | _ => (Iv.exact 0, 0)

/-- The bits both ends round to, if they agree. -/
def agree (g : Fmt) (v : Iv × Int) (p : Nat) : Option Nat :=
  let at_ (k : Int) : Nat := (rnd g .rne 0 (FVal.ofInt k (v.2 - p))).bits
  if at_ v.1.lo = at_ v.1.hi then some (at_ v.1.lo) else none
/-- Two precisions, then the free value. -/
def enclosed (f : SfuFn) (g : Fmt) (x : Nat) (neg : Bool) (mag : Nat) (e : Int) : Nat :=
  match agree g (sfuIv f 448 neg mag e) 448 with
  | some b => b
  | none =>
    match agree g (sfuIv f 896 neg mag e) 896 with
    | some b => b
    | none => (Config.sfuRounding g.width f.code (BitVec.ofNat 64 x)).toNat % 2 ^ g.width

/-- A value a little below 1, or a little above 0, in magnitude. -/
def nearOne (neg : Bool) : FVal := .num neg (2 ^ 60 - 1) (-60)
def nearZero (neg : Bool) : FVal := .num neg 1 (-1000)
/-- ⌊√n⌋, bit by bit. -/
def isqrt (n acc : Nat) : Nat → Nat
  | 0 => acc
  | b + 1 => if (acc + 2 ^ b) * (acc + 2 ^ b) ≤ n then isqrt n (acc + 2 ^ b) b else isqrt n acc b
/-- 1 ÷ x and 1 ÷ √x to 128 bits with a sticky bit for the rest. -/
def recipVal (neg : Bool) (mag : Nat) (e : Int) : FVal :=
  let n := 2 ^ 160
  .num neg (2 * (n / mag) + (if n % mag = 0 then 0 else 1)) (-e - 161)
def rsqrtVal (mag : Nat) (e : Int) : FVal :=
  let m := if e % 2 = 0 then mag else 2 * mag
  let e := if e % 2 = 0 then e else e - 1
  let n := 2 ^ 320 / m
  let r := isqrt n 0 162
  .num false (2 * r + (if r * r * m = 2 ^ 320 then 0 else 1)) (-e / 2 - 161)
/-- 2^k for an integral power. -/
def powerOfTwo (mag : Nat) : Bool := mag == 2 ^ Nat.log2 mag

/-- The value that rne rounds, for a finite nonzero x: an exact or bracketed one, or none where the enclosure decides. -/
def sfuFinite (f : SfuFn) (neg : Bool) (mag : Nat) (e : Int) : Option FVal :=
  let top := e + Nat.log2 mag
  match f with
  | .recip => some (recipVal neg mag e)
  | .rsqrt => if neg then some .nan else some (rsqrtVal mag e)
  | .exp2 =>
    if 12 ≤ top then some (if neg then nearZero false else .inf false)
    else if top < -200 then some (.num false (if neg then 2 ^ 60 - 1 else 2 ^ 60 + 1) (-60))
    else if 0 ≤ e then some (.num false 1 (scaled neg mag e 0))
    else
      let n := (-e).toNat
      if mag % 2 ^ n = 0 then some (.num false 1 (if neg then -((mag / 2 ^ n : Nat) : Int) else (mag / 2 ^ n : Nat))) else none
  | .log2 => if neg then some .nan else if powerOfTwo mag then some (FVal.ofInt top) else none
  | .sin | .cos => none
  | .tanh => if 8 ≤ top then some (nearOne neg) else none
  | .logistic => if 10 ≤ top then some (if neg then nearZero false else nearOne false) else none

/-- VSFU's result for one element (R133, Tables 6.10 and 6.11). -/
def sfuElem (f : SfuFn) (t : FTy) (x : Nat) : Nat :=
  let g := t.fmt
  let out (v : FVal) : Nat := (rnd g .rne 0 v).bits
  let one : FVal := .num false 1 0
  let zero (n : Bool) : FVal := .num n 0 0
  match g.val x with
  | .nan => g.nan
  | .inf neg =>
    out (match f with
      | .recip => zero neg
      | .rsqrt => if neg then .nan else zero false
      | .exp2 => if neg then zero false else .inf false
      | .log2 => if neg then .nan else .inf false
      | .sin => .nan | .cos => .nan
      | .tanh => .num neg 1 0
      | .logistic => if neg then zero false else one)
  | .num neg mag e =>
    if mag = 0 then
      out (match f with
        | .recip => .inf neg | .rsqrt => .inf neg
        | .exp2 => one | .log2 => .inf true
        | .sin => zero neg | .cos => one
        | .tanh => zero neg
        | .logistic => .num false 1 (-1))
    else
      match sfuFinite f neg mag e with
      | some v => out v
      | none => enclosed f g x neg mag e

end Sys2Proof.Machine
end

