-- ==== Sys2Proof/Machine/VectorFloat.lean ====
section
/-!
DEFINITION. Vector float instructions, 0xBC to 0xD2 (R122 to R134): handed over at issue, and what their sequencer entries do.
-/
namespace Sys2Proof.Machine

/-! ## Elements of Table 6.7 -/

/-- VFMIN and VFMAX (Table 6.7): −0 below +0; one NaN gives the other operand, two give NaN; no flag. -/
def fMinMax (f : Fmt) (mx : Bool) (a b : Nat) : Nat :=
  let x := f.val a
  let y := f.val b
  if x.isNan then (if y.isNan then f.nan else b)
  else if y.isNan then a
  else if mx then (if x.lt0 y then b else a) else (if y.lt0 x then b else a)
/-- VFRND (R124). -/
def fRound (f : Fmt) (m : RMode) (seed : Word) (a : Nat) : FRes :=
  match f.val a with
  | .nan => { bits := f.nan, seed := seed }
  | .inf _ => { bits := a, seed := seed }
  | .num neg mag e =>
    if mag = 0 then { bits := a, seed := seed }
    else
      let r := roundAt neg mag e 0 m seed
      { bits := (rnd f .rne 0 (.num neg r.k 0)).bits, flags := { nx := r.inexact }, seed := r.seed }
/-- VSCALE (Table 6.7): beyond ±1000 the power changes no rounding. -/
def fScale (f : Fmt) (m : RMode) (seed : Word) (a : Nat) (k : Int) : FRes :=
  match f.val a with
  | .num neg mag e =>
    let r := rnd f m seed (.num neg mag (e + clamp (-1000) 1000 k))
    { bits := r.bits, flags := r.flags, seed := r.seed }
  | v => { bits := (rnd f m seed v).bits, seed := seed }
def ElRes.ofF (r : FRes) : ElRes := { bits := r.bits, flags := vflags r.flags, seed := r.seed }

/-- Element n of Vd for the element-by-element float instructions. -/
def floatElem (k : VCtx) (xb : Word) (i : Instr) (n : Nat) (seed : Word) : ElRes :=
  match i with
  | .vfadd _ a b _ t sr => .ofF (fAdd t.fmt (modeOf sr) seed (k.el a t.width n) (k.el b t.width n))
  | .vfsub _ a b _ t sr => .ofF (fSub t.fmt (modeOf sr) seed (k.el a t.width n) (k.el b t.width n))
  | .vfmul _ a b _ t sr => .ofF (fMul t.fmt (modeOf sr) seed (k.el a t.width n) (k.el b t.width n))
  | .vfma d a b _ t sr => .ofF (fMa t.fmt (modeOf sr) seed (k.el a t.width n) (k.el b t.width n) (k.el d t.width n))
  | .vfms d a b _ t sr =>
    let f := t.fmt
    .ofF (finish f (modeOf sr) seed
      (fmaVal (f.val (k.el a t.width n)).neg (f.val (k.el b t.width n)) (f.val (k.el d t.width n))))
  | .vfmin _ a b _ t => { bits := fMinMax t.fmt false (k.el a t.width n) (k.el b t.width n), seed := seed }
  | .vfmax _ a b _ t => { bits := fMinMax t.fmt true (k.el a t.width n) (k.el b t.width n), seed := seed }
  | .vfabs _ a _ t =>
    let x := k.el a t.width n
    { bits := if (t.fmt.val x).isNan then t.fmt.nan else x % t.fmt.signBit, seed := seed }
  | .vfcmp _ a b _ t lt =>
    { bits := ones t.width (fCmp t.fmt (if lt then .lt else .eq) (k.el a t.width n) (k.el b t.width n)), seed := seed }
  | .vfcvt _ a _ dt st sr => .ofF (convert dt st (modeOf sr) seed (k.el a st.bits n))
  | .vfrnd _ a _ t m => .ofF (fRound t.fmt m seed (k.el a t.width n))
  | .vscale _ a _ _ t sr => .ofF (fScale t.fmt (modeOf sr) seed (k.el a t.width n) xb.toInt)
  | .vsfu _ a _ t f => { bits := sfuElem f t (k.el a t.width n), seed := seed }
  | _ => { bits := 0, seed := seed }

/-! ## Exact pairs -/

/-- A high part, a low part, and the flags. -/
structure PairRes where
  hi : Nat
  lo : Nat
  flags : VFlags := {}
  deriving DecidableEq, Repr
/-- The low NaN (R125). -/
def lowNan (f : Fmt) : Nat := f.nan + 1
def bothFinite (x y : FVal) : Bool := !(x.isNan || x.isInf || y.isNan || y.isInf)
/-- hi ← rne(e), lo ← e − hi, for a finite exact e (R125). -/
def exactPair (f : Fmt) (e : FVal) : PairRes :=
  let h := rnd f .rne 0 e
  let v := f.val h.bits
  if v.isInf then { hi := h.bits, lo := lowNan f, flags := { ovx := true, of := true } }
  else
    let r := (e.add v.neg).1
    if r.isZero then { hi := h.bits, lo := 0 }
    else
      let l := rnd f .rne 0 r
      { hi := h.bits, lo := l.bits, flags := { exl := l.inexact } }
/-- VADDX, VSUBX and VMULX (R125): with a NaN or an infinity the ordinary result, and +0. -/
def pairOp (f : Fmt) (op : FVal → FVal → FVal × Bool) (a b : Nat) : PairRes :=
  let x := f.val a
  let y := f.val b
  let e := op x y
  if bothFinite x y then exactPair f e.1
  else { hi := (rnd f .rne 0 e.1).bits, lo := 0, flags := { nv := e.2 } }
def subVal (x y : FVal) : FVal × Bool := x.add y.neg

/-! ## Double-word arithmetic -/

/-- A value of a step, whether a NaN has arisen from operands that are not NaN, and whether a low part was rounded. -/
structure Step where
  v : FVal
  nv : Bool := false
  exl : Bool := false
  deriving DecidableEq, Repr
/-- A step rounded to FP32 (R126). -/
def Step.rne (s : Step) : Step := { s with v := fp32.val (rnd fp32 .rne 0 s.v).bits }
def Step.add (a b : Step) : Step :=
  let r := a.v.add b.v
  { v := r.1, nv := a.nv || b.nv || r.2, exl := a.exl || b.exl }
def Step.neg (a : Step) : Step := { a with v := a.v.neg }
def Step.mul (a b : Step) : Step :=
  let r := a.v.mul b.v
  { v := r.1, nv := a.nv || b.nv || r.2, exl := a.exl || b.exl }
/-- An exact difference, rounded where it is off the grid (R127). -/
def Step.gridded (s : Step) : Step :=
  match s.v with
  | .num _ _ _ => { s with v := s.rne.v, exl := s.exl || (rnd fp32 .rne 0 s.v).inexact }
  | _ => s
/-- hi ← rne(u + w), lo ← (u + w) − hi with the specials of R129: `fin` says that every input part is finite. -/
def closePair (fin : Bool) (u w : Step) : PairRes :=
  let e := u.add w
  let h := e.rne
  let hb := (rnd fp32 .rne 0 e.v).bits
  match h.v with
  | .nan => { hi := fp32.nan, lo := 0, flags := { nv := h.nv, exl := h.exl } }
  | .inf _ =>
    if fin then { hi := hb, lo := lowNan fp32, flags := { nv := h.nv, ovx := true, of := true, exl := h.exl } }
    else { hi := hb, lo := 0, flags := { nv := h.nv, exl := h.exl } }
  | v =>
    let r := (e.v.add v.neg).1
    { hi := hb, lo := if r.isZero then 0 else (rnd fp32 .rne 0 r).bits, flags := { nv := h.nv, exl := h.exl } }
def finitePair (hi lo : Nat) : Bool := bothFinite (fp32.val hi) (fp32.val lo)
def stepOf (b : Nat) : Step := { v := fp32.val b }
/-- DWADD (R126). -/
def dwAdd (ah al bh bl : Nat) (minus : Bool) : PairRes :=
  let sg (s : Step) : Step := if minus then s.neg else s
  let a := stepOf ah
  let b := sg (stepOf bh)
  let a2 := stepOf al
  let b2 := sg (stepOf bl)
  let sh := (a.add b).rne
  let sl := (a.add b).add sh.neg
  let th := (a2.add b2).rne
  let tl := (a2.add b2).add th.neg
  let c := (sl.add th).rne
  let vh := (sh.add c).rne
  let vl := (sh.add c).add vh.neg
  let w := (tl.add vl).rne
  closePair (finitePair ah al && finitePair bh bl) vh w
/-- DWMUL (R127). -/
def dwMul (ah al bh bl : Nat) : PairRes :=
  let a := stepOf ah
  let b := stepOf bh
  let ch := (a.mul b).rne
  let e1 := ((a.mul b).add ch.neg).gridded
  let t0 := ((stepOf al).mul (stepOf bl)).rne
  let t1 := ((a.mul (stepOf bl)).add t0).rne
  let t2 := (((stepOf al).mul b).add t1).rne
  let t3 := (e1.add t2).rne
  closePair (finitePair ah al && finitePair bh bl) ch t3

/-- High and low part of element i of a pair operand of width w. -/
def VCtx.hi (k : VCtx) (n : Reg) (w i : Nat) : Nat := vgetHi k.src k.lanes k.rbase k.off n.val w i
def VCtx.lo (k : VCtx) (n : Reg) (w i : Nat) : Nat := vgetLo k.src k.lanes k.rbase k.off n.val w i
/-- Element n of the pair destinations. -/
def pairElem (k : VCtx) (i : Instr) (n : Nat) : PairRes :=
  match i with
  | .vaddx _ a b _ t => pairOp t.fmt FVal.add (k.el a t.width n) (k.el b t.width n)
  | .vsubx _ a b _ t => pairOp t.fmt subVal (k.el a t.width n) (k.el b t.width n)
  | .vmulx _ a b _ t => pairOp t.fmt FVal.mul (k.el a t.width n) (k.el b t.width n)
  | .dwadd _ a b _ => dwAdd (k.hi a 32 n) (k.lo a 32 n) (k.hi b 32 n) (k.lo b 32 n) false
  | .dwsub _ a b _ => dwAdd (k.hi a 32 n) (k.lo a 32 n) (k.hi b 32 n) (k.lo b 32 n) true
  | .dwmul _ a b _ => dwMul (k.hi a 32 n) (k.lo a 32 n) (k.hi b 32 n) (k.lo b 32 n)
  | .dwnorm _ a _ =>
    closePair (finitePair (k.hi a 32 n) (k.lo a 32 n)) (stepOf (k.hi a 32 n)) (stepOf (k.lo a 32 n))
  | _ => { hi := 0, lo := 0 }
/-- Writes the pairs of every active element. -/
def VCtx.eachPair (k : VCtx) (d : Reg) (w : Nat) (f : Nat → PairRes) : List Nat → VOut → VOut
  | [], o => o
  | i :: l, o =>
    let r := f i
    k.eachPair d w f l { o with file := vsetPair o.file k.lanes k.rbase k.off d.val w i r.hi r.lo, flags := o.flags.or r.flags }

/-! ## Reductions -/

/-- Least power of two at or above c, at least 1. -/
def pow2Ge (c : Nat) : Nat := if c ≤ 1 then 1 else 2 ^ (Nat.log2 (c - 1) + 1)
/-- Adds the second half of a list to the first, element by element. -/
def halve {α : Type} (f : α → α → α) (l : List α) : List α :=
  let h := l.length / 2
  ((l.take h).zip (l.drop h)).map fun e => f e.1 e.2
def treeSum {α : Type} (f : α → α → α) : Nat → List α → List α
  | 0, l => l
  | n + 1, l => if l.length ≤ 1 then l else treeSum f n (halve f l)
/-- VSUM (R130). -/
def vsumRes (f : Fmt) (xs : List Nat) : FRes :=
  let m := pow2Ge xs.length
  let leaves : List FRes := (xs ++ List.replicate (m - xs.length) 0).map fun b => { bits := b, seed := 0 }
  let add (a b : FRes) : FRes :=
    let r := fAdd f .rne 0 a.bits b.bits
    { bits := r.bits, flags := (a.flags.or b.flags).or r.flags, seed := 0 }
  match treeSum add 32 leaves with
  | r :: _ => r
  | [] => { bits := 0, seed := 0 }
/-- A node of VSUMC (R131): t is not formed where s is not finite. -/
def sumcNode (a b : Step × Step) : Step × Step :=
  let e := a.1.add b.1
  let s := e.rne
  let old := a.2.nv || b.2.nv
  match s.v with
  | .num _ _ _ => (s, (((a.2.add b.2).rne).add (e.add s.neg)).rne)
  | _ => (s, { v := .num false 0 0, nv := old })
/-- VSUMC (R131). -/
def vsumcRes (xs : List Nat) : PairRes :=
  let m := pow2Ge xs.length
  let leaves := (xs ++ List.replicate (m - xs.length) 0).map fun b => (stepOf b, ({ v := .num false 0 0 } : Step))
  let fin := xs.all fun b => bothFinite (fp32.val b) (fp32.val b)
  match treeSum sumcNode 32 leaves with
  | r :: _ => closePair fin r.1 r.2
  | [] => { hi := 0, lo := 0 }
/-- VREDMAX (R132). -/
def redMax (f : Fmt) (xs : List Nat) : Nat :=
  let nums := xs.filter fun b => !(f.val b).isNan
  match nums with
  | [] => f.nan
  | b :: l => l.foldl (fun m x => if (f.val m).lt0 (f.val x) then x else m) b

/-- What an entry of a vector integer or float instruction does to the registers, VSTAT and SEED. -/
def vexec (k : VCtx) (xa : Word) (file : Tab VReg) (seed : Word) (i : Instr) : VOut :=
  let plain (d : Reg) (w : Nat) : VOut :=
    k.map file seed d w fun n sd => let r := intElem k xa i n; { bits := r.1, flags := r.2, seed := sd }
  let float (d : Reg) (w : Nat) : VOut := k.map file seed d w (floatElem k xa i)
  let pairs (d : Reg) (w : Nat) : VOut := k.eachPair d w (pairElem k i) (span 0 k.c) { file := file, seed := seed }
  let els (a : Reg) (w : Nat) : List Nat := (span 0 k.c).map (k.el a w)
  match i with
  | .vadd d _ _ _ t _ | .vsub d _ _ _ t _ | .vcmp d _ _ _ t _ | .vslide d _ _ _ t _ => plain d t.bits
  | .vmul d _ _ _ t | .vmulh d _ _ _ t | .vand d _ _ _ t | .vor d _ _ _ t | .vxor d _ _ _ t | .vshl d _ _ _ t
  | .vshr d _ _ _ t | .vsra d _ _ _ t | .vmin d _ _ _ t | .vmax d _ _ _ t | .vsel d _ _ _ t | .vperm d _ _ _ t =>
    plain d t.bits
  | .vbcst d _ _ t => plain d t.bits
  | .viota d _ t => plain d t.bits
  | .vfadd d _ _ _ t _ | .vfsub d _ _ _ t _ | .vfmul d _ _ _ t _ | .vfma d _ _ _ t _ | .vfms d _ _ _ t _
  | .vfcmp d _ _ _ t _ | .vscale d _ _ _ t _ => float d t.width
  | .vfmin d _ _ _ t | .vfmax d _ _ _ t => float d t.width
  | .vfabs d _ _ t => float d t.width
  | .vfrnd d _ _ t _ => float d t.width
  | .vsfu d _ _ t _ => float d t.width
  | .vfcvt d _ _ dt _ _ => float d dt.bits
  | .vaddx d _ _ _ t | .vsubx d _ _ _ t | .vmulx d _ _ _ t => pairs d t.width
  | .dwadd d _ _ _ | .dwsub d _ _ _ | .dwmul d _ _ _ => pairs d 32
  | .dwnorm d _ _ => pairs d 32
  | .vsum d a _ t =>
    let r := vsumRes t.fmt (els a t.width)
    { file := vset file k.lanes k.rbase k.off d.val t.width 0 r.bits, flags := vflags r.flags, seed := seed }
  | .vsumc d a _ =>
    let r := vsumcRes (els a 32)
    let fl : VFlags := { r.flags with nx := false, uf := false, exl := false }
    { file := vsetPair file k.lanes k.rbase k.off d.val 32 0 r.hi r.lo, flags := fl, seed := seed }
  | .vredmax d a _ t =>
    { file := vset file k.lanes k.rbase k.off d.val t.width 0 (redMax t.fmt (els a t.width)), seed := seed }
  | _ => { file := file, seed := seed }

/-- VFADD (Table 6.7). -/
def rawVfadd (d a b : Reg) (pg : Fin 8) (t : FTy) (sr : Bool) (s : State) : Eff := handOver (.vfadd d a b pg t sr) s
def execVfadd (d a b : Reg) (pg : Fin 8) (t : FTy) (sr : Bool) (s : State) : Host.Outcome State Fault Refusal :=
  lone (.vfadd d a b pg t sr) (rawVfadd d a b pg t sr) s
/-- VFSUB (Table 6.7). -/
def rawVfsub (d a b : Reg) (pg : Fin 8) (t : FTy) (sr : Bool) (s : State) : Eff := handOver (.vfsub d a b pg t sr) s
def execVfsub (d a b : Reg) (pg : Fin 8) (t : FTy) (sr : Bool) (s : State) : Host.Outcome State Fault Refusal :=
  lone (.vfsub d a b pg t sr) (rawVfsub d a b pg t sr) s
/-- VFMUL (Table 6.7). -/
def rawVfmul (d a b : Reg) (pg : Fin 8) (t : FTy) (sr : Bool) (s : State) : Eff := handOver (.vfmul d a b pg t sr) s
def execVfmul (d a b : Reg) (pg : Fin 8) (t : FTy) (sr : Bool) (s : State) : Host.Outcome State Fault Refusal :=
  lone (.vfmul d a b pg t sr) (rawVfmul d a b pg t sr) s
/-- VFMA (Table 6.7). -/
def rawVfma (d a b : Reg) (pg : Fin 8) (t : FTy) (sr : Bool) (s : State) : Eff := handOver (.vfma d a b pg t sr) s
def execVfma (d a b : Reg) (pg : Fin 8) (t : FTy) (sr : Bool) (s : State) : Host.Outcome State Fault Refusal :=
  lone (.vfma d a b pg t sr) (rawVfma d a b pg t sr) s
/-- VFMS (Table 6.7). -/
def rawVfms (d a b : Reg) (pg : Fin 8) (t : FTy) (sr : Bool) (s : State) : Eff := handOver (.vfms d a b pg t sr) s
def execVfms (d a b : Reg) (pg : Fin 8) (t : FTy) (sr : Bool) (s : State) : Host.Outcome State Fault Refusal :=
  lone (.vfms d a b pg t sr) (rawVfms d a b pg t sr) s
/-- VFMIN (Table 6.7). -/
def rawVfmin (d a b : Reg) (pg : Fin 8) (t : FTy) (s : State) : Eff := handOver (.vfmin d a b pg t) s
def execVfmin (d a b : Reg) (pg : Fin 8) (t : FTy) (s : State) : Host.Outcome State Fault Refusal :=
  lone (.vfmin d a b pg t) (rawVfmin d a b pg t) s
/-- VFMAX (Table 6.7). -/
def rawVfmax (d a b : Reg) (pg : Fin 8) (t : FTy) (s : State) : Eff := handOver (.vfmax d a b pg t) s
def execVfmax (d a b : Reg) (pg : Fin 8) (t : FTy) (s : State) : Host.Outcome State Fault Refusal :=
  lone (.vfmax d a b pg t) (rawVfmax d a b pg t) s
/-- VFABS (Table 6.7). -/
def rawVfabs (d a : Reg) (pg : Fin 8) (t : FTy) (s : State) : Eff := handOver (.vfabs d a pg t) s
def execVfabs (d a : Reg) (pg : Fin 8) (t : FTy) (s : State) : Host.Outcome State Fault Refusal :=
  lone (.vfabs d a pg t) (rawVfabs d a pg t) s
/-- VFCMP (Table 6.7). -/
def rawVfcmp (d a b : Reg) (pg : Fin 8) (t : FTy) (lt : Bool) (s : State) : Eff := handOver (.vfcmp d a b pg t lt) s
def execVfcmp (d a b : Reg) (pg : Fin 8) (t : FTy) (lt : Bool) (s : State) : Host.Outcome State Fault Refusal :=
  lone (.vfcmp d a b pg t lt) (rawVfcmp d a b pg t lt) s
/-- VFCVT (R123). -/
def rawVfcvt (d a : Reg) (pg : Fin 8) (dt st : ETy) (sr : Bool) (s : State) : Eff := handOver (.vfcvt d a pg dt st sr) s
def execVfcvt (d a : Reg) (pg : Fin 8) (dt st : ETy) (sr : Bool) (s : State) : Host.Outcome State Fault Refusal :=
  lone (.vfcvt d a pg dt st sr) (rawVfcvt d a pg dt st sr) s
/-- VFRND (R124). -/
def rawVfrnd (d a : Reg) (pg : Fin 8) (t : FTy) (m : RMode) (s : State) : Eff := handOver (.vfrnd d a pg t m) s
def execVfrnd (d a : Reg) (pg : Fin 8) (t : FTy) (m : RMode) (s : State) : Host.Outcome State Fault Refusal :=
  lone (.vfrnd d a pg t m) (rawVfrnd d a pg t m) s
/-- VADDX (R125). -/
def rawVaddx (d a b : Reg) (pg : Fin 8) (t : FTy) (s : State) : Eff := handOver (.vaddx d a b pg t) s
def execVaddx (d a b : Reg) (pg : Fin 8) (t : FTy) (s : State) : Host.Outcome State Fault Refusal :=
  lone (.vaddx d a b pg t) (rawVaddx d a b pg t) s
/-- VSUBX (R125). -/
def rawVsubx (d a b : Reg) (pg : Fin 8) (t : FTy) (s : State) : Eff := handOver (.vsubx d a b pg t) s
def execVsubx (d a b : Reg) (pg : Fin 8) (t : FTy) (s : State) : Host.Outcome State Fault Refusal :=
  lone (.vsubx d a b pg t) (rawVsubx d a b pg t) s
/-- VMULX (R125). -/
def rawVmulx (d a b : Reg) (pg : Fin 8) (t : FTy) (s : State) : Eff := handOver (.vmulx d a b pg t) s
def execVmulx (d a b : Reg) (pg : Fin 8) (t : FTy) (s : State) : Host.Outcome State Fault Refusal :=
  lone (.vmulx d a b pg t) (rawVmulx d a b pg t) s
/-- DWADD (R126). -/
def rawDwadd (d a b : Reg) (pg : Fin 8) (s : State) : Eff := handOver (.dwadd d a b pg) s
def execDwadd (d a b : Reg) (pg : Fin 8) (s : State) : Host.Outcome State Fault Refusal :=
  lone (.dwadd d a b pg) (rawDwadd d a b pg) s
/-- DWSUB (R126). -/
def rawDwsub (d a b : Reg) (pg : Fin 8) (s : State) : Eff := handOver (.dwsub d a b pg) s
def execDwsub (d a b : Reg) (pg : Fin 8) (s : State) : Host.Outcome State Fault Refusal :=
  lone (.dwsub d a b pg) (rawDwsub d a b pg) s
/-- DWMUL (R127). -/
def rawDwmul (d a b : Reg) (pg : Fin 8) (s : State) : Eff := handOver (.dwmul d a b pg) s
def execDwmul (d a b : Reg) (pg : Fin 8) (s : State) : Host.Outcome State Fault Refusal :=
  lone (.dwmul d a b pg) (rawDwmul d a b pg) s
/-- DWNORM (R128). -/
def rawDwnorm (d a : Reg) (pg : Fin 8) (s : State) : Eff := handOver (.dwnorm d a pg) s
def execDwnorm (d a : Reg) (pg : Fin 8) (s : State) : Host.Outcome State Fault Refusal :=
  lone (.dwnorm d a pg) (rawDwnorm d a pg) s
/-- VSUM (R130). -/
def rawVsum (d a : Reg) (pg : Fin 8) (t : FTy) (s : State) : Eff := handOver (.vsum d a pg t) s
def execVsum (d a : Reg) (pg : Fin 8) (t : FTy) (s : State) : Host.Outcome State Fault Refusal :=
  lone (.vsum d a pg t) (rawVsum d a pg t) s
/-- VSUMC (R131). -/
def rawVsumc (d a : Reg) (pg : Fin 8) (s : State) : Eff := handOver (.vsumc d a pg) s
def execVsumc (d a : Reg) (pg : Fin 8) (s : State) : Host.Outcome State Fault Refusal :=
  lone (.vsumc d a pg) (rawVsumc d a pg) s
/-- VREDMAX (R132). -/
def rawVredmax (d a : Reg) (pg : Fin 8) (t : FTy) (s : State) : Eff := handOver (.vredmax d a pg t) s
def execVredmax (d a : Reg) (pg : Fin 8) (t : FTy) (s : State) : Host.Outcome State Fault Refusal :=
  lone (.vredmax d a pg t) (rawVredmax d a pg t) s
/-- VSCALE (Table 6.7). -/
def rawVscale (d a b : Reg) (pg : Fin 8) (t : FTy) (sr : Bool) (s : State) : Eff := handOver (.vscale d a b pg t sr) s
def execVscale (d a b : Reg) (pg : Fin 8) (t : FTy) (sr : Bool) (s : State) : Host.Outcome State Fault Refusal :=
  lone (.vscale d a b pg t sr) (rawVscale d a b pg t sr) s
/-- VSFU (R133, R134). -/
def rawVsfu (d a : Reg) (pg : Fin 8) (t : FTy) (f : SfuFn) (s : State) : Eff := handOver (.vsfu d a pg t f) s
def execVsfu (d a : Reg) (pg : Fin 8) (t : FTy) (f : SfuFn) (s : State) : Host.Outcome State Fault Refusal :=
  lone (.vsfu d a pg t f) (rawVsfu d a pg t f) s

end Sys2Proof.Machine
end

