-- ==== Sys2Proof/Machine/Fetch.lean ====
section
/-!
DEFINITION. Instruction fetch: mem(pc, 4) of R27 through the instruction-fetch TLB (R265 to R268).
-/
namespace Sys2Proof.Machine

/-- What the fetch of one word gives. -/
inductive Fetched where
  | word (w : Nat)
  | fault (f : FaultInfo)
  | miss (va : Nat)
  deriving DecidableEq, Repr

/-- A flush covers the code log's entry `e`, the n-th that was made, for a fetch at virtual address `va` (R67). -/
def FetchFlush.covers (f : FetchFlush) (va n : Nat) (e : OldWord) : Bool :=
  decide ((va + 2 ^ 54 - f.lo) % 2 ^ 54 < f.len) && decide (n < f.upTo) && (f.all || e.id < Tab.get 0 e.agent f.known)
/-- The older words that a fetch by core k may give at virtual address `va`, physical `pa` (R67): what stood there before each store that
follows the last one that a flush covers. -/
def State.oldWords (s : State) (k va pa : Nat) : List Nat :=
  let n := s.codeLog.length
  let at_ := (s.codeLog.mapIdx fun i e => (n - 1 - i, e)).filter fun x => x.2.word == pa / 4
  (at_.takeWhile fun x => !(s.core k).flushes.any fun f => f.covers va x.1 x.2).map (·.2.old)
/-- The word that core k fetches: what stands in memory, or an older word that no flush has covered, unpredictably (R67, log 29). -/
def State.codeWord (s : State) (k va pa : Nat) : Nat :=
  match s.oldWords k va pa with
  | [] => s.readN pa 4
  | l => l.getD (Config.fetchOld s.freeCtr k pa % (l.length + 1)) (s.readN pa 4)

/-- The word at `pc` for strand (c, t): no translation 0x09, no execute right 0x0A, an uncorrectable error 0x0B. -/
def State.fetchWord (s : State) (c t : Nat) (pc : VAddr) : Fetched :=
  let k := s.streamCore c t
  let a := pc.toNat
  match s.translate k .fetch (s.strand k t).regs.asid .fetch a with
  | .miss va => .miss va
  | .fault f => .fault f
  | .ok l =>
    match l with
    | pa :: _ =>
      if s.peerDown pa then .fault { code := 0x15, acc := 4, eva := a }
      else if (match tcmCore pa with | some q => s.fencedTo k q | none => false) then .fault { code := 0x16, acc := 4, eva := a }
      else if s.badWords.contains (pa / 4) then .fault { code := 0x0B, acc := 4, eva := a }
      else .word (s.codeWord k a pa)
    | [] => .fault { code := 0x09, acc := 4, eva := a }

/-- A decoded bundle: one word, or a control word with an arithmetic word. -/
inductive Bundle where
  | lone (i : Instr)
  | pair (i j : Instr)
  deriving DecidableEq, Repr
/-- What decoding at an address gives. -/
inductive BundleRes where
  | bundle (b : Bundle)
  | fault (f : FaultInfo) (word : Bool)
  | miss (va : Nat)
  deriving DecidableEq, Repr

/-- Steps 1 to 6 of Table 3.9 at `pc` (R27, R42, R43): at each step the control word comes before the arithmetic word. DESIGN CHOICE (log 14):
CAUSE.WORD names the control word for every 0x03 of step 3, also where it is the second word that breaks the class rule; neither Table 14.1 nor R253
says which word such a fault names. -/
def State.fetchBundle (s : State) (c t : Nat) (pc : VAddr) : BundleRes :=
  let sup := (s.strand c t).stat.sup
  match s.fetchWord c t pc with
  | .miss va => .miss va
  | .fault f => .fault f false
  | .word w =>
    if w / 2 ^ 31 = 1 then
      match decodeWord w with
      | .opcode => .fault { code := 0x01 } false
      | d =>
        if privileged w && !sup then .fault { code := 0x05 } false
        else match d with
          | .instr i => .bundle (.lone i)
          | _ => .fault { code := 0x02 } false
    else if pc.toNat % 8 ≠ 0 then .fault { code := 0x04 } false
    else
      match s.fetchWord c t (nextPc pc 4) with
      | .miss va => .miss va
      | .fault f => .fault f true
      | .word v =>
        if w / 2 ^ 30 % 2 = 1 || v / 2 ^ 31 = 1 || v / 2 ^ 30 % 2 = 0 then .fault { code := 0x03 } false
        else
          match decodeWord w, decodeWord v with
          | .opcode, _ => .fault { code := 0x01 } false
          | _, .opcode => .fault { code := 0x01 } true
          | d, e =>
            if privileged w && !sup then .fault { code := 0x05 } false
            else match d, e with
              | .instr i, .instr j => .bundle (.pair i j)
              | .instr _, _ => .fault { code := 0x02 } true
              | _, _ => .fault { code := 0x02 } false

end Sys2Proof.Machine
end

