-- ==== Sys2Proof/Machine/VectorMem.lean ====
section
/-!
DEFINITION. Vector memory instructions, 0x60 to 0x67 (R103 to R105): handed over at issue, and what their sequencer entries do.
-/
namespace Sys2Proof.Machine

/-- What a sequencer entry's execution answers. -/
inductive SeqOut where
  | done (s : State)
  | fault (f : FaultInfo)
  | wait
  | miss (va : Nat)

/-- ea plus a signed byte offset, within 54 bits. -/
def eaAdd (ea : Nat) (k : Int) : Nat := (((ea : Nat) : Int) + k) % (2 ^ 54 : Nat) |>.toNat
/-- es (R103). -/
def elemSize (f w : Nat) : Nat := if f = 0 then w / 8 else accsize f
/-- Formats without strided, gathered or scattered access (R103). -/
def isBlocked (f : Nat) : Bool := isMx f || f == 0x18 || f == 0x19
def isVecStore : Instr → Bool
  | .vst _ _ _ _ | .vsts _ _ _ _ _ | .vstg _ _ _ _ _ => true
  | _ => false
/-- The format check of a vector memory instruction (R86, R89, R103, R104, R87). -/
def vecFormatOk (i : Instr) (f blk w : Nat) : Bool :=
  let row := match fmtWidths f with | some (_, l) => l.contains w | none => false
  let shape := match i with
    | .vlds _ _ _ _ _ | .vsts _ _ _ _ _ => !isBlocked f
    | .vldg _ _ _ _ _ | .vstg _ _ _ _ _ => !isBlocked f
    | .vst _ _ _ _ => f != 0x19
    | _ => true
  usable f blk && row && shape
/-- The lowest-numbered element of a store to TAB8 that is not a NaN, where the decode table has no unflagged entry (R87). -/
def tabUnencodable (t : Option (BitVec 8192)) (i : Instr) (f w : Nat) (els : List Nat) : Option Nat :=
  if isVecStore i && f == 0x18 && tabK t == 0 then els.findIdx? fun r => !((regFmt f w).val (r % 2 ^ w)).isNan else none

/-- The pieces that an entry accesses, in increasing element order: address and bytes; `iter` is the loop's pass (R117). -/
def vecPieces (k : VCtx) (e : SeqEntry) (iter : Nat) : List (Nat × Nat) :=
  let p := e.xa.ptr
  let f := fmtof p
  let es := elemSize f e.pwidth
  let base := vaof p
  let be := blockElems f (blkof p)
  let bb := blockBytes f (blkof p)
  match e.instr with
  | .vld _ _ _ _ | .vst _ _ _ _ | .vldsy _ _ _ _ =>
    if isMx f || f = 0x19 then
      let n := (e.pcount + be - 1) / be
      (span 0 n).map fun j => (eaAdd base ((iter * n + j) * bb : Nat), bb)
    else (span 0 e.pcount).map fun j => (eaAdd base ((iter * e.pcount + j) * es : Nat), es)
  | .vlds _ _ _ _ _ | .vsts _ _ _ _ _ =>
    (span 0 e.pcount).map fun j => (eaAdd base ((iter * e.pcount + j : Nat) * e.xb.val.toInt), es)
  | .vldg _ _ b _ _ | .vstg _ _ b _ _ => (span 0 e.pcount).map fun j => (eaAdd base (sext (k.el b 32 j) 32), es)
  | .vldb _ _ _ _ => [(base, if isMx f || f = 0x19 then bb else es)]
  | _ => []

/-- Every piece checked in order (R93, R105): the bytes of each, or the first fault or miss. -/
def State.vecCheck (s : State) (c t : Nat) (e : SeqEntry) (m : Mode) (acc : AccKind) (align : Nat) (fe : Bool) :
    List (Nat × Nat) → Except SeqOut (List (List Nat))
  | [] => .ok []
  | (ea, n) :: l =>
    match s.check c e.sup (s.strand c t).regs.asid .loadStore acc m ea n (if align = 0 then n else align) fe with
    | .fault f => .error (.fault f)
    | .miss va => .error (.miss va)
    | .ok bytes =>
      match s.vecCheck c t e m acc align fe l with
      | .ok r => .ok (bytes :: r)
      | r => r
/-- The first uncorrectable word among the pieces (R93). -/
def State.vecBad (s : State) : List (Nat × Nat) → List (List Nat) → Option Nat
  | p :: ps, b :: bs =>
    match (span p.1 p.2).zip b |>.find? fun x => s.badWords.contains (x.2 / 4) with
    | some x => some (x.1 / 4 * 4)
    | none => s.vecBad ps bs
  | _, _ => none

/-- Register bits of element j of a load whose pieces hold the numbers `l` (R104, Table 5.5). -/
def vecLoaded (t : Option (BitVec 8192)) (f blk w : Nat) (bcast : Bool) (l : List Nat) (j : Nat) : Nat :=
  let be := blockElems f blk
  let b := l.getD (if bcast then 0 else j / be) 0
  if isMx f || f = 0x19 then toReg f w (blockVal f blk t b (if bcast then 0 else j % be)) else loadElem f w t b
/-- What a vector load's entry does once its pieces are checked: an uncorrectable error is met where data return (R93), and nothing is written while an earlier access to the bytes is
still to be performed (R102). -/
def State.vecLoad (s : State) (c t : Nat) (k : VCtx) (e : SeqEntry) (d : Reg) (bcast sync : Bool) (ps : List (Nat × Nat))
    (bs : List (List Nat)) : SeqOut :=
  let st := s.strand c t
  let p := e.xa.ptr
  let all := bs.flatten
  if st.holdsBytes all || (sync && !s.allFull (wordsOf all)) then .wait
  else
    match s.vecBad ps bs with
    | some ea => .fault { code := 0x1E, acc := 1, eva := ea }
    | none =>
      let l := bs.map s.readB
      let o := k.map st.v st.seed d e.pwidth fun j sd =>
        { bits := vecLoaded (s.core c).dtab (fmtof p) (blkof p) e.pwidth bcast l j, seed := sd }
      .done ((s.setStrand c t ({ st with v := o.file }.loadsFrom all (s.recordsAt all) e.arm)).moved c all)

/-- The stored values piece by piece, with VSTAT's flags and SEED (R104). -/
def vecStored (t : Option (BitVec 8192)) (f w : Nat) (els : List Nat) (seed : Word) : List Nat × VFlags × Word :=
  els.foldl (fun (o : List Nat × VFlags × Word) r =>
    let x := storeElem f w t o.2.2 r
    (o.1 ++ [x.bits], o.2.1.or x.flags, x.seed)) ([], {}, seed)
/-- Blocks of an MX store; elements past the count are +0 (R104). -/
def mxStored (f w : Nat) (els : List Nat) : Nat → Nat → Word → List Nat × VFlags × Word
  | _, 0, seed => ([], {}, seed)
  | j, n + 1, seed =>
    let vs := (span (32 * j) 32).map fun i =>
      match els[i]? with
      | some r => (regFmt f w).val r
      | none => FVal.num false 0 0
    let r := mxEncode f seed vs
    let (l, fl, sd) := mxStored f w els (j + 1) n r.seed
    (r.bits :: l, (vflags r.flags).or fl, sd)
/-- Concatenates values of the given byte counts, the first lowest. -/
def joinVals : List (Nat × Nat) → Nat
  | [] => 0
  | (n, v) :: l => v % 2 ^ (8 * n) + 2 ^ (8 * n) * joinVals l
/-- What a vector store's entry does: its flags, SEED, and an access that waits to be performed (R102, R220). -/
def State.vecStore (s : State) (c t : Nat) (k : VCtx) (e : SeqEntry) (d : Reg) (bs : List (List Nat)) : SeqOut :=
  let st := s.strand c t
  let f := fmtof e.xa.ptr
  let els := (span 0 e.pcount).map (k.el d e.pwidth)
  let (vals, fl, seed) :=
    if isMx f then mxStored f e.pwidth els 0 bs.length st.seed else vecStored (s.core c).dtab f e.pwidth els st.seed
  let data := joinVals ((bs.map List.length).zip vals)
  let a : Access := { id := s.nextId, op := .store, bytes := bs.flatten, data := data, parts := bs.map List.length, vec := true, ea := vaof e.xa.ptr, fence := e.fence, ord := some e.ord }
  .done (({ s with nextId := s.nextId + 1 } : State).setStrand c t
    { st with vstat := st.vstat.or fl, seed := seed, out := st.out ++ [a] })

/-- The entry has used its pieces' translations (R265), its access those that stand there (R269); `n` is the next access's number before
it. -/
def SeqOut.used (c t n : Nat) (m : Mode) (asid : BitVec 16) (ps : List (Nat × Nat)) : SeqOut → SeqOut
  | .done s => if m = .G then .done ((s.tagAccesses c t n (s.lsEntries c asid ps)).useTlb c .loadStore asid ps) else .done s
  | o => o
/-- What an entry of the vector memory instructions does when it executes (R103 to R105): EVA is the address of the lowest-numbered element whose
checks fail, the first element's for a format or width that no element may have. -/
def State.vecMemRun (s : State) (c t : Nat) (k : VCtx) (e : SeqEntry) (iter : Nat) (d : Reg) (m : Mode) (sync : Bool) : SeqOut :=
  let p := e.xa.ptr
  let f := fmtof p
  let store := isVecStore e.instr
  let ps := vecPieces k e iter
  if !vecFormatOk e.instr f (blkof p) e.pwidth then .fault { code := 0x13, eva := (ps.headD (vaof p, 0)).1 }
  else
    let bad := tabUnencodable (s.core c).dtab e.instr f e.pwidth ((span 0 e.pcount).map (k.el d e.pwidth))
    match s.vecCheck c t e m (if store then .store else .load) (if isMx f || f = 0x19 then 1 else 0) sync (match bad with | some j => ps.take j | none => ps) with
    | .error r => r
    | .ok bs =>
      match bad with
      | some j => .fault { code := 0x13, eva := (ps.getD j (vaof p, 0)).1 }
      | none =>
      (if store then s.vecStore c t k e d bs
      else s.vecLoad c t k e d (match e.instr with | .vldb _ _ _ _ => true | _ => false) sync ps bs).used c t
        s.nextId m (s.strand c t).regs.asid ps

/-- VLD (Table 5.12). -/
def rawVld (d a : Reg) (pg : Fin 8) (m : Mode) (s : State) : Eff := handOver (.vld d a pg m) s
def execVld (d a : Reg) (pg : Fin 8) (m : Mode) (s : State) : Host.Outcome State Fault Refusal :=
  lone (.vld d a pg m) (rawVld d a pg m) s
/-- VLDS (Table 5.12). -/
def rawVlds (d a b : Reg) (pg : Fin 8) (m : Mode) (s : State) : Eff := handOver (.vlds d a b pg m) s
def execVlds (d a b : Reg) (pg : Fin 8) (m : Mode) (s : State) : Host.Outcome State Fault Refusal :=
  lone (.vlds d a b pg m) (rawVlds d a b pg m) s
/-- VLDG (Table 5.12). -/
def rawVldg (d a b : Reg) (pg : Fin 8) (m : Mode) (s : State) : Eff := handOver (.vldg d a b pg m) s
def execVldg (d a b : Reg) (pg : Fin 8) (m : Mode) (s : State) : Host.Outcome State Fault Refusal :=
  lone (.vldg d a b pg m) (rawVldg d a b pg m) s
/-- VST (Table 5.12). -/
def rawVst (d a : Reg) (pg : Fin 8) (m : Mode) (s : State) : Eff := handOver (.vst d a pg m) s
def execVst (d a : Reg) (pg : Fin 8) (m : Mode) (s : State) : Host.Outcome State Fault Refusal :=
  lone (.vst d a pg m) (rawVst d a pg m) s
/-- VSTS (Table 5.12). -/
def rawVsts (d a b : Reg) (pg : Fin 8) (m : Mode) (s : State) : Eff := handOver (.vsts d a b pg m) s
def execVsts (d a b : Reg) (pg : Fin 8) (m : Mode) (s : State) : Host.Outcome State Fault Refusal :=
  lone (.vsts d a b pg m) (rawVsts d a b pg m) s
/-- VSTG (Table 5.12). -/
def rawVstg (d a b : Reg) (pg : Fin 8) (m : Mode) (s : State) : Eff := handOver (.vstg d a b pg m) s
def execVstg (d a b : Reg) (pg : Fin 8) (m : Mode) (s : State) : Host.Outcome State Fault Refusal :=
  lone (.vstg d a b pg m) (rawVstg d a b pg m) s
/-- VLDB (Table 5.12). -/
def rawVldb (d a : Reg) (pg : Fin 8) (m : Mode) (s : State) : Eff := handOver (.vldb d a pg m) s
def execVldb (d a : Reg) (pg : Fin 8) (m : Mode) (s : State) : Host.Outcome State Fault Refusal :=
  lone (.vldb d a pg m) (rawVldb d a pg m) s
/-- VLDSY (Table 5.12). -/
def rawVldsy (d a : Reg) (pg : Fin 8) (m : Mode) (s : State) : Eff := handOver (.vldsy d a pg m) s
def execVldsy (d a : Reg) (pg : Fin 8) (m : Mode) (s : State) : Host.Outcome State Fault Refusal :=
  lone (.vldsy d a pg m) (rawVldsy d a pg m) s

end Sys2Proof.Machine
end

