-- ==== Sys2Proof/Machine/VectorCtl.lean ====
section
/-!
DEFINITION. Vector control, 0x70 to 0x79 (R108, R109, R112, R117 to R120).
-/
namespace Sys2Proof.Machine

/-- VCLAIM (R108): the request waits for an empty sequencer and is then on its way to the octet, which serves the requests of a fabric
cycle in order (`State.serveClaims`) and writes Xd; the strand issues nothing meanwhile. -/
def rawVclaim (d : Reg) (n : BitVec 7) (s : State) : Eff :=
  if !s.me.seqEmpty then .wait
  else
    let st := s.me
    onStrand s { st.xbusy d.val with claim := some { n := n.toNat, xd := st.xplace d.val } }
def execVclaim (d : Reg) (n : BitVec 7) (s : State) : Host.Outcome State Fault Refusal :=
  lone (.vclaim d n) (rawVclaim d n) s
/-- VFREE (R109): with LANES = 0 it has no effect. -/
def rawVfree (s : State) : Eff :=
  if !s.me.seqEmpty then .wait
  else if s.me.nlanes = 0 then .done s
  else
    let s1 := (s.returnLanes s.curCore s.curStrand).freeV s.curCore s.curStrand
    .done (s1.liftCaps s.curCore (s.core s.curCore).part.partner)
def execVfree (s : State) : Host.Outcome State Fault Refusal := lone .vfree rawVfree s

/-! ## VSEQ and VREP -/

/-- A word that may stand in a loop's body (R117). -/
def bodyWord (i : Instr) : Bool :=
  i.memPred.isSome || (match i with
    | .vext _ _ _ _ _ => false
    | .rsendv _ _ _ => false
    | i => i.govern.isSome)
/-- The body: each word with its bundle's address, the next bundle's, and its place in a pair (0 lone, 1 control, 2 arithmetic). -/
structure BodyWord where
  instr : Instr
  pc : VAddr
  npc : VAddr
  place : Nat := 0
  deriving DecidableEq, Repr
inductive BodyRes where
  | body (l : List BodyWord) (after : VAddr) (bundles : Nat)
  | trap (f : FaultInfo)
  | miss (va : Nat)
  deriving DecidableEq, Repr
/-- Reads `n` words from `pc`, as lone words or pairs of one another; a word that may not stand in a body raises 0x02 (log 19). -/
def State.readBody (s : State) (c t : Nat) : Nat → VAddr → BodyRes
  | 0, pc => .body [] pc 0
  | 1, pc =>
    match s.fetchBundle c t pc with
    | .miss va => .miss va
    | .fault f _ => .trap (if f.code = 0x09 ∨ f.code = 0x0A ∨ f.code = 0x0B ∨ f.code = 0x15 ∨ f.code = 0x16 then f else { code := 0x02 })
    | .bundle (.lone i) =>
      if bodyWord i then .body [{ instr := i, pc := pc, npc := nextPc pc 4 }] (nextPc pc 4) 1 else .trap { code := 0x02 }
    | .bundle (.pair _ _) => .trap { code := 0x02 }
  | n + 2, pc =>
    match s.fetchBundle c t pc with
    | .miss va => .miss va
    | .fault f _ => .trap (if f.code = 0x09 ∨ f.code = 0x0A ∨ f.code = 0x0B ∨ f.code = 0x15 ∨ f.code = 0x16 then f else { code := 0x02 })
    | .bundle (.lone i) =>
      if !bodyWord i then .trap { code := 0x02 }
      else
        match s.readBody c t (n + 1) (nextPc pc 4) with
        | .body l after k => .body ({ instr := i, pc := pc, npc := nextPc pc 4 } :: l) after (k + 1)
        | r => r
    | .bundle (.pair i j) =>
      if !(bodyWord i && bodyWord j) then .trap { code := 0x02 }
      else
        match s.readBody c t n (nextPc pc 8) with
        | .body l after k =>
          .body ({ instr := i, pc := pc, npc := nextPc pc 8, place := 1 } :: { instr := j, pc := pc, npc := nextPc pc 8, place := 2 } :: l) after (k + 1)
        | r => r

/-- Every RBASE that a loop's passes take, each once (R117). -/
def loopBases (rbase count step : Nat) : List Nat := ((span 0 (Nat.min count 16)).map fun k => (rbase + k * step) % 16).eraseDups
/-- Steps 7 to 9 of Table 3.9 for a body, for every RBASE that the loop takes, and then the group and lane checks (R113, R116 to R118): a
count of 0 takes no RBASE and executes nothing, so that only the checks on operand numbers are left. -/
def Strand.bodyChecks (st : Strand) (rep : Bool) (count step : Nat) (body : List BodyWord) : Option Nat :=
  let bases := if rep then [st.rbase.toNat] else loopBases st.rbase.toNat count step
  let bases := if count = 0 then [] else bases
  let pairOdd := body.any fun w => st.regChecks st.rbase.toNat w.instr == some 0x06
  let straddle := body.any fun w => bases.any fun b => st.regChecks b w.instr == some 0x07
  let low (i : Instr) : List VOp := (vOps i (st.captured i).2).filter fun o => o.n < 16
  let odd := rep && step % 2 == 1 && body.any fun w => (low w.instr).any fun o => o.pair
  let past := rep && count != 0 && body.any fun w =>
    !st.noOp w.instr && (low w.instr).any fun o => 15 < o.n + o.len st.nlanes (st.captured w.instr).1 - 1 + (count - 1) * step
  let same := (body.zip (body.drop 1)).any fun x => x.1.place == 1 && x.2.place == 2 && st.sameDest x.1.instr x.2.instr
  let groups := if count = 0 then none else body.findSome? fun w => if st.noOp w.instr then none else st.groupChecks w.instr
  if pairOdd || odd then some 0x06
  else if straddle then some 0x07
  else if same then some 0x03
  else if groups.isSome then groups
  else if past then some 0x02
  else none
/-- VSEQ and VREP (R117, R118): the whole body is handed over, or nothing. DESIGN CHOICE (log 19): where the body's bundles carry YCNT past YBOUND,
the VSEQ or VREP itself takes the 0x38, before any effect (R51). -/
def loopOver (a : Reg) (len step : BitVec 4) (rep : Bool) (s : State) : Eff :=
  let st := s.me
  let n := len.toNat + 1
  let count := (st.xr a.val).toNat
  match s.readBody s.curCore s.curStrand n st.npc with
  | .miss va => .miss .fetch va
  | .trap f => .trap f
  | .body l after bundles =>
    if !(l.all fun w => w.instr.xReads.all st.canRead) then .wait
    else if 2 ^ 32 ≤ count then trapCode 0x02
    else
      match st.bodyChecks rep count step.toNat l with
      | some code => trapCode code
      | none =>
        if st.ybound.toNat < st.ycnt.toNat + bundles then trapCode 0x38
        else if count = 0 then
          let i : Instr := if rep then .vrep a len step else .vseq a len step
          let s1 := s.recordLoop i (l.map fun w => { st.entry w.instr with pairHead := w.place == 1 })
          onStrand s1 { st with npc := after, ycnt := st.ycnt + BitVec.ofNat 32 bundles }
        else if !st.seqRoom n || st.loop.isSome then .wait
        else
          let es := l.map fun w =>
            { st.entry w.instr with pc := w.pc, npc := w.npc, inLoop := true, pairHead := w.place == 1, arith := w.place == 2, ord := s.nextId, handed := s.time }
          let lr : LoopReg := { rep := rep, count := count, step := step.toNat, len := n, rbase := st.rbase.toNat }
          .done (({ s with nextId := s.nextId + 1 } : State).setMe { st with
            seq := st.seq ++ es, loop := some lr, npc := after, ycnt := st.ycnt + BitVec.ofNat 32 bundles
            rbase := if rep then st.rbase else BitVec.ofNat 4 (st.rbase.toNat + count * step.toNat)
            readRecs := st.readRecs ++ l.flatMap fun w => st.relsRead w.instr })

/-- VSEQ Xa, #len, #step (R117). -/
def rawVseq (a : Reg) (len step : BitVec 4) (s : State) : Eff := loopOver a len step false s
def execVseq (a : Reg) (len step : BitVec 4) (s : State) : Host.Outcome State Fault Refusal :=
  lone (.vseq a len step) (rawVseq a len step) s
/-- VREP Xa, #len, #stride (R118). -/
def rawVrep (a : Reg) (len stride : BitVec 4) (s : State) : Eff := loopOver a len stride true s
def execVrep (a : Reg) (len stride : BitVec 4) (s : State) : Host.Outcome State Fault Refusal :=
  lone (.vrep a len stride) (rawVrep a len stride) s

/-! ## Predicates, RBASE, the decode table -/

/-- A P register's bits (R112). -/
def predBits (count : Nat) (w : Width) : BitVec 18 := BitVec.ofNat 18 (w.code * 2 ^ 16 + count)
def setPred (s : State) (d : Fin 8) (b : BitVec 18) : Eff := onStrand s { s.me with p := Tab.put d.val b s.me.p }
/-- PSET.w Pd, Xa (R112). -/
def rawPset (d : Fin 8) (a : Reg) (w : Width) (s : State) : Eff := setPred s d (predBits (Nat.min (s.me.xr a.val).toNat 65535) w)
def execPset (d : Fin 8) (a : Reg) (w : Width) (s : State) : Host.Outcome State Fault Refusal :=
  lone (.pset d a w) (rawPset d a w) s
/-- PSETI Pd, #c, #w (R112). -/
def rawPseti (d : Fin 8) (c : BitVec 16) (w : Width) (s : State) : Eff := setPred s d (predBits c.toNat w)
def execPseti (d : Fin 8) (c : BitVec 16) (w : Width) (s : State) : Host.Outcome State Fault Refusal :=
  lone (.pseti d c w) (rawPseti d c w) s
/-- PGET Xd, Pa (R112): P0 gives width code 2 and LANES. -/
def rawPget (d : Reg) (a : Fin 8) (s : State) : Eff :=
  writeX s d (if a.val = 0 then wordN (2 * 2 ^ 16 + elems s.me.nlanes 32) else wordOf (Tab.get 0 a.val s.me.p))
def execPget (d : Reg) (a : Fin 8) (s : State) : Host.Outcome State Fault Refusal :=
  lone (.pget d a) (rawPget d a) s
/-- RBSET #v: a sequencer entry (R119). -/
def rawRbset (v : BitVec 4) (s : State) : Eff :=
  let st := s.me
  pushEntry s { st with rbase := v } { st.entry (.rbset v) with rbase := v.toNat }
def execRbset (v : BitVec 4) (s : State) : Host.Outcome State Fault Refusal :=
  lone (.rbset v) (rawRbset v) s
/-- RBGET Xd: writes the RBASE that its entry sees (R119). -/
def rawRbget (d : Reg) (s : State) : Eff :=
  let st := s.me
  pushEntry s (st.xbusy d.val) { st.entry (.rbget d) with xd := st.xplace d.val }
def execRbget (d : Reg) (s : State) : Host.Outcome State Fault Refusal :=
  lone (.rbget d) (rawRbget d) s
/-- Nothing that any strand of the core issued still uses the old table (R120, log 41), what a deferred fault holds among it. -/
def Core.tableIdle (k : Core) : Bool :=
  k.churnQ.isEmpty && k.churnRun.isNone && k.engQ.isEmpty && k.engRun.isNone
    && k.part.strands.all fun e => e.2.seq.isEmpty && e.2.seqHeld.isEmpty && e.2.churnHeld.isEmpty
/-- DTLOAD m:[Xa] (R120, R85). -/
def rawDtload (a : Reg) (m : Mode) (s : State) : Eff :=
  let st := s.me
  let ea := vaof (st.xptr a.val)
  if !st.seqEmpty then .wait
  else
    onBytes (s.accessBytes .load m ea 1024 4 false) fun bytes =>
      if !s.myCore.tableIdle || st.holdsBytes bytes then .wait
      else
        let b : BitVec 8192 := BitVec.ofNat 8192 (s.readB bytes)
        if tableOk b then
          let s1 := (s.setMe (st.loadsFrom bytes (s.recordsAt bytes) st.promote)).moved s.curCore bytes
          .done (s1.setMyCore { s1.myCore with dtab := some b })
        else trapCode 0x13
def execDtload (a : Reg) (m : Mode) (s : State) : Host.Outcome State Fault Refusal :=
  lone (.dtload a m) (rawDtload a m) s

end Sys2Proof.Machine
end

