-- ==== Sys2Proof/Machine/Matrix.lean ====
section
/-!
DEFINITION. Matrix instructions, 0xD3 to 0xDD (R136 to R160): the Churn queue, and what its entries compute and check.
-/
namespace Sys2Proof.Machine

/-! ## Entering the queue -/

/-- A word enters the Churn queue of two entries (R151). -/
def pushChurn (i : Instr) (a : Reg) (len : Word) (s : State) : Eff :=
  let st := s.me
  let k := s.myCore
  if 2 ≤ k.churnQ.length then .wait
  else
    let r := st.xreg a.val
    let e : ChurnEntry :=
      { id := s.nextId, instr := i, strand := s.curStrand, pc := st.pc, npc := st.npc, sup := st.stat.sup, pa := r.ptr, marked := r.mark,
        len := len }
    .done (({ s with nextId := s.nextId + 1 } : State).setMyCore { k with churnQ := k.churnQ ++ [e] })

/-- MZERO Zc (Table 7.7). -/
def rawMzero (c : Fin 2) (s : State) : Eff := pushChurn (.mzero c) 0 0 s
def execMzero (c : Fin 2) (s : State) : Host.Outcome State Fault Refusal :=
  lone (.mzero c) (rawMzero c) s
/-- MMA Zc, #ga, #gb (R136). -/
def rawMma (c : Fin 2) (ga gb : Fin 4) (clr : Bool) (s : State) : Eff := pushChurn (.mma c ga gb clr) 0 0 s
def execMma (c : Fin 2) (ga gb : Fin 4) (clr : Bool) (s : State) : Host.Outcome State Fault Refusal :=
  lone (.mma c ga gb clr) (rawMma c ga gb clr) s
/-- MMAS Zc, #ga, #gb (R147). -/
def rawMmas (c : Fin 2) (ga gb : Fin 4) (clr : Bool) (s : State) : Eff := pushChurn (.mmas c ga gb clr) 0 0 s
def execMmas (c : Fin 2) (ga gb : Fin 4) (clr : Bool) (s : State) : Host.Outcome State Fault Refusal :=
  lone (.mmas c ga gb clr) (rawMmas c ga gb clr) s
/-- MSEMI.s (R148). -/
def rawMsemi (k : Semiring) (s : State) : Eff := pushChurn (.msemi k) 0 0 s
def execMsemi (k : Semiring) (s : State) : Host.Outcome State Fault Refusal :=
  lone (.msemi k) (rawMsemi k) s
/-- MPROG m:[Xa] (R149). -/
def rawMprog (a : Reg) (m : Mode) (s : State) : Eff := pushChurn (.mprog a m) a 0 s
def execMprog (a : Reg) (m : Mode) (s : State) : Host.Outcome State Fault Refusal :=
  lone (.mprog a m) (rawMprog a m) s
/-- MRUN Zc, #ga, #gb (R150). -/
def rawMrun (c : Fin 2) (ga gb : Fin 4) (clr : Bool) (s : State) : Eff := pushChurn (.mrun c ga gb clr) 0 0 s
def execMrun (c : Fin 2) (ga gb : Fin 4) (clr : Bool) (s : State) : Host.Outcome State Fault Refusal :=
  lone (.mrun c ga gb clr) (rawMrun c ga gb clr) s
/-- MSTZ.f m:[Xa], Zc (R153). -/
def rawMstz (a : Reg) (c : Fin 2) (m : Mode) (f : ZFmt) (s : State) : Eff := pushChurn (.mstz a c m f) a 0 s
def execMstz (a : Reg) (c : Fin 2) (m : Mode) (f : ZFmt) (s : State) : Host.Outcome State Fault Refusal :=
  lone (.mstz a c m f) (rawMstz a c m f) s
/-- MLDZ Zc, m:[Xa] (R153). -/
def rawMldz (c : Fin 2) (a : Reg) (m : Mode) (s : State) : Eff := pushChurn (.mldz c a m) a 0 s
def execMldz (c : Fin 2) (a : Reg) (m : Mode) (s : State) : Host.Outcome State Fault Refusal :=
  lone (.mldz c a m) (rawMldz c a m) s
/-- Identifiers of the strand's matrix entries that write a tile and have not retired. -/
def Core.tileWriters (k : Core) (t c : Nat) : List Nat :=
  let l := k.churnQ ++ k.churnRun.toList ++ (Tab.get {} t k.part.strands).churnHeld
  (l.filter fun e => e.strand == t && e.instr.zWrite == some c).map (·.id)
/-- MMOVZV Va, Zc, #row: a sequencer entry (R154). -/
def rawMmovzv (a : Reg) (c : Fin 2) (row : BitVec 4) (s : State) : Eff :=
  let st := s.me
  if st.nlanes = 0 then trapCode 0x02
  else pushEntry s st { st.entry (.mmovzv a c row) with waits := s.myCore.tileWriters s.curStrand c.val }
def execMmovzv (a : Reg) (c : Fin 2) (row : BitVec 4) (s : State) : Host.Outcome State Fault Refusal :=
  lone (.mmovzv a c row) (rawMmovzv a c row) s
/-- Every matrix instruction of the acting strand has retired: what it wrote happens before what the strand does next (R160). -/
def State.churnSeen (s : State) : Strand := { s.me with known := s.me.known.join [(churnFor s.curCore s.curStrand, s.nextId)] }
/-- MSYNC: issues once every matrix instruction of the strand has retired (R155). -/
def rawMsync (s : State) : Eff := if s.myCore.churnOf s.curStrand then .wait else onStrand s s.churnSeen
def execMsync (s : State) : Host.Outcome State Fault Refusal := lone .msync rawMsync s
/-- MSTAT Xa (R156): the status, and the sticky bits cleared in the same step. -/
def rawMstat (a : Reg) (s : State) : Eff :=
  let st := s.churnSeen
  if s.myCore.churnOf s.curStrand then .wait
  else onStrand s ({ st with mx := { st.mx with nv := false, of := false, iov := false } }.xw a.val st.mx.word)
def execMstat (a : Reg) (s : State) : Host.Outcome State Fault Refusal :=
  lone (.mstat a) (rawMstat a) s

/-! ## Rings -/

/-- Strip and tile bytes of a ring format (Table 7.2); a sparse tile has no strips. -/
def ringTile : Nat → Option (Nat × Nat)
  | 0x08 => some (128, 2048)
  | 0x09 => some (64, 1024) | 0x0A => some (64, 1024)
  | 0x0B => some (32, 512) | 0x0C => some (32, 512) | 0x01 => some (32, 512) | 0x05 => some (32, 512) | 0x18 => some (32, 512)
  | 0x10 => some (33, 528) | 0x11 => some (33, 528) | 0x15 => some (33, 528) | 0x19 => some (33, 528)
  | 0x12 => some (25, 400) | 0x13 => some (25, 400)
  | 0x14 => some (17, 272)
  | 0x20 => some (0, 1024) | 0x22 => some (0, 1024)
  | 0x21 => some (0, 1408)
  | _ => none
def stripBytes (f : Nat) : Nat := ((ringTile f).getD (0, 0)).1
def tileBytes (f : Nat) : Nat := ((ringTile f).getD (0, 0)).2
def Ring.mode (r : Ring) : Mode := if r.cluster then .C else .L
/-- Occupancy: tail less head modulo 2^32 (R142). -/
def Ring.occ (r : Ring) : Nat := (r.tail + 2 ^ 32 - r.head) % 2 ^ 32
/-- Physical addresses of n bytes from the count v (R142). -/
def State.ringBytes (s : State) (c : Nat) (r : Ring) (v n : Nat) : List Nat :=
  (span v n).filterMap fun k => s.place c false r.mode (r.ea + k % 2 ^ 32 % r.size)
/-- Ring g of a core, for a launch (R143). -/
def Core.ring (k : Core) (g : Nat) (launch : Nat) : Option Ring :=
  match k.part.rings.find? fun e => e.1 == g with
  | some (_, r) => if r.launch = launch then some r else none
  | none => none

/-! ## Tile elements (R141, R145) -/

/-- Element k of strip i of a dense tile, as bits. -/
def tileBits (f tile i k : Nat) : Nat := tile / 2 ^ (8 * (stripBytes f * i + accsize f * k)) % 2 ^ (8 * accsize f)
def tileVal (f blk : Nat) (t : Option (BitVec 8192)) (tile i k : Nat) : FVal :=
  if isMx f || f = 0x19 then blockVal f blk t (tile / 2 ^ (8 * stripBytes f * i) % 2 ^ (8 * stripBytes f)) k
  else elemVal f t (tileBits f tile i k)
def tileInt (f tile i k : Nat) : Int := if f = 1 then sext (tileBits f tile i k) 8 else (tileBits f tile i k : Nat)
/-- Value format, dense elements and groups of a sparse line (Table 5.4). -/
def lineFmt : Nat → Nat
  | 0x20 => 0x0B | 0x21 => 0x09 | _ => 0x18
def lineCover (f : Nat) : Nat := if f = 0x21 then 96 else 128
/-- The two positions of group g of line l. -/
def lineGroup (tile l g : Nat) : Nat × Nat := (tile / 2 ^ (1024 * l + 4 * g) % 4, tile / 2 ^ (1024 * l + 4 * g + 2) % 4)
/-- The Separator's check of every group that is used (R147). -/
def separatorOk (f tile : Nat) : Bool :=
  (span 0 256).all fun q =>
    let per := lineCover f / 4
    let p := lineGroup tile (q / per) (q % per)
    p.1 < p.2
/-- The kept value at dense (m, k), if that position is kept. -/
def sparseVal (f : Nat) (t : Option (BitVec 8192)) (tile m k : Nat) : Option FVal :=
  let i := 64 * m + k
  let l := i / lineCover f
  let g := i % lineCover f / 4
  let p := lineGroup tile l g
  let w := 8 * accsize (lineFmt f)
  let at_ (j : Nat) : FVal := elemVal (lineFmt f) t (tile / 2 ^ (1024 * l + 128 + w * j) % 2 ^ w)
  if i % 4 = p.1 then some (at_ (2 * g)) else if i % 4 = p.2 then some (at_ (2 * g + 1)) else none

/-! ## Cells -/

/-- A cell's accumulator with the sticky flags that its steps set. -/
structure Cell where
  acc : Nat
  nv : Bool := false
  of : Bool := false
  iov : Bool := false
  deriving DecidableEq, Repr
def Cell.or (a b : Cell) : Cell := { a with nv := a.nv || b.nv, of := a.of || b.of, iov := a.iov || b.iov }
/-- rne of an exact value to FP32, NV and OF recorded; overflow counts only from finite operands. -/
def Cell.round (c : Cell) (fin : Bool) (v : FVal × Bool) : Cell :=
  let r := rnd fp32 .rne 0 v.1
  { c with acc := r.bits, nv := c.nv || v.2, of := c.of || (fin && r.ovf) }
/-- Plus-times (R145). DESIGN CHOICE (log 91): the spec does not say whether 0 × ∞ sets NV where the accumulator is NaN already; here it does not. -/
def stepPT (c : Cell) (a b : FVal) : Cell :=
  let x := fp32.val c.acc
  let p := a.mul b
  if x.isNan || a.isNan || b.isNan then { c with acc := fp32.nan }
  else if p.2 then { c with acc := fp32.nan, nv := true }
  else c.round (bothFinite x p.1) (x.add p.1)
/-- fmin and fmax of R148. -/
def stepMM (mx : Bool) (c : Cell) (inner : FVal × Bool) (fin : Bool) : Cell :=
  let i := ({ c with acc := 0 } : Cell).round fin inner
  let x := fp32.val c.acc
  let y := fp32.val i.acc
  let acc := if x.isNan || y.isNan then fp32.nan
    else if mx then (if x.lt0 y then i.acc else c.acc) else (if y.lt0 x then i.acc else c.acc)
  { i with acc := acc }
/-- One step of a float semiring. -/
def semiStep (r : Semiring) (c : Cell) (a b : FVal) : Cell :=
  match r with
  | .minPlus => stepMM false c (a.add b) (bothFinite a b)
  | .maxPlus => stepMM true c (a.add b) (bothFinite a b)
  | .maxTimes => stepMM true c (a.mul b) (bothFinite a b)
  | _ => stepPT c a b
/-- INT32 accumulation (R146) and or-and (Table 7.4). -/
def stepInt (c : Cell) (a b : Int) : Cell :=
  let t := sext c.acc 32 + a * b
  { c with acc := wrap t 32, iov := c.iov || sext (wrap t 32) 32 != t }
def stepOr (c : Cell) (a b : Nat) : Cell := { c with acc := if c.acc != 0 || (a &&& b) != 0 then 1 else 0 }
/-- The identity under .CLR (Table 7.4). -/
def semiIdentity : Semiring → Nat
  | .minPlus => fp32.infBits false | .maxPlus => fp32.infBits true | .maxTimes => fp32.infBits true
  | _ => 0

/-- Operation word j of a microprogram, and constant word k (R149). -/
def progWord (b : BitVec 256) (j : Nat) : Nat := b.toNat / 2 ^ (32 * j) % 2 ^ 32
def opCode (w : Nat) : Nat := w / 2 ^ 28
def opDst (w : Nat) : Nat := w / 2 ^ 25 % 8
def opS1 (w : Nat) : Nat := w / 2 ^ 22 % 8
def opS2 (w : Nat) : Nat := w / 2 ^ 19 % 8
/-- Operations before the first END. -/
def progLen (b : BitVec 256) : Nat := ((span 0 4).find? fun j => opCode (progWord b j) == 0).getD 4
/-- The checks of R149. The fields of the first END are checked as those of an operation; MOV with s2 other than S, which Table 7.5 forbids and
the list of causes does not name, faults too (log 62). -/
def progOk (b : BitVec 256) : Bool :=
  let n := progLen b
  n != 0 && (span 0 4).all (fun j =>
      let w := progWord b j
      if n < j then w == 0
      else opCode w ≤ 7 && w % 2 ^ 19 == 0 && [0, 3, 4].contains (opDst w) && opS1 w != 7 && opS2 w != 7
        && (opCode w != 6 || opS2 w == 0))
    && progWord b 6 == 0 && progWord b 7 == 0
/-- The seven operands S, A, B, T0, T1, K0, K1 of a microprogram at work. -/
structure ProgRegs where
  r : List Nat
  c : Cell := { acc := 0 }
  deriving DecidableEq, Repr
/-- One operation (Table 7.5). -/
def progStep (p : ProgRegs) (w : Nat) : ProgRegs :=
  let a := p.r.getD (opS1 w) 0
  let b := p.r.getD (opS2 w) 0
  let x := fp32.val a
  let y := fp32.val b
  let arith (v : FVal × Bool) : ProgRegs :=
    let c := p.c.round (bothFinite x y) v
    { r := p.r.set (opDst w) c.acc, c := c }
  let put (v : Nat) : ProgRegs := { p with r := p.r.set (opDst w) v }
  match opCode w with
  | 1 => arith (x.add y)
  | 2 => arith (x.add y.neg)
  | 3 => arith (x.mul y)
  | 4 => put (fMinMax fp32 false a b)
  | 5 => put (fMinMax fp32 true a b)
  | 6 => put (if x.isNan then fp32.nan else a)
  | 7 => put (if x.lt y then 0x3F800000 else 0)
  | _ => p
/-- One k of MRUN (R150). -/
def progRun (b : BitVec 256) (c : Cell) (va vb : FVal) : Cell :=
  let ra := c.round (bothFinite va va) (va, false)
  let rb := ra.round (bothFinite vb vb) (vb, false)
  let p0 : ProgRegs := { r := [c.acc, ra.acc, rb.acc, 0, 0, progWord b 4, progWord b 5], c := rb }
  let p := (span 0 (progLen b)).foldl (fun p j => progStep p (progWord b j)) p0
  { p.c with acc := p.r.getD 0 0 }

/-! ## Tile operations -/

def ZTile.at_ (z : ZTile) (i : Nat) : Nat := z.bits.toNat / 2 ^ (32 * i) % 2 ^ 32
/-- A tile built from its 256 elements, and the flags of all of them. -/
def buildTile (int : Bool) (l : List Cell) : ZTile × Cell :=
  let r := l.foldl (fun (o : Nat × Cell) c => (o.1 + c.acc * 2 ^ (32 * o.2.acc), { (o.2.or c) with acc := o.2.acc + 1 })) (0, ({ acc := 0 } : Cell))
  ({ bits := BitVec.ofNat 8192 r.1, int := int }, r.2)
/-- Z[m][n] for every m and n (R136). -/
def tileOp (int : Bool) (start : Nat → Nat) (f : Nat → Nat → Cell → Cell) : ZTile × Cell :=
  buildTile int ((span 0 256).map fun i => f (i / 16) (i % 16) { acc := start i })

/-- An operand tile read from a ring: format, block exponent, contents. -/
structure OpTile where
  f : Nat
  blk : Nat
  v : Nat
  deriving DecidableEq, Repr
/-- MMA over one A and one B tile under a semiring (R145, R146, R148). -/
def mmaTile (r : Semiring) (t : Option (BitVec 8192)) (a b : OpTile) (start : Nat → Nat) : ZTile × Cell :=
  if r == .orAnd then
    tileOp true start fun m n c => (span 0 32).foldl (fun c k => stepOr c (tileBits a.f a.v m k) (tileBits b.f b.v n k)) c
  else if isIntFmt a.f then
    tileOp true start fun m n c => (span 0 32).foldl (fun c k => stepInt c (tileInt a.f a.v m k) (tileInt b.f b.v n k)) c
  else
    tileOp false start fun m n c =>
      (span 0 32).foldl (fun c k => semiStep r c (tileVal a.f a.blk t a.v m k) (tileVal b.f b.blk t b.v n k)) c
/-- MMAS over a sparse A tile and two B tiles (R147). -/
def mmasTile (r : Semiring) (t : Option (BitVec 8192)) (a b b2 : OpTile) (start : Nat → Nat) : ZTile × Cell :=
  tileOp false start fun m n c =>
    (span 0 64).foldl (fun c k =>
      match sparseVal a.f t a.v m k with
      | some x =>
        let q := if k < 32 then b else b2
        semiStep r c x (tileVal q.f q.blk t q.v n (k % 32))
      | none => c) c
/-- MRUN over one A and one B tile (R150). -/
def mrunTile (p : BitVec 256) (t : Option (BitVec 8192)) (a b : OpTile) (start : Nat → Nat) : ZTile × Cell :=
  tileOp false start fun m n c =>
    (span 0 32).foldl (fun c k => progRun p c (tileVal a.f a.blk t a.v m k) (tileVal b.f b.blk t b.v n k)) c

def StrandMx.tile (m : StrandMx) (c : Fin 2) : ZTile := if c.val = 0 then m.z0 else m.z1
def StrandMx.setTile (m : StrandMx) (c : Fin 2) (z : ZTile) : StrandMx := if c.val = 0 then { m with z0 := z } else { m with z1 := z }
def StrandMx.stick (m : StrandMx) (c : Cell) : StrandMx := { m with nv := m.nv || c.nv, of := m.of || c.of, iov := m.iov || c.iov }

/-- The rings that an instruction names, with how many tiles of each it takes: an A tile, then B tiles (R142). -/
def ringUse : Instr → Option (Fin 4 × Fin 4 × Nat)
  | .mma _ ga gb _ => some (ga, gb, 1)
  | .mmas _ ga gb _ => some (ga, gb, 2)
  | .mrun _ ga gb _ => some (ga, gb, 1)
  | _ => none
/-- Bytes needed at once of rings a and b. -/
def ringNeeds (ga gb : Fin 4) (nb : Nat) (a b : Ring) : Nat × Nat :=
  let ta := tileBytes a.fmt
  let tb := tileBytes b.fmt
  if ga = gb then (ta + nb * tb, ta + nb * tb) else (ta, nb * tb)
/-- Format, role, semiring, tile-type and microprogram checks (R145 to R150). -/
def tileFormatsOk (mx : StrandMx) (i : Instr) (fa fb : Nat) : Bool :=
  let dense (f : Nat) : Bool := !isSparse f
  match i with
  | .mma c _ _ clr =>
    let int := isIntFmt fa
    dense fa && dense fb && isIntFmt fb == int
      && (match mx.semi with | .plusTimes => true | .orAnd => int | _ => !int)
      && (clr || (mx.tile c).int == int)
  | .mmas c _ _ clr =>
    isSparse fa && dense fb && !isIntFmt fb && mx.semi != .orAnd && (clr || !(mx.tile c).int)
  | .mrun c _ _ clr =>
    mx.prog.isSome && dense fa && dense fb && !isIntFmt fa && !isIntFmt fb && (clr || !(mx.tile c).int)
  | _ => true

/-! ## MSTZ and MLDZ -/

def zSize : ZFmt → Nat
  | .native => 4 | _ => 2
/-- Element i as MSTZ stores it, and whether it overflowed (R153). -/
def zStored (z : ZTile) (f : ZFmt) (i : Nat) : Nat × Bool :=
  match f with
  | .native => (z.at_ i, false)
  | .b16 => let r := rnd bf16 .rne 0 (fp32.val (z.at_ i)); (r.bits, r.ovf)
  | .f16 => let r := rnd fp16 .rne 0 (fp32.val (z.at_ i)); (r.bits, r.ovf)
def zBytes (z : ZTile) (f : ZFmt) : Nat := joinVals ((span 0 256).map fun i => (zSize f, (zStored z f i).1))
def zOverflow (z : ZTile) (f : ZFmt) : Bool := (span 0 256).any fun i => (zStored z f i).2

/-! ## Reading a tile -/

/-- A tile at count `v` of a ring. -/
def State.ringTileAt (s : State) (c : Nat) (r : Ring) (v : Nat) : OpTile :=
  { f := r.fmt, blk := r.blk, v := s.readB (s.ringBytes c r v (tileBytes r.fmt)) }
/-- The address, in the ring's mode, of an uncorrectable word in n bytes from count v. -/
def State.ringBad (s : State) (c : Nat) (r : Ring) (v n : Nat) : Option Nat :=
  ((span v n).find? fun k =>
    match s.place c false r.mode (r.ea + k % 2 ^ 32 % r.size) with
    | some pa => s.badWords.contains (pa / 4)
    | none => false).map fun k => (r.ea + k % 2 ^ 32 % r.size) / 4 * 4
def Ring.pop (r : Ring) (n : Nat) : Ring := { r with head := (r.head + n) % 2 ^ 32 }

end Sys2Proof.Machine
end

