-- ==== Sys2Proof/Machine/Exchange.lean ====
section
/-!
DEFINITION. Exchange phases, 0x4B to 0x4E (R183 to R191).
-/
namespace Sys2Proof.Machine

/-- The exchange domain that number k names for a core: its level and key (R183, R185). -/
def State.exchDomain (s : State) (c : Nat) (k : BitVec 4) : Option (BLevel × Nat) :=
  let p := (s.core c).part
  if p.xdomsClu.getLsbD k.toNat then some (.cluster, domKey .cluster (clusterOf c) k.toNat)
  else if p.xdomsDie.getLsbD k.toNat then some (.die, domKey .die (dieOf c) k.toNat)
  else none
/-- The voltage that the exchange clock needs (R185); 950 mV where no voltage gives it. -/
def Curve.phaseVolt (k : Curve) : Nat := need k.cvf 2000
/-- The core cannot run on the exchange clock: its curve, or the strand's lane floor (R185, R186). -/
def State.noMargin (s : State) (c t : Nat) : Bool :=
  curvef (s.core c).curve.cvf 950 < 2000 || (s.laneFloor c t != 0 && s.laneFloor c t < 2000)
/-- The acting strand raises the phase floor, and with it its core's request (R185, R186); its quad's rail follows (R12, R13). -/
def State.raiseFloor (s : State) : State :=
  let k := s.myCore
  (s.setMyCore { k with curve := { k.curve with floor := true, request := Nat.max k.curve.request 2000 },
                        exch := { k.exch with strand := s.curStrand } }).evalQuad (quadOf s.curCore)
/-- The rail has settled where the exchange clock has its voltage (R185). -/
def Rail.settledFor (r : Rail) (v : Nat) : Bool := v ≤ r.volt && r.target.isNone && !r.stepUp
/-- XPHASE #k (R185): raises the floor, waits for the rail, arrives as BAR does, then faults 0x29 without margin. -/
def enterPhase (k : BitVec 4) (s : State) : Eff :=
  let e := s.myCore.exch
  let busy := (e.active || s.myCore.curve.floor) && e.strand != s.curStrand
  if !s.me.seqEmpty || busy then .wait
  else
    match s.exchDomain s.curCore k with
    | none => trapCode 0x2A
    | some (_, key) =>
      let d := s.domain key
      if !d.member s.curCore || d.launch != some s.myPart.launch then trapCode 0x2A
      else if d.broken then trapCode 0x2D
      else if s.arrived d then .wait
      else
        let s1 := s.raiseFloor
        if !(s1.rail (quadOf s.curCore)).settledFor s1.myCore.curve.phaseVolt then .sleep .barrier [] s1
        else
          let s2 := s1.arrive key
          if s2.noMargin s.curCore s.curStrand then .trapIn s2 { code := 0x29 }
          else .sleep .barrier [key] s2

/-- XPHASE #k (R185). -/
def rawXphase (k : BitVec 4) (s : State) : Eff := enterPhase k s
def execXphase (k : BitVec 4) (s : State) : Host.Outcome State Fault Refusal :=
  lone (.xphase k) (rawXphase k) s
/-- The phase strand of core c takes 0x29 where the floor stands (R186). -/
def State.losePhase (s : State) (c : Nat) : State :=
  let k := s.core c
  let st := s.strand c k.exch.strand
  if k.curve.floor && st.status == .running then s.takeFault c k.exch.strand { code := 0x29 } false false false false st.pc
  else s
/-- A phase without margin (R185): at 950 mV it ends; below, the rail is raised. -/
def State.phaseMargin (s : State) (c : Nat) : State :=
  let k := s.core c
  let r := s.rail (quadOf c)
  if !k.exch.active || 2000 ≤ curvef k.curve.cvf r.volt then s
  else if 950 ≤ r.volt then s.losePhase c
  else s.evalQuad (quadOf c)
/-- Core c's phase has become active (R185): margin that its core or its strand's lanes have lost since the arrival is met now (R186). -/
def State.meetMargin (s : State) (c : Nat) : State :=
  let f := s.laneFloor c (s.core c).exch.strand
  if f != 0 && f < 2000 then s.losePhase c else s.phaseMargin c
/-- XMIT #s, Vl, #g: a sequencer entry (R187). -/
def rawXmit (slot : BitVec 13) (l : Reg) (seg : BitVec 4) (s : State) : Eff :=
  let st := s.me
  if !s.myCore.exch.active then trapCode 0x28
  else if 4 * st.nlanes < 16 * seg.toNat + 16 then trapCode 0x02
  else pushEntry s st (st.entry (.xmit slot l seg))
def execXmit (slot : BitVec 13) (l : Reg) (seg : BitVec 4) (s : State) : Host.Outcome State Fault Refusal :=
  lone (.xmit slot l seg) (rawXmit slot l seg) s
/-- SEG, source core and V of a source table entry (Table 8.9). -/
def entrySeg (e : BitVec 32) : Nat := e.toNat / 2 ^ 16 % 16
def entrySrc (die : Nat) (e : BitVec 32) : Nat := die * 2048 + e.toNat / 32 % 64 * 32 + e.toNat % 32
/-- XSEL #t, Vl, #e: a sequencer entry (R188). -/
def rawXsel (slot : BitVec 13) (l : Reg) (e : BitVec 5) (s : State) : Eff :=
  let st := s.me
  let ent := Tab.get 0 e.toNat s.myPart.xsrc
  if !s.myCore.exch.active then trapCode 0x28
  else if !ent.getLsbD 31 || 4 * st.nlanes < 16 * entrySeg ent + 16 then trapCode 0x02
  else pushEntry s st (st.entry (.xsel slot l e))
def execXsel (slot : BitVec 13) (l : Reg) (e : BitVec 5) (s : State) : Host.Outcome State Fault Refusal :=
  lone (.xsel slot l e) (rawXsel slot l e) s
/-- XEND (R190): waits for the sequencer and, in a phase, until every armed slot has passed; without a phase it has no effect. -/
def rawXend (s : State) : Eff :=
  let k := s.myCore
  if !s.me.seqEmpty then .wait
  else if !k.exch.active then .done s
  else if !k.exch.armed.isEmpty then .wait
  else .done (s.setMyCore k.endPhase)
def execXend (s : State) : Host.Outcome State Fault Refusal := lone .xend rawXend s
/-- The delay of R189 between two cores of one die. -/
def exchDelay (c q : Nat) : Nat :=
  let x := clusterOf c % 64
  let y := clusterOf q % 64
  let d (a b : Nat) : Nat := (a - b) + (b - a)
  3 + 2 * (d (x % 4) (y % 4) + d (x / 4) (y / 4))

end Sys2Proof.Machine
end

