-- ==== Sys2Proof/Machine/Engines.lean ====
section
/-!
DEFINITION. Engines and tape, 0x50 to 0x5B (R140, R144, R222 to R240).
-/
namespace Sys2Proof.Machine

/-! ## Copy commands at issue -/

/-- Floating-point formats of the engine's last row of Table 12.3. -/
def isFloatFmt (f : Nat) : Bool := (fltFmt f).isSome || isMx f || f == 0x18 || f == 0x19
/-- The pairs of Table 12.3. -/
def pairable (sf sblk df dblk : Nat) : Bool :=
  if sf = df then sf != 0x19 || sblk == dblk
  else (isIntFmt sf && isIntFmt df) || (isFloatFmt sf && isFloatFmt df && df != 0x19)
/-- Counts n0 to n3 of a descriptor (Table 12.2). -/
def descCount (d : List Word) (k : Nat) : Nat := (d.getD 0 0).toNat / 2 ^ (16 * k) % 65536 + 1
def descField (d : List Word) (k : Nat) : Word := d.getD k 0
/-- The completion barrier word's TCM offset. -/
def descCtl (d : List Word) : Nat := (descField d 7).toNat
/-- A TCM offset alone in a field: [63:17] are 0. -/
def offsetOnly (v : Word) : Bool := v.toNat / 2 ^ 17 == 0
/-- The descriptor rules of R223 and R224 that do not depend on a ring's format. -/
def descOk (i : Instr) (d : List Word) (sf sblk df dblk : Nat) : Bool :=
  let n (k : Nat) : Nat := descCount d k
  let flat := n 2 == 1 && n 3 == 1
  let src := n 0 % blockElems sf sblk == 0
  let dst := n 0 % blockElems df dblk == 0
  offsetOnly (descField d 7) && descCtl d % 4 == 0 && descCtl d < 0x16000 && src && match i with
    | .cpyg _ _ _ _ _ _ _ => dst && flat && offsetOnly (descField d 1)
    | .cpysc _ _ _ _ _ _ _ => dst && flat && offsetOnly (descField d 4)
    | .cpys _ _ _ _ _ _ => descField d 4 == 0 && descField d 5 == 0 && descField d 6 == 0
    | _ => dst
/-- Destination pointer of a copy command; a CPYS has none of its own. -/
def Strand.copyDst (st : Strand) (a : Option Reg) (b : Reg) : Word :=
  match a with
  | some r => st.xptr r.val
  | none => st.xptr b.val
/-- Source and destination hold the same code: no conversion and no draw (R224, R225). -/
def sameFmt (src dst : Word) : Bool := fmtof src == fmtof dst && (fmtof src != 0x19 || blkof src == blkof dst)
/-- The formats that a copy command may join (R88, R225). -/
def State.copyFormats (s : State) (src dst : Word) : Bool :=
  let sf := fmtof src
  let df := fmtof dst
  usable sf (blkof src) && usable df (blkof dst) && pairable sf (blkof src) df (blkof dst)
    && !(df == 0x18 && !sameFmt src dst && tabK s.myCore.dtab == 0)
/-- The command with its descriptor enters the queue of two (R223 to R226). -/
def copyPush (i : Instr) (a : Option Reg) (b : Reg) (d : List Word) (blocked : Bool) (s : State) : Eff :=
  let st := s.me
  let src := st.xptr b.val
  let dst := st.copyDst a b
  if !descOk i d (fmtof src) (blkof src) (fmtof dst) (blkof dst) then trapCode 0x33
  else if 2 ≤ s.myCore.engQ.length || blocked then .wait
  else
    let seed := if !sameFmt src dst || a.isNone then nextSeed st.seed else st.seed
    let cmd : CopyCmd :=
      { id := s.nextId, instr := i, strand := s.curStrand, pc := st.pc, sup := st.stat.sup, asid := st.regs.asid,
        launch := s.myPart.launch, dst := dst, src := src, desc := d, seed := seed }
    let s1 := (({ s with nextId := s.nextId + 1 } : State).setMe { st with seed := seed })
    .done (s1.setMyCore { s1.myCore with engQ := s1.myCore.engQ ++ [cmd] })
/-- A copy command at issue (R222 to R227): `a` is its destination pointer, none for CPYS. -/
def copyOp (i : Instr) (a : Option Reg) (b c : Reg) (s : State) : Eff :=
  let st := s.me
  let ea := vaof (st.xptr c.val)
  onBytes (s.check s.curCore st.stat.sup st.regs.asid .loadStore .engRead .L ea 64 64 false) fun bytes =>
    if !s.copyFormats (st.xptr b.val) (st.copyDst a b) then trapCode 0x13
    else if (s.badIn bytes).isSome then .trap { code := 0x1E, acc := 5, eva := ea }
    else copyPush i a b (s.descFields s.curCore ea) (st.holdsBytes bytes || s.vecMeets bytes) s

/-- CPY m:[Xa], m:[Xb], Xc (R222). -/
def rawCpy (a b c : Reg) (clfe ev : Bool) (sm dm : Mode) (s : State) : Eff := copyOp (.cpy a b c clfe ev sm dm) (some a) b c s
def execCpy (a b c : Reg) (clfe ev : Bool) (sm dm : Mode) (s : State) : Host.Outcome State Fault Refusal :=
  lone (.cpy a b c clfe ev sm dm) (rawCpy a b c clfe ev sm dm) s
/-- CPYS #g, m:[Xb], Xc (R222). -/
def rawCpys (g : Fin 4) (b c : Reg) (clfe ev : Bool) (sm : Mode) (s : State) : Eff := copyOp (.cpys g b c clfe ev sm) none b c s
def execCpys (g : Fin 4) (b c : Reg) (clfe ev : Bool) (sm : Mode) (s : State) : Host.Outcome State Fault Refusal :=
  lone (.cpys g b c clfe ev sm) (rawCpys g b c clfe ev sm) s
/-- CPYG m:[Xa], m:[Xb], Xc (R222). -/
def rawCpyg (a b c : Reg) (clfe ev : Bool) (sm dm : Mode) (s : State) : Eff := copyOp (.cpyg a b c clfe ev sm dm) (some a) b c s
def execCpyg (a b c : Reg) (clfe ev : Bool) (sm dm : Mode) (s : State) : Host.Outcome State Fault Refusal :=
  lone (.cpyg a b c clfe ev sm dm) (rawCpyg a b c clfe ev sm dm) s
/-- CPYSC m:[Xa], m:[Xb], Xc (R222). -/
def rawCpysc (a b c : Reg) (clfe ev : Bool) (sm dm : Mode) (s : State) : Eff := copyOp (.cpysc a b c clfe ev sm dm) (some a) b c s
def execCpysc (a b c : Reg) (clfe ev : Bool) (sm dm : Mode) (s : State) : Host.Outcome State Fault Refusal :=
  lone (.cpysc a b c clfe ev sm dm) (rawCpysc a b c clfe ev sm dm) s
/-- CPYQ Xd (R230). -/
def rawCpyq (d : Reg) (s : State) : Eff :=
  let k := s.myCore
  writeX s d (wordN (b2n k.engRun.isSome * 1024 + k.engQ.length * 256 + k.copiesOf s.curStrand))
def execCpyq (d : Reg) (s : State) : Host.Outcome State Fault Refusal :=
  lone (.cpyq d) (rawCpyq d) s
/-- RINGDEF #g, m:[Xb], Xc: a Churn queue entry (R140). -/
def rawRingdef (g : Fin 4) (b c : Reg) (m : Mode) (s : State) : Eff := pushChurn (.ringdef g b c m) b (s.me.xr c.val) s
def execRingdef (g : Fin 4) (b c : Reg) (m : Mode) (s : State) : Host.Outcome State Fault Refusal :=
  lone (.ringdef g b c m) (rawRingdef g b c m) s
/-- RINGST's result (Table 7.3). -/
def ringWord : Option Ring → Word
  | none => 0
  | some r => wordN (2 ^ 63 + r.fmt * 2 ^ 57 + r.occ * 2 ^ 40 + r.occ / tileBytes r.fmt * 2 ^ 32 + r.head % r.size)
/-- RINGST Xd, #g (R144). -/
def rawRingst (d : Reg) (g : Fin 4) (s : State) : Eff := writeX s d (ringWord (s.myCore.ring g.val s.myPart.launch))
def execRingst (d : Reg) (g : Fin 4) (s : State) : Host.Outcome State Fault Refusal :=
  lone (.ringst d g) (rawRingst d g) s
/-- TGUARD Xa, #i: the guard is recorded by `recordPass`; nothing else (R240). -/
def rawTguard (a : Reg) (i : BitVec 6) (s : State) : Eff :=
  let _ := a
  let _ := i
  .done s
def execTguard (a : Reg) (i : BitVec 6) (s : State) : Host.Outcome State Fault Refusal :=
  lone (.tguard a i) (rawTguard a i) s
/-- TSLOT Xa, #i: the taint is set by `recordPass`; nothing else (R239, R240). -/
def rawTslot (a : Reg) (i : BitVec 6) (s : State) : Eff :=
  let _ := a
  let _ := i
  .done s
def execTslot (a : Reg) (i : BitVec 6) (s : State) : Host.Outcome State Fault Refusal :=
  lone (.tslot a i) (rawTslot a i) s

/-! ## Completion barrier words (R231, R232) -/

/-- The checks of CBINIT, CBWAIT and CBTEST, and the word's bytes: the user part at either privilege. -/
def cbBytes (s : State) (a : Reg) (acc : AccKind) : Chk := s.check s.curCore false s.me.regs.asid .loadStore acc .L (vaof (s.me.xptr a.val)) 4 4 false
def cbErr (w : Nat) : Nat := w / 2 ^ 31 % 2
def cbRemain (w : Nat) : Nat := w % 2 ^ 24
/-- CBINIT L:[Xa], Xb (R232). -/
def rawCbinit (a b : Reg) (s : State) : Eff :=
  let st := s.me
  onBytes (cbBytes s a .store) fun bytes =>
    if 2 ^ 24 ≤ (st.xr b.val).toNat then trapCode 0x02
    else if st.holdsBytes bytes || s.vecMeets bytes then .wait
    else .done (((s.storeAt bytes (st.xr b.val).toNat false (fenceRel st.relFence s.curCore s.curStrand bytes)
      { agent := agentOf s.curCore s.curStrand, id := s.nextId }).setFullB bytes).moved s.curCore bytes)
def execCbinit (a b : Reg) (s : State) : Host.Outcome State Fault Refusal :=
  lone (.cbinit a b) (rawCbinit a b) s
/-- CBWAIT and CBTEST read the word; a read that finds it complete is an acquire at CORE scope, and what the commands that it counted have read
counts as read by the strand (R236). Either is a load for the FENCEs after it (R196). -/
def cbRead (s : State) (a : Reg) (k : Nat → List Nat → State → Eff) : Eff :=
  let st := s.me
  onBytes (cbBytes s a .load) fun bytes =>
    if st.holdsBytes bytes || s.vecMeets bytes then .wait
    else
      let w := s.readB bytes
      let recs := s.recordsAt bytes
      let arm := st.armFor bytes
      if cbRemain w = 0 && !s.settled recs s.curCore s.curStrand .core arm then .wait
      else if cbRemain w = 0 then
        let st2 := ((st.usePromote arm).readsFrom recs arm).acquire s.curCore s.curStrand .core recs arm
        k w bytes ((s.setMe { st2 with readRecs := st2.readRecs ++ s.viaRecords bytes }).moved s.curCore bytes)
      else k w bytes ((s.setMe (st.loadsFrom bytes recs st.promote)).moved s.curCore bytes)
/-- CBWAIT Xd, L:[Xa]: sleeps until REMAIN = 0 (R232). -/
def rawCbwait (d a : Reg) (s : State) : Eff :=
  cbRead s a fun w bytes s1 =>
    if cbRemain w = 0 then writeX s1 d (wordN (cbErr w)) else .sleep .completion (wordsOf bytes) (s.moved s.curCore bytes)
def execCbwait (d a : Reg) (s : State) : Host.Outcome State Fault Refusal :=
  lone (.cbwait d a) (rawCbwait d a) s
/-- CBTEST Xd, L:[Xa]: never sleeps (R232). -/
def rawCbtest (d a : Reg) (s : State) : Eff :=
  cbRead s a fun w _ s => writeX s d (wordN (cbErr w + 2 * b2n (cbRemain w != 0)))
def execCbtest (d a : Reg) (s : State) : Host.Outcome State Fault Refusal :=
  lone (.cbtest d a) (rawCbtest d a) s

end Sys2Proof.Machine
end

