-- ==== Sys2Proof/Machine/Bundle.lean ====
section
/-!
DEFINITION. Bundles: a pair's effect as a whole (R28), its issue, the sleeping bundle's new test, and convoys (R287).
-/
namespace Sys2Proof.Machine

/-- The effect of a word of a bundle; an event of the table is no word. -/
def rawOf (i : Instr) (s : State) : Eff :=
  match i with
  | .nop => rawNop s
  | .bra off => rawBra off s
  | .call off => rawCall off s
  | .ret => rawRet s
  | .jmpr a => rawJmpr a s
  | .callr a => rawCallr a s
  | .beq d a off => rawBeq d a off s
  | .bne d a off => rawBne d a off s
  | .blt d a off => rawBlt d a off s
  | .bge d a off => rawBge d a off s
  | .bltn d a off => rawBltn d a off s
  | .bgen d a off => rawBgen d a off s
  | .beqi d i off => rawBeqi d i off s
  | .bnei d i off => rawBnei d i off s
  | .bz d off => rawBz d off s
  | .bnz d off => rawBnz d off s
  | .yield dl kv => rawYield dl kv s
  | .gets d sel => rawGets d sel s
  | .sets sel a => rawSets sel a s
  | .swaps d sel a => rawSwaps d sel a s
  | .trap n => rawTrap n s
  | .eret => rawEret s
  | .uevret => rawUevret s
  | .evwait d => rawEvwait d s
  | .evmask d a => rawEvmask d a s
  | .spill cls d c => rawSpill cls d c s
  | .fill cls d c => rawFill cls d c s
  | .mkrcap d a cls wm => rawMkrcap d a cls wm s
  | .rvoke => rawRvoke s
  | .iflush a b => rawIflush a b s
  | .ld d b m off => rawLd d b m off s
  | .lds d b m off => rawLds d b m off s
  | .lda d b m off => rawLda d b m off s
  | .lde d b m off => rawLde d b m off s
  | .st d b m off => rawSt d b m off s
  | .stf d b m off => rawStf d b m off s
  | .stl d b m off => rawStl d b m off s
  | .ldp d b m off => rawLdp d b m off s
  | .stp d b m off => rawStp d b m off s
  | .pfch b m off => rawPfch b m off s
  | .clfe a b m => rawClfe a b m s
  | .aadd d a b w o s_ m => rawAadd d a b w o s_ m s
  | .aand d a b w o s_ m => rawAand d a b w o s_ m s
  | .aor d a b w o s_ m => rawAor d a b w o s_ m s
  | .axor d a b w o s_ m => rawAxor d a b w o s_ m s
  | .amin d a b w o s_ m => rawAmin d a b w o s_ m s
  | .amax d a b w o s_ m => rawAmax d a b w o s_ m s
  | .aswp d a b w o s_ m => rawAswp d a b w o s_ m s
  | .acas d a b w o s_ m => rawAcas d a b w o s_ m s
  | .accf a b f s_ m => rawAccf a b f s_ m s
  | .cellrd d a clr f s_ m => rawCellrd d a clr f s_ m s
  | .fence k s_ => rawFence k s_ s
  | .promote a s_ m => rawPromote a s_ m s
  | .bar k lv => rawBar k lv s
  | .bari k lv => rawBari k lv s
  | .barw k lv => rawBarw k lv s
  | .bset d k lv => rawBset d k lv s
  | .send d a => rawSend d a s
  | .rsend a b => rawRsend a b s
  | .rsendv a b pg => rawRsendv a b pg s
  | .recv d => rawRecv d s
  | .rpeek d => rawRpeek d s
  | .rack => rawRack s
  | .post d a => rawPost d a s
  | .take d wait => rawTake d wait s
  | .next d => rawNext d s
  | .mcast d a => rawMcast d a s
  | .msgmov a st m => rawMsgmov a st m s
  | .xphase k => rawXphase k s
  | .xmit slot l g => rawXmit slot l g s
  | .xsel slot l e => rawXsel slot l e s
  | .xend => rawXend s
  | .cpy a b c clfe ev sm dm => rawCpy a b c clfe ev sm dm s
  | .cpys g b c clfe ev sm => rawCpys g b c clfe ev sm s
  | .cpyg a b c clfe ev sm dm => rawCpyg a b c clfe ev sm dm s
  | .cpysc a b c clfe ev sm dm => rawCpysc a b c clfe ev sm dm s
  | .cpyq d => rawCpyq d s
  | .ringdef g b c m => rawRingdef g b c m s
  | .ringst d g => rawRingst d g s
  | .tguard a i => rawTguard a i s
  | .tslot a i => rawTslot a i s
  | .cbinit a b => rawCbinit a b s
  | .cbwait d a => rawCbwait d a s
  | .cbtest d a => rawCbtest d a s
  | .vld d a pg m => rawVld d a pg m s
  | .vlds d a b pg m => rawVlds d a b pg m s
  | .vldg d a b pg m => rawVldg d a b pg m s
  | .vst d a pg m => rawVst d a pg m s
  | .vsts d a b pg m => rawVsts d a b pg m s
  | .vstg d a b pg m => rawVstg d a b pg m s
  | .vldb d a pg m => rawVldb d a pg m s
  | .vldsy d a pg m => rawVldsy d a pg m s
  | .vclaim d n => rawVclaim d n s
  | .vfree => rawVfree s
  | .vseq a len step => rawVseq a len step s
  | .vrep a len stride => rawVrep a len stride s
  | .pset d a w => rawPset d a w s
  | .pseti d c w => rawPseti d c w s
  | .pget d a => rawPget d a s
  | .rbset v => rawRbset v s
  | .rbget d => rawRbget d s
  | .dtload a m => rawDtload a m s
  | .add d a b w => rawAdd d a b w s
  | .addi d a i => rawAddi d a i s
  | .sub d a b w => rawSub d a b w s
  | .mul d a b w => rawMul d a b w s
  | .mulh d a b w => rawMulh d a b w s
  | .mulhn d a b w => rawMulhn d a b w s
  | .div d a b w => rawDiv d a b w s
  | .divn d a b w => rawDivn d a b w s
  | .rem d a b w => rawRem d a b w s
  | .remn d a b w => rawRemn d a b w s
  | .and d a b => rawAnd d a b s
  | .andi d a i => rawAndi d a i s
  | .or d a b => rawOr d a b s
  | .ori d a i => rawOri d a i s
  | .xor d a b => rawXor d a b s
  | .xori d a i => rawXori d a i s
  | .shl d a b w => rawShl d a b w s
  | .shli d a s_ => rawShli d a s_ s
  | .shr d a b w => rawShr d a b w s
  | .shri d a s_ => rawShri d a s_ s
  | .sra d a b w => rawSra d a b w s
  | .srai d a s_ => rawSrai d a s_ s
  | .slt d a b => rawSlt d a b s
  | .sltn d a b => rawSltn d a b s
  | .slti d a i => rawSlti d a i s
  | .min d a b => rawMin d a b s
  | .max d a b => rawMax d a b s
  | .movi d i => rawMovi d i s
  | .movhi d i => rawMovhi d i s
  | .clz d a => rawClz d a s
  | .popc d a => rawPopc d a s
  | .padd d a b => rawPadd d a b s
  | .paddi d a i => rawPaddi d a i s
  | .ptag d a f e => rawPtag d a f e s
  | .pstrip d a => rawPstrip d a s
  | .sel d a b => rawSel d a b s
  | .fadd d a b t sr => rawFadd d a b t sr s
  | .fmul d a b t sr => rawFmul d a b t sr s
  | .fma d a b t sr => rawFma d a b t sr s
  | .fcvt d a dt st sr => rawFcvt d a dt st sr s
  | .fcmp d a b t c => rawFcmp d a b t c s
  | .vadd d a b pg t sat => rawVadd d a b pg t sat s
  | .vsub d a b pg t sat => rawVsub d a b pg t sat s
  | .vmul d a b pg t => rawVmul d a b pg t s
  | .vmulh d a b pg t => rawVmulh d a b pg t s
  | .vand d a b pg t => rawVand d a b pg t s
  | .vor d a b pg t => rawVor d a b pg t s
  | .vxor d a b pg t => rawVxor d a b pg t s
  | .vshl d a b pg t => rawVshl d a b pg t s
  | .vshr d a b pg t => rawVshr d a b pg t s
  | .vsra d a b pg t => rawVsra d a b pg t s
  | .vmin d a b pg t => rawVmin d a b pg t s
  | .vmax d a b pg t => rawVmax d a b pg t s
  | .vcmp d a b pg t lt => rawVcmp d a b pg t lt s
  | .vsel d a b pg t => rawVsel d a b pg t s
  | .vbcst d a pg t => rawVbcst d a pg t s
  | .vext d a b pg t => rawVext d a b pg t s
  | .vperm d a b pg t => rawVperm d a b pg t s
  | .vslide d a b pg t up => rawVslide d a b pg t up s
  | .viota d pg t => rawViota d pg t s
  | .vfadd d a b pg t sr => rawVfadd d a b pg t sr s
  | .vfsub d a b pg t sr => rawVfsub d a b pg t sr s
  | .vfmul d a b pg t sr => rawVfmul d a b pg t sr s
  | .vfma d a b pg t sr => rawVfma d a b pg t sr s
  | .vfms d a b pg t sr => rawVfms d a b pg t sr s
  | .vfmin d a b pg t => rawVfmin d a b pg t s
  | .vfmax d a b pg t => rawVfmax d a b pg t s
  | .vfabs d a pg t => rawVfabs d a pg t s
  | .vfcmp d a b pg t lt => rawVfcmp d a b pg t lt s
  | .vfcvt d a pg dt st sr => rawVfcvt d a pg dt st sr s
  | .vfrnd d a pg t mode => rawVfrnd d a pg t mode s
  | .vaddx d a b pg t => rawVaddx d a b pg t s
  | .vsubx d a b pg t => rawVsubx d a b pg t s
  | .vmulx d a b pg t => rawVmulx d a b pg t s
  | .dwadd d a b pg => rawDwadd d a b pg s
  | .dwsub d a b pg => rawDwsub d a b pg s
  | .dwmul d a b pg => rawDwmul d a b pg s
  | .dwnorm d a pg => rawDwnorm d a pg s
  | .vsum d a pg t => rawVsum d a pg t s
  | .vsumc d a pg => rawVsumc d a pg s
  | .vredmax d a pg t => rawVredmax d a pg t s
  | .vscale d a b pg t sr => rawVscale d a b pg t sr s
  | .vsfu d a pg t f => rawVsfu d a pg t f s
  | .mzero c => rawMzero c s
  | .mma c ga gb clr => rawMma c ga gb clr s
  | .mmas c ga gb clr => rawMmas c ga gb clr s
  | .msemi s_ => rawMsemi s_ s
  | .mprog a m => rawMprog a m s
  | .mrun c ga gb clr => rawMrun c ga gb clr s
  | .mstz a c m f => rawMstz a c m f s
  | .mldz c a m => rawMldz c a m s
  | .mmovzv a c row => rawMmovzv a c row s
  | .msync => rawMsync s
  | .mstat a => rawMstat a s
  | .rbaseWrite _ _ _ | .pailheadWrite _ _ _ | .pailGeometryWrite _ _ _ _ | .xsrcentWrite _ _ _ | .mscopeWrite _ _ _
  | .engerrWrite _ _ _ | .stateRegisterWrite _ _ _ _ | .faultEntry _ _ _ | .userEventDelivery _ _
  | .sequencerEntryStart _ _ | .sfuRequestAccept _ _ | .sfuResult _ | .churnEntryStart _ | .churnEntryRetire _
  | .ringStarved _ | .copyCommandStart _ | .cpysTilePush _ | .ringRoomTimeout _ | .completionArrival _
  | .recvWake _ _ | .fullWaitWake _ _ | .waitRequestRetry _ _ | .cbwaitWake _ _ | .evwaitWake _ _ | .takeWaitWake _ _
  | .barrierRelease _ _ _ | .atomicAtUnit _ _ _ | .messageAccept _ | .messageResend _ | .sendAcknowledge _
  | .sendRefusal _ | .registerArrival _ | .reassemblyTimeout _ | .postDelivery _ | .exchangePhaseStart _
  | .xmitDrive _ _ | .xselSample _ | .remeasurement _ _ _ | .curveUpdateTimeout _ | .laneRemeasurement _ _ _
  | .laneCapApply _ | .powerControlTick | .railSettle _ | .budgetTick _ _ _ _ | .junctionSample _ _
  | .submissionCommit _ _ | .substatWrite _ | .eqheadWrite _ | .bar0RegisterWrite _ _ _ | .hostBar2Access _ _
  | .submissionTake _ | .launchRelease _ | .replayRecord _ | .taskEnd _ | .eventQueueWrite | .launchTimeout _
  | .stealReport _ _ | .contextSwitchOut _ | .holdTimeout _ | .contextRestore _ _ | .forwardingWindowEnd _
  | .walkerQueueRetry _ _ _ | .tscReply _ _ | .shootdown _ _ _ | .containmentFence _ _ _ _ _ | .containmentFenced _
  | .containmentReset _ | .containmentTest _ | .containmentTestEnd _ _ | .dualMismatch _ | .dualPartnerTimeout _
  | .infieldTestStart _ | .infieldTestAbort _ | .infieldTestPass _ | .infieldTestFail _ | .infieldPassExpiry _
  | .softErrorCorrected _ _ | .peerRequest _ _ _ | .linkPortDown _ | .peerNoPortTimeout _ _ _ | .liveUpdate _ _ _
  | .roleSwap | .failover | .coldStart _ | .warmStart _ | .accessPerformed _ _ _ | .accessReply _ _ _ | .nackResend _
  | .detectedLinkError _ | .linkPortUp _ => .done s

/-! ## Pairs -/

/-- What a bundle does once its words are decoded: an `Eff` with the word at fault. -/
inductive BEff where
  | done (s : State)
  | trap (f : FaultInfo) (word : Bool)
  | trapIn (s : State) (f : FaultInfo)
  | wait
  | sleep (k : SleepKind) (words : List Nat) (s : State)
  | miss (k : TlbKind) (va : Nat)
def Eff.lone : Eff → BEff
  | .done s => .done s
  | .trap f => .trap f false
  | .trapIn s f => .trapIn s f
  | .wait => .wait
  | .sleep k l s => .sleep k l s
  | .miss k va => .miss k va

def isCopy : Instr → Bool
  | .cpy _ _ _ _ _ _ _ | .cpys _ _ _ _ _ _ | .cpyg _ _ _ _ _ _ _ | .cpysc _ _ _ _ _ _ _ => true
  | _ => false
def isMstat : Instr → Bool
  | .mstat _ => true
  | _ => false

/-- What the arithmetic word reads: the registers before the bundle (R28). Its float flags start clear, so that those it sets
can be told; a draw of SEED follows a copy command's (log 14), and free values are drawn after the control word's. -/
def arithView (s sc : State) (i : Instr) : State :=
  let st := s.me
  ({ s with nextId := sc.nextId, freeCtr := sc.freeCtr } : State).setMe
    { st with stat := { st.stat with fnv := false, fof := false, fuf := false, fnx := false }
              seed := if isCopy i then sc.me.seed else st.seed }
/-- The first n entries as they are, the partner's in front of the rest, which it would read (R28); it is marked. -/
def markHead (l : List SeqEntry) : List SeqEntry :=
  match l with
  | [] => []
  | e :: rest => { e with pairHead := true } :: rest
/-- The control word changes V registers or LANES as it issues: an arithmetic word's sequencer entry keeps both as they stood before (R28). -/
def changesV : Instr → Bool
  | .mkrcap _ _ cls _ => cls == .v
  | .vfree | .vclaim _ _ => true
  | _ => false
def isRingdef : Instr → Bool
  | .ringdef _ _ _ _ => true
  | _ => false
def isDtload : Instr → Bool
  | .dtload _ _ => true
  | _ => false
/-- The V registers that a control word that `changesV` as it issues writes over: all of them where it changes LANES. -/
def overwrites (st : Strand) : Instr → Tab VReg
  | .mkrcap _ a _ _ => let p := phys st.rbase.toNat a.val; [(p, st.vreg p)]
  | _ => (span 0 32).map fun p => (p, st.vreg p)
/-- The sequencer after a pair: the control word's state `c` with the entries `new` of the arithmetic word, which read what stood before the pair,
`st` (R28). -/
def pairSeq (st c : Strand) (new : List SeqEntry) (i : Instr) : List SeqEntry :=
  let n := st.seq.length
  if new.isEmpty then c.seq
  else if isLoop i then c.seq.take n ++ new ++ c.seq.drop n
  else if isSeq i then c.seq.take n ++ markHead (c.seq.drop n) ++ new
  else if changesV i then c.seq ++ new.map fun e => { e with snap := overwrites st i, lanes := some st.nlanes }
  else c.seq ++ new
/-- The Churn queue after a pair: `old` before it, `now` after the control word, `new` the arithmetic word's. A tile operation beside RINGDEF
comes before it, and one beside a DTLOAD keeps the table `tab` that stood before (R28). -/
def pairChurn (old now new : List ChurnEntry) (i : Instr) (tab : Option (BitVec 8192)) : List ChurnEntry :=
  if isRingdef i then now.take old.length ++ new ++ now.drop old.length
  else now ++ if isDtload i then new.map fun e => { e with tab := some tab } else new
/-- A control word that has its effect after its arithmetic partner (R28): what it changes as it issues is none of what the partner reads. -/
def actsLast (i : Instr) : Bool := isYield i || isLoop i || isRingdef i || isDtload i || changesV i
/-- The tape after a pair: `old` before it, `c` with the control word's records, `both` with the arithmetic word's behind them. DESIGN CHOICE (log 84):
R242 does not say in which order the two words of a pair append theirs; here the arithmetic word's come first where the control word `actsLast`, and
else second, marked where both are sequencer entries, so that a replay reads the same registers (R244). -/
def pairTape (old c both : TapeState) (i : Instr) (vec : Bool) : TapeState :=
  let l := both.seg.recs
  let n := old.seg.recs.length
  let m := c.seg.recs.length
  let ctl := (l.take m).drop n
  if ctl.isEmpty || (l.drop m).isEmpty then both
  else if actsLast i then { both with seg := { both.seg with recs := l.take n ++ l.drop m ++ ctl } }
  else if isSeq i && vec then
    { both with seg := { both.seg with recs := l.take n ++ (match ctl with | r :: rest => { r with pair := true } :: rest | [] => []) ++ l.drop m } }
  else both
/-- Both words' effects as one (R28): the control word's state `sc` with what the arithmetic word changed from `va` to `sa`. DESIGN CHOICE
(log 14): where a SETS or SWAPS of SEED stands beside an arithmetic word that draws from SEED, the draw's new SEED stands. -/
def mergePair (s sc va sa : State) (i j : Instr) : State :=
  let st := s.me
  let c := sc.me
  let a := sa.me
  let x := j.xWrites.foldl (fun x n => if n = 0 then x else Tab.put (st.xidx n) (Tab.get {} (st.xidx n) a.x) x) c.x
  let new := (a.seq.drop st.seq.length).map fun e => { e with arith := true }
  let q := (sa.myCore.churnQ.drop s.myCore.churnQ.length).map fun e => { e with arith := true }
  let s1 := ({ sc with nextId := sa.nextId, freeCtr := sa.freeCtr } : State).setMyCore
    { sc.myCore with
      churnQ := pairChurn s.myCore.churnQ sc.myCore.churnQ q i s.myCore.dtab, divider := if isDivide j then sa.myCore.divider else sc.myCore.divider
      part := { sc.myPart with tape := pairTape s.myPart.tape sc.myPart.tape sa.myPart.tape i (!new.isEmpty) } }
  s1.setMe { c with
    x := x, landing := a.landing.filter (fun e => !c.landing.contains e) ++ c.landing, seq := pairSeq st c new i, readRecs := c.readRecs ++ st.relsRead j, known := c.known.join a.known
    seed := if a.seed = va.me.seed then c.seed else a.seed
    stat := { c.stat with fnv := c.stat.fnv || a.stat.fnv, fof := c.stat.fof || a.stat.fof, fuf := c.stat.fuf || a.stat.fuf
                          fnx := c.stat.fnx || a.stat.fnx }
    mx := if isMstat j then { c.mx with nv := false, of := false, iov := false } else c.mx }
/-- Places in the sequencer and the Churn queue suffice for both words. DESIGN CHOICE (log 14): a VSEQ or VREP with 16 words beside a vector arithmetic
word needs 17 places, and such a bundle waits for ever. -/
def pairFits (s t : State) : Bool :=
  (t.me.seq.length ≤ 16 || t.me.seq.length == s.me.seq.length) && t.myCore.churnQ.length ≤ 2
/-- The control word's effect in a pair: a YIELD takes effect after the whole bundle (R28). -/
def pairedRaw (i : Instr) (s : State) : Eff :=
  match i with
  | .yield dl kv => rawYieldPaired dl kv s
  | i => rawOf i s
/-- A pair's effect: the control word's happening comes first; with records of both words during RECORD (R242). DESIGN CHOICE (log 14): the body of
a VSEQ or VREP copies its X operands as they stood before the pair. -/
def pairEff (i j : Instr) (s : State) : BEff :=
  match pairedRaw i s with
  | .done sc =>
    let s1 := afterWord s sc i
    let va := (arithView s s1 i).setMyPart { s.myPart with tape := s1.myPart.tape }
    match rawOf j va with
    | .done sa =>
      let t := mergePair s s1 va (afterWord va sa j) i j
      if pairFits s t then .done t else .wait
    | .trap f => .trap f true
    | .miss k va => .miss k va
    | _ => .wait
  | .sleep k l sc =>
    match rawOf j s with
    | .done _ => .sleep k l sc
    | .trap f => .trap f true
    | .miss k va => .miss k va
    | _ => .wait
  | e => e.lone

/-- Steps 7 to 9 of Table 3.9 for a pair: code and word. DESIGN CHOICE (log 14): CAUSE.WORD names the control word for a 0x03 of step 9, since both
words write the destination and neither Table 14.1 nor R253 says which is at fault. -/
def Strand.pairChecks (st : Strand) (i j : Instr) : Option (Nat × Bool) :=
  let a := st.regChecks st.rbase.toNat i
  let b := st.regChecks st.rbase.toNat j
  if a == some 6 then some (6, false) else if b == some 6 then some (6, true)
  else if a.isSome then some (7, false) else if b.isSome then some (7, true)
  else if st.sameDest i j then some (3, false)
  else none

/-- Issues a pair (R28, R47, R51). -/
def issuePair (i j : Instr) (s : State) : State :=
  let st := s.me
  let pc := st.pc
  if !(s.canIssue && st.scoreboard i && st.scoreboard j && s.myCore.permitted i && (s.myCore.takePermit i).permitted j) then s
  else
    match st.pairChecks i j with
    | some (code, word) => s.trapMe { code := code } word pc
    | none =>
      let s1 := s.setMe { st.count (isYield i) with npc := nextPc pc 8, missFault := none }
      let trap (s2 : State) (f : FaultInfo) (word : Bool) : State := (s1.usePermits s2 i (some j)).trapMe f word pc
      match pairEff i j s1 with
      | .wait => s
      | e =>
        if st.overBound (isYield i) then trap s1 { code := 0x38 } false
        else
          match st.missFault with
          | some f => trap s1 (f.for_ i) false
          | none =>
            match s.argMiss i, s.argMiss j with
            | some va, _ => s.missScalar .scalar .loadStore va
            | none, some va => s.missScalar .scalar .loadStore va
            | none, none =>
              match e with
              | .done s2 => (s1.usePermits s2 i (some j)).retire s.curCore s.curStrand
              | .trap f word => trap s1 f word
              | .trapIn s2 f => trap s2 f false
              | .wait => s
              | .sleep k words s2 => s2.fallAsleep k words i (some j)
              | .miss kind va => s.missScalar .scalar kind va

/-- Issues a decoded bundle of the acting strand. -/
def issueBundle (b : Bundle) (s : State) : State :=
  match b with
  | .lone i => issueLone i (rawOf i) s
  | .pair i j => issuePair i j s
def Bundle.size : Bundle → Nat
  | .lone _ => 4
  | .pair _ _ => 8

/-! ## Waking -/

/-- The effect of a bundle whose words stand in a sleep, tried again. DESIGN CHOICE (log 14): R28 has the arithmetic word read the registers as
they stood before the bundle, and does not say when that is for a bundle that sleeps; the model reads them at the wake-up, so that a write-many
arrival (R65) during the sleep is seen. -/
def sleepEff (z : Sleep) (s : State) : BEff :=
  match z.arith with
  | none =>
    match rawOf z.control s with
    | .done t => .done (afterWord s t z.control)
    | e => e.lone
  | some j => pairEff z.control j s
/-- The state with the entries that translated the access of a sleep in the load-store TLB (R269). -/
def State.withVia (s : State) (l : List TlbEntry) : State :=
  match l with
  | [] => s
  | l => s.setMyCore { s.myCore with tlbLS := s.myCore.tlbLS ++ l.filter fun e => !s.myCore.tlbLS.contains e }
/-- That state with the load-store TLB as `s` has it. -/
def State.withoutVia (t s : State) (l : List TlbEntry) : State :=
  match l with
  | [] => t
  | _ => t.setMyCore { t.myCore with tlbLS := s.myCore.tlbLS }
/-- The strand's sleeping bundle tests its condition again (R270): it completes, faults, or sleeps on. The access that waits has been translated,
whatever the TLB has given up since. Where the condition holds and the arithmetic word cannot be taken yet, the control word has its effect now, which
no later change undoes, and the bundle completes as soon as that word can be taken. -/
def State.retest (s : State) : State :=
  let st := s.me
  match st.asleep with
  | none => s
  | some z =>
    let s0 := (s.setMe { st with asleep := none }).withVia z.via
    match sleepEff z s0 with
    | .done t => (t.withoutVia s z.via).complete s.curCore s.curStrand
    | .trap f word => (s0.withoutVia s z.via).takeFault s.curCore s.curStrand f word false false false st.pc
    | .trapIn t f => (t.withoutVia s z.via).takeFault s.curCore s.curStrand f false false false false st.pc
    | .miss kind va => (s0.withoutVia s z.via).missScalar .scalar kind va
    | .wait =>
      match z.arith, rawOf z.control s0 with
      | some _, .done t =>
        let s1 := (afterWord s0 t z.control).withoutVia s z.via
        s1.setMe { s1.me with asleep := some { z with released := true, before := some st.x } }
      | _, _ => s
    | .sleep _ _ _ => s
/-- The strand's last arrival at the domain of a sleep, and what the release does to its registers (R185, R212): ARRIVE is the stamp of
the arrival, and a BAR or BARW completes it. -/
def Sleep.wakeStrand (z : Sleep) (st : Strand) : Strand :=
  let key := z.words.headD 0
  let b := Tab.get { episode := 0, stamp := 0, open_ := false } key st.bars
  let st1 := { st with regs := { st.regs with arrive := wordN b.stamp } }
  match z.control with
  | .xphase _ => st1
  | _ => { st1 with bars := Tab.put key { b with open_ := false, again := none } st.bars }
/-- What the strand sleeps for has come: the bundle completes with its arithmetic word's effect (R28), which reads its registers now, as in `sleepEff`
(log 14), or as they stood before a control word that has had its effect already; while that word cannot be taken, the strand sleeps on. -/
def State.completeSleep (s : State) (z : Sleep) : State :=
  let s1 := s.setMe { s.me with asleep := none }
  let (s0, sc) := match z.before with
    | none => (s1, afterWord s1 (s1.setMe (z.wakeStrand s1.me)) z.control)
    | some x => (s1.setMe { s1.me with x := x }, s1)
  match z.arith with
  | none => sc.complete s.curCore s.curStrand
  | some j =>
    let va := (arithView s0 sc z.control).setMyPart { s0.myPart with tape := sc.myPart.tape }
    match rawOf j va with
    | .done sa =>
      let t := mergePair s0 sc va (afterWord va sa j) z.control j
      if pairFits s0 t then t.complete s.curCore s.curStrand else s.setMe { s.me with asleep := some { z with released := true } }
    | .trap f => s0.takeFault s.curCore s.curStrand f true false false false s.me.pc
    | _ => s.setMe { s.me with asleep := some { z with released := true } }
/-- A released bundle of strand (c, t) whose arithmetic word can be taken now completes. -/
def State.finishReleased (s : State) (c t : Nat) : Option State :=
  match (s.strand c t).asleep with
  | none => none
  | some z =>
    if !z.released then none
    else
      let s1 := (s.at_ c t).completeSleep z
      if (s1.strand c t).asleep.isNone then some (s1.at_ s.curCore s.curStrand) else none

/-! ## Convoys -/

/-- The cores whose strand t follows strand t of core c (R287). -/
def State.followers (s : State) (c t : Nat) : List Nat :=
  (quadMates c).filter fun k => (s.strand k t).stat.slave && s.streamCore k t == c && (s.core k).part.resident
/-- What the bundle would do, were the acting strand to issue it now; none while the strand is not ready for it by the registers, the permits and
its own state (R47). -/
def State.tryBundle (s : State) (b : Bundle) : Option BEff :=
  let st := s.me
  let pre (n : Nat) : State := s.setMe { st with npc := nextPc st.pc n }
  match b with
  | .lone i => if s.canIssue && st.scoreboard i && s.myCore.permitted i then some (rawOf i (pre 4)).lone else none
  | .pair i j =>
    if s.canIssue && st.scoreboard i && st.scoreboard j && s.myCore.permitted i && (s.myCore.takePermit i).permitted j then
      some (pairEff i j (pre 8))
    else none
/-- The acting strand is ready for the bundle (R47, R287). -/
def State.readyFor (s : State) (b : Bundle) : Bool :=
  match s.tryBundle b with
  | none | some .wait => false
  | _ => true
/-- The translation that the bundle would wait for, were the acting strand to issue it (R266). -/
def State.missOf (s : State) (b : Bundle) : Option (TlbKind × Nat) :=
  let late := s.me.missFault.isSome || s.me.overBound (match b with | .lone i => isYield i | .pair i _ => isYield i)
  match s.tryBundle b with
  | none | some .wait => none
  | some e =>
    if late then none
    else
      match (match b with | .lone i => s.argMiss i | .pair i j => (s.argMiss i).orElse fun _ => s.argMiss j), e with
      | some va, _ => some (.loadStore, va)
      | none, .miss k va => some (k, va)
      | none, _ => none
/-- Every member of the convoy that strand (c, t) leads is ready, its translations among what it needs (R287); without followers nothing holds
it. -/
def State.convoyReady (s : State) (c t : Nat) (b : Bundle) : Bool :=
  let l := s.followers c t
  l.isEmpty || (c :: l).all fun k => (s.at_ k t).readyFor b && ((s.at_ k t).missOf b).isNone
/-- The first member of the convoy that lacks a translation for the bundle, with what it asks for. -/
def State.convoyMiss (s : State) (c t : Nat) (b : Bundle) : Option (Nat × TlbKind × Nat) :=
  (c :: s.followers c t).findSome? fun k => ((s.at_ k t).missOf b).map fun m => (k, m)
/-- Each follower issues the bundle on its own registers (R287), unless the leader's fault has made it leave (R256). One that follows on is ahead of
a leader that `sleeps` in the bundle. -/
def State.convoyFollow (s : State) (l : List Nat) (t : Nat) (pc : VAddr) (b : Bundle) (sleeps : Bool) : State :=
  let yields := match b with
    | .lone i => isYield i
    | .pair i _ => isYield i
  l.foldl (fun s k =>
    let st := s.strand k t
    if st.stat.slave || yields then issueBundle b ((s.setStrand k t { st with pc := pc, ahead := sleeps }).at_ k t) else s) s

end Sys2Proof.Machine
end

