-- ==== Sys2Proof/Machine/Boundary.lean ====
section
/-!
DEFINITION. What is taken between two bundles of a strand, in the order of R253: sequencer and Churn faults, arrival faults
and refusals, user events.
-/
namespace Sys2Proof.Machine

/-- The strand sleeps in BAR, BARW or XPHASE, which hold events, arrival faults and refusals until they complete (R59, R180, R185), or in a bundle whose
control word has had its effect. DESIGN CHOICE (log 74): R180 and R253 name BAR and BARW alone; XPHASE arrives as BAR does, and the model has it hold
them too. -/
def Strand.inBarrier (st : Strand) : Bool :=
  match st.asleep with
  | some z => z.kind == .barrier || z.released
  | none => false
/-- A BAR that a fault interrupts has arrived already: issued again at its pc it waits without arriving again (log 74). -/
def Strand.noteBar (st : Strand) : Strand :=
  match st.asleep with
  | some z =>
    match z.control, z.words with
    | .bar _ _, [key] =>
      { st with bars := st.bars.map fun e => if e.1 = key then (key, { e.2 with again := some st.pc }) else e }
    | _, _ => st
  | none => st
/-- The address of the entry that a sequencer fault holds first, and whether it is an arithmetic word. -/
def Strand.heldSeqHead (st : Strand) : Option SeqEntry := ({ st with seq := st.seqHeld } : Strand).headSeq

/-- A sequencer fault is taken (R116 step 3). -/
def State.takeSeqFault (s : State) (c t : Nat) (f : FaultInfo) : State :=
  let st := s.strand c t
  let (epc, word) := match st.heldSeqHead with | some e => (e.pc, e.arith) | none => (st.pc, false)
  let s1 := s.setStrand c t { st with seqFault := none, vresume := { st.vresume with pc := st.pc, pend := true } }
  s1.takeFault c t f word true true false epc
/-- A Churn fault is taken (R158 step 3). -/
def State.takeChurnFault (s : State) (c t : Nat) (f : FaultInfo) : State :=
  let st := s.strand c t
  let (epc, word) := match st.churnHeld with | e :: _ => (e.pc, e.arith) | [] => (st.pc, false)
  let s1 := s.setStrand c t { st with churnFault := none, mresume := { st.mresume with pc := st.pc, pend := true } }
  s1.takeFault c t f word true false true epc
/-- Of two faults the one that is earlier in program order is taken; the other's entries stay held (R158). -/
def State.takeHeldFault (s : State) (c t : Nat) (f g : FaultInfo) : State :=
  let st := s.strand c t
  let seqFirst := match st.heldSeqHead, st.churnHeld with
    | some e, m :: _ => decide (e.ord ≤ m.id)
    | _, _ => true
  if seqFirst then
    (s.setStrand c t { st with churnFault := none, mresume := { st.mresume with pc := st.pc, pend := true } }).takeSeqFault c t f
  else (s.setStrand c t { st with seqFault := none, vresume := { st.vresume with pc := st.pc, pend := true } }).takeChurnFault c t g
/-- An arrival fault or a refusal is taken (R175, R180). -/
def State.takePending (s : State) (c t : Nat) (p : Pending) : State :=
  s.takeFault c t { code := p.code, acc := p.acc, eva := p.eva } false true false false (s.strand c t).pc

/-- The entries that a strand has handed over have completed, as far as they can (R158 step 2): an MMOVZV that waits for a held matrix entry
keeps the rest back (log 64). -/
def Strand.handedOverDone (st : Strand) : Bool :=
  match st.headSeq with
  | none => true
  | some e => e.waits.any fun id => st.churnHeld.any fun m => m.id == id
/-- Steps 1 and 2 of R253: the fault that a strand takes at its next bundle boundary, taken. In BAR and BARW those of step 2 alone are held. DESIGN
CHOICE (log 85): a strand that another strand's exchange phase holds takes them too, and its fault ends the phase (`Core.faultPhase`); R186 and R190
name a fault of the phase strand alone. -/
def State.boundaryFault (s : State) (c t : Nat) : Option State :=
  let st := s.strand c t
  let s1 := s.setStrand c t st.noteBar
  if st.status != .running then none
  else
    match st.seqFault, st.churnFault with
    | some f, none => some (s1.takeSeqFault c t f)
    | none, some g => if st.handedOverDone then some (s1.takeChurnFault c t g) else none
    | some f, some g => some (s1.takeHeldFault c t f g)
    | none, none =>
      if st.stat.sup || st.inBarrier then none
      else
        match st.arrivals, st.refusals with
        | p :: rest, _ => some ((s.setStrand c t { st with arrivals := rest }).takePending c t p)
        | [], p :: rest =>
          let r := st.regs
          some ((s.setStrand c t { st with refusals := rest, regs := { r with rsfail := p.rsfail.getD r.rsfail } }).takePending c t p)
        | [], [] => none

/-- A user event may be delivered now (R59, R185). -/
def State.deliverable (s : State) (c t : Nat) : Option Nat :=
  let st := s.strand c t
  let e := (s.core c).exch
  if st.status == .running && !st.yieldDue && !st.stat.sup && !st.stat.uev && !st.stat.slave && st.regs.uevec != 0 && !st.inBarrier
      && !e.active && !e.waiting
  then lowBit (st.regs.evpend &&& st.regs.evena) else none
/-- Delivery of code k (R59); a promotion's arming ends (R200). -/
def Strand.deliver (st : Strand) (k : Nat) : Strand :=
  { st with
    regs := { st.regs with
      evpend := st.regs.evpend &&& ~~~(BitVec.ofNat 6 (2 ^ k)), uevcode := BitVec.ofNat 4 k, uevpc := st.pc }
    stat := { st.stat with uev := true }
    pc := target (wordOf st.regs.uevec)
    asleep := none, miss := none, missFault := none, promote := none }
/-- A leader's sleep is abandoned: its followers are no longer ahead of it. -/
def State.rejoin (s : State) (c t : Nat) : State :=
  (s.followers c t).foldl (fun s k => s.setStrand k t { s.strand k t with ahead := false }) s
/-- Step 3 of R253. -/
def State.boundaryEvent (s : State) (c t : Nat) : Option State :=
  (s.deliverable c t).map fun k => (s.rejoin c t).setStrand c t ((s.strand c t).deliver k)
/-- The next happening at a strand's bundle boundary, taken: a fault of R253, the YIELD of a pair that has run, a released bundle that can complete, a user event. -/
def State.boundary (s : State) (c t : Nat) : Option State :=
  match s.boundaryFault c t with
  | some s1 => some s1
  | none =>
    match s.yieldNow c t with
    | some s1 => some s1
    | none =>
      match s.finishReleased c t with
      | some s1 => some s1
      | none => s.boundaryEvent c t

/-- What the convoy that strand (c, t) leads takes before its next bundle (R253, R287): the leader's own happening, else the first follower's. -/
def State.convoyBoundary (s : State) (c t : Nat) : Option State :=
  (c :: s.followers c t).findSome? fun k => s.boundary k t
/-- An event that is not enabled leaves the state as it is (log 25). -/
def stutter (s : State) (o : Option State) : Host.Outcome State Fault Refusal := .next (o.getD s)

/-- FAULT_ENTRY: the pending fault of strand (c, t) is taken (R251 to R253); with `unc`, 0x3F (R250). -/
def execFaultEntry (c : CoreId) (t : StrandId) (unc : Bool) (s : State) : Host.Outcome State Fault Refusal :=
  let st := s.strand c.val t.val
  if unc then
    if st.status == .running && !st.inBarrier then .next (s.takeFault c.val t.val { code := 0x3F } false false false false st.pc)
    else .next s
  else stutter s (s.boundaryFault c.val t.val)
/-- USER_EVENT_DELIVERY (R59): step 3 of R253, where steps 1 and 2 have nothing to take. -/
def execUserEventDelivery (c : CoreId) (t : StrandId) (s : State) : Host.Outcome State Fault Refusal :=
  if (s.boundaryFault c.val t.val).isSome then .next s else stutter s (s.boundaryEvent c.val t.val)

end Sys2Proof.Machine
end

