-- ==== Sys2Proof/Machine/Time.lean ====
section
/-!
DEFINITION. Time and accounts: what n fabric cycles do to fabric time (R19), ACCTCYC and ACCTNJ (R18, R294) and the issue
permits (R296).
-/
namespace Sys2Proof.Machine

/-- Core cycles that the clock generator delivers in n fabric cycles of 2.0 GHz, and the remainder in two-thousandths: the
core's own clock at CSPEED, or the exchange clock during a phase (R18, R20). -/
def Core.cyclesIn (k : Core) (n : Nat) : Nat × Nat :=
  let f := if k.exch.active then 2000 else k.curve.speed
  let u := n * f + k.part.cycFrac
  (u / 2000, u % 2000)
/-- A strand of the part is at work: neither held at a YIELD nor ended. -/
def Part.working (p : Part) : Bool := p.strands.any fun e => e.2.status == .running
/-- A permit counter after `cyc` core cycles (R296): 0 to 64 permits, in sixty-fourths. -/
def Core.refill (k : Core) (cyc : Nat) : Core :=
  { k with permits := [0, 1, 2, 3].map fun p => Nat.min 4096 (k.permits.getD p 0 + k.rate p * cyc) }
/-- A part is charged for m fabric cycles (R18, R294): its core cycles and its leakage; 1 mW for half a nanosecond is 0.5 pJ. -/
def Core.accrue (k : Core) (m : Nat) : Part :=
  let p := k.part
  let (mine, left) := k.cyclesIn m
  let u := k.curve.cleak * m * 3200 * 562500 + p.njFrac
  { p with
    acctCyc := p.acctCyc + BitVec.ofNat 64 mine, cycFrac := left, acctNj := p.acctNj + BitVec.ofNat 64 (u / njUnit), njFrac := u % njUnit }
/-- One core over n fabric cycles. `lead` is the part whose strands count: its own, or that of the primary of a DUAL pair, whose partner is charged
with it (R303). A part is charged from its first issue to the cycle in which the last of its strands is held or ends its task (R298); an empty
core's permits grow too (R296). -/
def Core.pass (k : Core) (n : Nat) (lead : Part) : Core :=
  let k1 := k.refill (k.cyclesIn n).1
  if !k.part.occupied || !lead.charged then k1
  else { k1 with part := { k.accrue (if lead.working then n else Nat.min n 1) with charged := lead.working } }
/-- A resident strand of the part waits on memory (R295): for an access that it has issued, a word that is to be full, or a translation. -/
def Part.onMemory (p : Part) : Bool :=
  p.occupied && p.strands.any fun e => e.2.miss.isSome || (e.2.out.any fun a => !a.op.isStore) || match e.2.asleep with
    | some z => z.kind == .full
    | none => false
/-- A core's clock runs: a task of a member is on it, or a unit still works, or a test runs; an idle core is clock-gated (Table 1.3). -/
def Core.clocked (k : Core) : Bool :=
  k.part.occupied || k.churnRun.isSome || !k.churnQ.isEmpty || k.engRun.isSome || !k.engQ.isEmpty || k.test.testing
/-- The part whose strands say how long core c's is resident (R298, R303). -/
def State.leadPart (s : State) (c : Nat) : Part :=
  let p := (s.core c).part
  match p.mirror, p.partner with
  | true, some q => (s.core q).part
  | _, _ => p
/-- The clocked core cycles of n fabric cycles, and those of them that a strand waits on memory in (R295). -/
def State.measure (s : State) (n : Nat) : Meter :=
  s.cores.foldl (fun m e =>
    let cyc := if e.2.clocked then (e.2.cyclesIn n).1 else 0
    { m with clocked := m.clocked + cyc, stalled := m.stalled + if (s.leadPart e.1).onMemory then cyc else 0 }) s.meter
/-- A cycle of an exchange phase ends: the sequencer entry that has executed leaves (R220, R272), and the selections sampled in it are gone
(R188). -/
def Strand.endCycle (st : Strand) : Strand :=
  match st.leaving with
  | some f => { st.popSeq with seqFree := f, leaving := none }
  | none => st
/-- Results become available whose time has come (R48); at the end of a phase all do. -/
def Strand.land (st : Strand) (now : Nat) (active : Bool) : Strand :=
  match st.landing with
  | [] => st
  | l =>
    let due := l.filter fun e => !active || e.2 ≤ now
    { st with
      landing := l.filter fun e => !due.contains e
      x := due.foldl (fun x e => Tab.put e.1 { Tab.get {} e.1 x with busy := false } x) st.x }
/-- The core at fabric time `now`: the results and the divider that are free by then. -/
def Core.land (k : Core) (now : Nat) : Core :=
  { k with
    divider := k.divider.filter fun d => k.exch.active && now < d
    part := { k.part with strands := k.part.strands.map fun e => (e.1, e.2.land now k.exch.active) } }
def Core.endCycle (k : Core) : Core :=
  { k with
    exch := { k.exch with armed := k.exch.armed.filter fun a => !a.used }
    part := { k.part with strands := k.part.strands.map fun e => (e.1, e.2.endCycle) } }
/-- n fabric cycles pass: the claims of the present one are served as it ends (R108), and its BSETs reach their
networks (R214). -/
def State.pass (s : State) (n : Nat) : State :=
  if n = 0 then s
  else
    let s1 := s.serveClaims.takeBsets
    { s1 with time := s.time + n, meter := s1.measure n, cores := s1.cores.map fun e => (e.1, (e.2.endCycle.land (s.time + n)).pass n (s1.leadPart e.1)) }

end Sys2Proof.Machine
end

