-- ==== Sys2Proof/Machine/EvState.lean ====
section
/-!
DEFINITION. The table's writes of state registers: what a SETS or SWAPS of strand (c, t) does to the register (R54), the
strand's fault where it is refused.
-/
namespace Sys2Proof.Machine

/-- A write by strand (c, t): 0x05 for a supervisor's register at user privilege (R43), 0x02 where it is refused (R54); a write
that waits changes nothing yet. -/
def State.selEvent (s : State) (c t sel : Nat) (v : Word) : State :=
  let st := s.strand c t
  let bad (code : Nat) : State := s.takeFault c t { code := code } false false false false st.pc
  if selSuper sel && !st.stat.sup then bad 0x05
  else
    match s.writeSel c t sel v with
    | .ok s1 => s1
    | .bad => bad 0x02
    | .wait => s

/-- RBASE_WRITE: handed over as an RBSET (R119). -/
def execRbaseWrite (c : CoreId) (t : StrandId) (v : Word) (s : State) : Host.Outcome State Fault Refusal :=
  .next (s.selEvent c.val t.val 0x006 v)
/-- PAILHEAD_WRITE (R165, R166). -/
def execPailheadWrite (c : CoreId) (t : StrandId) (v : Word) (s : State) : Host.Outcome State Fault Refusal :=
  .next (s.selEvent c.val t.val 0x052 v)
/-- PAIL_GEOMETRY_WRITE: PAILSIZE with `size`, else PAILBASE (R165). -/
def execPailGeometryWrite (c : CoreId) (t : StrandId) (size : Bool) (v : Word) (s : State) : Host.Outcome State Fault Refusal :=
  .next (s.selEvent c.val t.val (if size then 0x051 else 0x050) v)
/-- XSRCENT_WRITE: waits while a phase is active on the core (R184). -/
def execXsrcentWrite (c : CoreId) (t : StrandId) (v : Word) (s : State) : Host.Outcome State Fault Refusal :=
  .next (s.selEvent c.val t.val 0x08D v)
/-- MSCOPE_WRITE (R95). -/
def execMscopeWrite (c : CoreId) (t : StrandId) (v : Word) (s : State) : Host.Outcome State Fault Refusal :=
  .next (s.selEvent c.val t.val 0x084 v)
/-- ENGERR_WRITE (R229). -/
def execEngerrWrite (c : CoreId) (t : StrandId) (v : Word) (s : State) : Host.Outcome State Fault Refusal :=
  .next (s.selEvent c.val t.val 0x093 v)
/-- STATE_REGISTER_WRITE: any selector (R54). -/
def execStateRegisterWrite (c : CoreId) (t : StrandId) (sel : BitVec 12) (v : Word) (s : State) : Host.Outcome State Fault Refusal :=
  .next (s.selEvent c.val t.val sel.toNat v)

end Sys2Proof.Machine
end

