-- ==== Sys2Proof/Machine/EvSeq.lean ====
section
/-!
DEFINITION. A strand's sequencer at work: entries start in order (R114, R135), faults are deferred (R116), SFU requests and
results (R134), exchange words driven and sampled (R187, R188).
-/
namespace Sys2Proof.Machine

/-! ## What an entry reads -/

/-- The pass of the loop in which the head entry stands, and the RBASE and register offset that it uses (R117, R118). -/
structure SeqPlace where
  iter : Nat := 0
  rbase : Nat
  off : Nat := 0
  deriving DecidableEq, Repr
def Strand.placeOf (st : Strand) (e : SeqEntry) : SeqPlace :=
  match e.inLoop, st.loop with
  | true, some l => { iter := l.iter, rbase := l.rbase, off := if l.rep then l.iter * l.step else 0 }
  | _, _ => { rbase := e.rbase }
def Strand.ctxOf (st : Strand) (e : SeqEntry) : VCtx :=
  let p := st.placeOf e
  { src := st.fileOf e, lanes := e.lanes.getD st.nlanes, rbase := p.rbase, off := p.off, c := e.pcount }

/-- Physical registers of an operand in a pass. -/
def VOp.regsAt (o : VOp) (k : VCtx) : List Nat := (span o.n (o.len k.lanes k.c)).map (physOff k.rbase k.off)
/-- The physical V registers that an entry reads, and those that it writes. -/
def SeqEntry.reads (e : SeqEntry) (k : VCtx) : List Nat :=
  match e.instr with
  | .spill .v d n => (span d.val (n.val + 1)).map (phys k.rbase)
  | i => ((vOps i e.pwidth).filter fun o => !o.dst || readsDst i).flatMap fun o => o.regsAt k
def SeqEntry.writes (e : SeqEntry) (k : VCtx) : List Nat :=
  match e.instr with
  | .fill .v d n => (span d.val (n.val + 1)).map (phys k.rbase)
  | .mmovzv a _ _ => VOp.regs { n := a.val, w := 32 } k.lanes 16 k.rbase
  | i => ((vOps i e.pwidth).filter (·.dst)).flatMap fun o => o.regsAt k
/-- Registers of strand (c, t) that SFU requests still write. -/
def State.sfuDests (s : State) (c t : Nat) : List Nat :=
  ((s.octet (octetOf c)).sfu.filter fun q => q.core == c && q.strand == t && q.isOf (s.core c).part).flatMap fun q =>
    q.entry.writes { src := [], lanes := q.lanes, rbase := q.entry.rbase, off := q.off, c := q.entry.pcount }
/-- The operands are there: no register that the entry reads is empty (R115) or awaits an armed slot of an earlier XSEL (R188), and none that it
reads or writes awaits an SFU result (R134) or, in an exchange phase, the end of an earlier entry (R135). -/
def State.operandsReady (s : State) (c t : Nat) (e : SeqEntry) (k : VCtx) : Bool :=
  let st := s.strand c t
  let x := (s.core c).exch
  let busy := s.sfuDests c t
  let late (r : Nat) : Bool := busy.contains r || (x.active && s.time < Tab.get 0 r st.vready)
  (e.reads k).all (fun r => (Tab.get {} r k.src).full && !late r
      && !(x.armed.any fun a => a.strand == t && a.reg == r && (!Tab.has r e.snap || a.ord < e.pairOrd)))
    && (e.writes k).all fun r => !late r
/-- In an exchange phase: the cycle in which the head entry reaches execution has come (R272): the one after its handover, or after the entry before
it has left. -/
def State.reached (s : State) (c t : Nat) (e : SeqEntry) : Bool :=
  !(s.core c).exch.active || Nat.max (e.handed + 1) (s.strand c t).seqFree ≤ s.time
/-- Starts that an entry takes: the registers of its largest operand (R135). -/
def SeqEntry.starts (e : SeqEntry) (k : VCtx) : Nat :=
  match e.instr with
  | .spill .v _ n | .fill .v _ n => n.val + 1
  | .mmovzv _ _ _ => groupRegs k.lanes 32 16
  | i => (vOps i e.pwidth).foldl (fun m o => Nat.max m (o.len k.lanes k.c)) 0

/-! ## What an entry does -/

/-- Row `row` of a tile copied to elements 0 to 15 at width 32 (R154). -/
def moveRow (k : VCtx) (file : Tab VReg) (a : Reg) (z : ZTile) (row : Nat) : Tab VReg :=
  (span 0 16).foldl (fun f n => vset f k.lanes k.rbase 0 a.val 32 n (z.at_ (16 * row + n))) file
/-- A SPILL's values, the first register lowest, go to its record (R63). -/
def Strand.putSpill (st : Strand) (id : Nat) (vs : List (BitVec 2048)) : Strand :=
  { st with
    spill := st.spill.map fun r => if r.id = id && r.cls == .v then { r with vs := vs } else r
    seq := st.seq.map fun e => match e.instr with
      | .fill .v _ _ => if e.pcount = id then { e with vals := vs } else e
      | _ => e }
/-- A FILL's values, written to the registers from d on (R63). -/
def fillV (k : VCtx) (file : Tab VReg) (d : Nat) (vs : List (BitVec 2048)) : Tab VReg :=
  (vs.zip (span d vs.length)).foldl (fun f x => Tab.put (phys k.rbase x.2) { val := x.1, full := true } f) file
/-- XSEL on reaching execution (R188): armed for its slot, or LATE at it or after it. Where the phase has ended, it is discarded before the handler's
ERET, as armed selections are (log 51), and raises 0x28 after it (R190). -/
def State.arm (s : State) (c t : Nat) (k : VCtx) (slot : BitVec 13) (l : Reg) (e : BitVec 5) (ord : Nat) : SeqOut :=
  let cr := s.core c
  let x := cr.exch
  if !x.active then (if (s.strand c t).stat.sup then .done s else .fault { code := 0x28 })
  else if slot.toNat ≤ s.xcyc c then .done (s.setCore c { cr with exch := { x with late := true } })
  else if 16 ≤ x.armed.length then .wait
  else
    let ent := Tab.get 0 e.toNat cr.part.xsrc
    let a : Armed := { slot := slot.toNat, src := entrySrc (dieOf c) ent, seg := entrySeg ent, reg := physOff k.rbase k.off l.val, strand := t, ord := ord }
    .done (s.setCore c { cr with exch := { x with armed := x.armed ++ [a] } })
/-- RSENDV's data and its departure (R177). -/
def State.sendVec (s : State) (c t : Nat) (k : VCtx) (e : SeqEntry) (b : Reg) : SeqOut :=
  let v := e.xa.val
  if !capOk v .v then .fault { code := 0x21 }
  else if 8 ≤ (s.strand c t).regSends.length then .wait
  else
    let data := joinVals ((span 0 e.pcount).map fun n => (e.pwidth / 8, k.el b e.pwidth n))
    let s1 := (s.at_ c t).regSend 5 v (BitVec.ofNat 512 data) e.pcount e.pwidth e.fence (some e.ord)
    .done { s1 with curCore := s.curCore, curStrand := s.curStrand }

/-- The strand's tiles are held from the start of its first matrix instruction that names one; parked data moves down (R138). -/
def State.holdTiles (s : State) (c t : Nat) : State :=
  let st := s.strand c t
  if st.mx.held then s else (s.setStrand c t { st with mx := { st.mx with held := true } }).leaveTiles c

/-- The head entry of strand (c, t) executes (R103 to R135). The entry itself stays in place. -/
def State.runEntry (s : State) (c t : Nat) (e : SeqEntry) : SeqOut :=
  let st := s.strand c t
  let k := st.ctxOf e
  let p := st.placeOf e
  let file (f : Tab VReg) : SeqOut := .done (s.setStrand c t { st with v := f })
  let mem (d : Reg) (m : Mode) (sync : Bool) : SeqOut := s.vecMemRun c t k e p.iter d m sync
  match e.instr with
  | .vld d _ _ m | .vst d _ _ m | .vldb d _ _ m => mem d m false
  | .vldsy d _ _ m => mem d m true
  | .vlds d _ _ _ m | .vsts d _ _ _ m | .vldg d _ _ _ m | .vstg d _ _ _ m => mem d m false
  | .rbset _ => .done s
  | .rbget _ => .done (s.setStrand c t (st.xputAt e.xd { val := wordN e.rbase }))
  | .vext _ a _ _ ty => .done (s.setStrand c t (st.xputAt e.xd { val := vextVal k e.xa.val a ty }))
  | .spill .v d n => .done (s.setStrand c t (st.putSpill e.pcount ((span d.val (n.val + 1)).map fun r => (Tab.get {} (phys k.rbase r) k.src).val)))
  | .fill .v d _ => file (fillV k st.v d.val e.vals)
  | .mmovzv a z row =>
    let busy := (s.core c).churnQ ++ (s.core c).churnRun.toList ++ st.churnHeld
    if busy.any fun m => e.waits.contains m.id then .wait
    else .done ((s.setStrand c t { st with v := moveRow k st.v a (st.mx.tile z) row.toNat }).holdTiles c t)
  | .rsendv _ b _ => s.sendVec c t k e b
  | .xsel slot l x => s.arm c t k slot l x e.ord
  | .xmit slot _ _ => if !(s.core c).exch.active || slot.toNat < s.xcyc c then .fault { code := 0x28 } else .wait
  | .vsfu _ _ _ _ _ => .wait
  | i =>
    let o := vexec k e.xa.val st.v st.seed i
    .done (s.setStrand c t { st with v := o.file, seed := o.seed, vstat := st.vstat.or o.flags })

/-- The partner of a pair's first entry reads what that entry, in the context k, writes over as it stands before it (R28). -/
def Strand.snapNext (st : Strand) (e : SeqEntry) (k : VCtx) : Strand :=
  if !e.pairHead then st
  else
    let i := match e.inLoop, st.loop with
      | true, some l => l.pos + 1
      | _, _ => 1
    let old := (e.writes k).map fun p => (p, st.vreg p)
    { st with seq := st.seq.mapIdx fun j x => if j = i then { x with snap := old, pairOrd := e.ord } else x }
/-- Least power of two of at least n. -/
def pow2From (n : Nat) : Nat := if n ≤ 1 then 1 else 2 ^ (Nat.log2 (n - 1) + 1)
/-- The latency of a vector word on `c` active elements (Table 6.12); the memory's and the SFU's are no part of the table. -/
def vecLatency (c : Nat) : Instr → Nat
  | .vadd _ _ _ _ _ _ | .vsub _ _ _ _ _ _ | .vmul _ _ _ _ _ | .vmulh _ _ _ _ _ | .vand _ _ _ _ _ | .vor _ _ _ _ _ | .vxor _ _ _ _ _
  | .vshl _ _ _ _ _ | .vshr _ _ _ _ _ | .vsra _ _ _ _ _ | .vmin _ _ _ _ _ | .vmax _ _ _ _ _ | .vcmp _ _ _ _ _ _ | .vsel _ _ _ _ _
  | .vbcst _ _ _ _ | .viota _ _ _ | .vext _ _ _ _ _ => 4
  | .vperm _ _ _ _ _ | .vslide _ _ _ _ _ _ | .vfma _ _ _ _ _ _ | .vfms _ _ _ _ _ _ => 6
  | .vfadd _ _ _ _ _ _ | .vfsub _ _ _ _ _ _ | .vfmul _ _ _ _ _ _ | .vfmin _ _ _ _ _ | .vfmax _ _ _ _ _ | .vfabs _ _ _ _ | .vfcmp _ _ _ _ _ _
  | .vfcvt _ _ _ _ _ _ | .vfrnd _ _ _ _ _ | .vscale _ _ _ _ _ _ => 5
  | .vaddx _ _ _ _ _ | .vsubx _ _ _ _ _ | .vmulx _ _ _ _ _ | .dwnorm _ _ _ => 7
  | .dwmul _ _ _ _ => 13
  | .dwadd _ _ _ _ | .dwsub _ _ _ _ => 14
  | .vsum _ _ _ _ => 2 + 5 * Nat.log2 (pow2From c)
  | .vredmax _ _ _ _ => 2 + 4 * Nat.log2 (pow2From c)
  | .vsumc _ _ _ => 9 + 7 * Nat.log2 (pow2From c)
  | .rbget _ => 2
  | _ => 0
/-- In an exchange phase, where core cycles are fabric cycles (R185), the results of an entry of `starts` registers that has started now are there
after start + (starts − 1) + latency (R135). -/
def State.vecLatent (s : State) (c t : Nat) (e : SeqEntry) (k : VCtx) (starts : Nat) : State :=
  let n := vecLatency k.c e.instr
  if !(s.core c).exch.active || n = 0 then s
  else
    let at_ := s.time + (starts - 1) + n
    let st := s.strand c t
    let st1 := { st with vready := (e.writes k).foldl (fun v p => Tab.put p at_ v) st.vready }
    s.setStrand c t (match e.xd with | some p => st1.landsAt p at_ | none => st1)
/-- The releases of the register sends that filled the V registers that the entry reads in `file` (R182). -/
def SeqEntry.relsRead (e : SeqEntry) (k : VCtx) (file : Tab VReg) : List RelRec := (e.reads k).filterMap fun p => (Tab.get {} p file).rel
/-- In an exchange phase an XMIT leaves at the end of its slot's cycle (R272) and a vector store in the cycle after it starts (R220): the fabric
time at which the entry after such a one may reach execution; none for an entry that leaves at once. -/
def State.lingers (s : State) (c : Nat) (i : Instr) : Option Nat :=
  if !(s.core c).exch.active then none
  else
    match i with
    | .xmit _ _ _ => some (s.time + 1)
    | i => if isVecStore i then some (s.time + 2) else none
/-- The head entry is done, having observed the releases `l`; it leaves now, or where it `lingers` at the end of the cycle. -/
def State.leaveSeq (s : State) (c t : Nat) (starts : Nat) (l : List RelRec) (lingers : Option Nat) : State :=
  let st := s.strand c t
  let st1 := { st with readRecs := st.readRecs ++ l }
  let st2 := match lingers with
    | some f => { st1 with leaving := some f }
    | none => { st1.popSeq with seqFree := s.time + Nat.max 1 starts }
  (s.setStrand c t st2).energy c (40 * st.nlanes * starts) (some 1)
/-- A deferred sequencer fault (R116 steps 1 and 2): the faulting entry and all later ones are held. -/
def State.holdSeq (s : State) (c t : Nat) (f : FaultInfo) : State :=
  let st := s.strand c t
  s.setStrand c t { st with seqHeld := st.seq, seq := [], seqFault := some f }
/-- The sequencer's address has no translation (R116, R266). -/
def State.seqMisses (s : State) (c t va : Nat) : State :=
  let st := s.strand c t
  let q : MissReq := { who := .sequencer, kind := .loadStore, core := c, strand := t, va := va, asid := st.regs.asid }
  (s.setStrand c t { st with seqMiss := some q }).walk q

/-- An explicit predicate's count of 0 makes the entry no operation (R113). -/
def SeqEntry.noOp (e : SeqEntry) : Bool := predOf e.instr != 0 && e.pcount == 0
/-- The head entry starts, if its operands are there. A fault that the TSC answered is the entry's (R268). -/
def State.startEntry (s : State) (c t : Nat) : Option State :=
  if s.fenced c then none else
  let st := s.strand c t
  match st.headSeq with
  | none => none
  | some e =>
    let k := st.ctxOf e
    if st.seqMiss.isSome || st.seqFault.isSome || st.leaving.isSome || !s.reached c t e then none
    else if e.noOp then some (s.leaveSeq c t 0 [] none)
    else if !s.operandsReady c t e k then none
    else
      match st.seqMissFault with
      | some f => some ((s.setStrand c t { st with seqMissFault := none }).holdSeq c t (f.for_ e.instr))
      | none =>
        let s0 := s.setStrand c t (st.snapNext e k)
        match s0.runEntry c t e with
        | .done s1 => some ((s1.vecLatent c t e k (e.starts k)).leaveSeq c t (e.starts k) (e.relsRead k k.src) (s.lingers c e.instr))
        | .fault f => some (s.holdSeq c t f)
        | .miss va => some (s.seqMisses c t va)
        | .wait => none

/-- SEQUENCER_ENTRY_START (R135). -/
def execSequencerEntryStart (c : CoreId) (t : StrandId) (s : State) : Host.Outcome State Fault Refusal :=
  stutter s (s.startEntry c.val t.val)

/-! ## The SFU -/

/-- Strand (c, t) asked for the SFU before every other strand of the octet that asks; in one fabric cycle the order is that of the core and then
the strand (R108, R134), and the cycle is over. -/
def State.asksFirst (s : State) (c t : Nat) : Bool :=
  match (s.strand c t).sfuAt with
  | none => false
  | some a =>
    a < s.time && (span (c / 8 * 8) 8).all fun q => s.fenced q || (span 0 4).all fun u =>
      match (s.strand q u).sfuAt with
      | none => true
      | some b => a < b || (a == b && 4 * c + t ≤ 4 * q + u)
/-- The VSFU at the sequencer's head asks for the SFU, or the octet's queue of 16 accepts it (R134). -/
def State.acceptSfu (s : State) (c t : Nat) : Option State :=
  if s.fenced c then none else
  let st := s.strand c t
  match st.headSeq with
  | none => none
  | some e =>
    let k := st.ctxOf e
    let o := s.octet (octetOf c)
    match e.instr with
    | .vsfu _ _ _ _ _ =>
      if e.noOp || !s.operandsReady c t e k || st.seqFault.isSome || st.seqMiss.isSome || st.leaving.isSome || !s.reached c t e then none
      else if st.sfuAt.isNone then some (s.setStrand c t { st with sfuAt := some s.time })
      else if 16 ≤ o.sfu.length || !s.asksFirst c t then none
      else
        let q : SfuReq := { core := c, strand := t, launch := (s.core c).part.launch, rank := (s.core c).part.rank, entry := { e with rbase := k.rbase, snap := [] }
                            src := k.src, lanes := k.lanes, off := k.off }
        let s1 := (s.setStrand c t { st.snapNext e k with sfuAt := none }).setOctet (octetOf c) { o with sfu := o.sfu ++ [q] }
        some (s1.leaveSeq c t (e.starts k) (e.relsRead k k.src) none)
    | _ => none
def execSfuRequestAccept (c : CoreId) (t : StrandId) (s : State) : Host.Outcome State Fault Refusal :=
  stutter s (s.acceptSfu c.val t.val)
/-- A request's results in a register file (R133), and in what entries of pairs, all later, keep of it. -/
def SfuReq.apply (q : SfuReq) (st : Strand) : Strand :=
  let k : VCtx := { src := q.src, lanes := q.lanes, rbase := q.entry.rbase, off := q.off, c := q.entry.pcount }
  let o := vexec k 0 st.v st.seed q.entry.instr
  ({ st with v := o.file } : Strand).intoSnaps (q.entry.writes k) fun _ => true
/-- The SFU writes the head request's results into the strand, or into its saved image (R134, R260); those of a task that has
ended are discarded (Table 14.9). The energy is the requester's, and of no other part that is on the core by then (R294). -/
def State.sfuResult (s : State) (o : Nat) : Option State :=
  let oc := s.octet o
  match oc.sfu with
  | [] => none
  | q :: rest =>
    let p := (s.core q.core).part
    let here := p.occupied && q.isOf p
    let s1 := (s.setOctet o { oc with sfu := rest }).spend q.core (64 * (200 * q.entry.pcount)) (some 2) (here && p.charged)
    if here then
      some (s1.setStrand q.core q.strand (q.apply (s1.strand q.core q.strand)))
    else
      some { s1 with images := s1.images.map fun e =>
        if e.2.oldCore = q.core && e.2.restored.isNone && q.isOf e.2.part then
          (e.1, { e.2 with part := e.2.part.setStrand q.strand (q.apply (Tab.get {} q.strand e.2.part.strands)) })
        else e }
def execSfuResult (o : Fin 1024) (s : State) : Host.Outcome State Fault Refusal := stutter s (s.sfuResult o.val)

/-! ## Exchange words -/

/-- Bytes 16g to 16g + 15 of a register. -/
def segOf (v : BitVec 2048) (g : Nat) : BitVec 128 := BitVec.ofNat 128 (v.toNat / 2 ^ (128 * g))
/-- The XMIT at the sequencer's head drives its word at its slot, which one XMIT drives (R187). -/
def State.driveXmit (s : State) (c t : Nat) : Option State :=
  let st := s.strand c t
  let k := s.core c
  match st.headSeq with
  | none => none
  | some e =>
    match e.instr with
    | .xmit slot l g =>
      let x := st.ctxOf e
      if !k.exch.active || s.xcyc c != slot.toNat || Tab.has slot.toNat k.exch.lane || !s.operandsReady c t e x || st.seqFault.isSome || st.leaving.isSome
          || !s.reached c t e then none
      else
        let w := segOf (Tab.get {} (physOff x.rbase x.off l.val) x.src).val g.toNat
        let s1 := s.setCore c { k with exch := { k.exch with lane := Tab.put slot.toNat w k.exch.lane } }
        some ((s1.setStrand c t ((s1.strand c t).snapNext e x)).leaveSeq c t 1 (e.relsRead x x.src)
          (s.lingers c e.instr))
    | _ => none
def execXmitDrive (c : CoreId) (t : StrandId) (s : State) : Host.Outcome State Fault Refusal := stutter s (s.driveXmit c.val t.val)
/-- The word on a source's lane `delay` cycles before slot t (R188, R189): none where the lane was invalid, or the source is
outside the domain or its phase. -/
def State.laneWord (s : State) (c : Nat) (a : Armed) : Option (BitVec 128) :=
  let x := (s.core c).exch
  let y := (s.core a.src).exch
  let dl := exchDelay c a.src
  if y.start != x.start || y.dom != x.dom || y.die != x.die || a.slot < dl then none
  else if (!x.die && clusterOf a.src != clusterOf c) || dieOf a.src != dieOf c then none
  else (y.lane.find? fun e => e.1 == a.slot - dl).map (·.2)
/-- The armed selection whose slot has come is used once (R188): its segment is written, or MISS is set. It stands until its cycle has
passed. -/
def State.sampleXsel (s : State) (c : Nat) : Option State :=
  let k := s.core c
  if !k.exch.active then none
  else
    (k.exch.armed.find? fun a => !a.used && a.slot ≤ s.xcyc c).map fun a =>
      let s1 := s.setCore c { k with exch := { k.exch with armed := k.exch.armed.map fun x => if x = a then { x with used := true } else x } }
      match s.laneWord c a with
      | some w =>
        let st := s1.strand c a.strand
        let r := st.vreg a.reg
        let st1 := st.vput a.reg { val := setField r.val 128 a.seg w.toNat, full := true }
        s1.setStrand c a.strand (st1.intoSnaps [a.reg] fun e => a.ord < e.pairOrd)
      | none =>
        let k1 := s1.core c
        s1.setCore c { k1 with exch := { k1.exch with miss := true } }
def execXselSample (c : CoreId) (s : State) : Host.Outcome State Fault Refusal := stutter s (s.sampleXsel c.val)

end Sys2Proof.Machine
end

