-- ==== Sys2Proof/Machine/EvChurn.lean ====
section
/-!
DEFINITION. The Churn at work: entries start with their checks, retire with their effect, or fault and are held (R151 to R160).
-/
namespace Sys2Proof.Machine

/-- Held entries of the core's strands that are to execute again go to the queue as far as there is room (R158). -/
def State.requeueAll (s : State) (c : Nat) : State := (span 0 4).foldl (fun s t => s.requeue c t) s
/-- A Churn fault (R158 step 1): the faulting entry and every later one of its strand are held, those that still wait for room after an ERET
behind them; others' entries proceed, held ones that are to execute again among them. With two entries queued behind a running one that makes
three, and the model holds them all (log 63). -/
def State.holdChurn (s : State) (c : Nat) (e : ChurnEntry) (f : FaultInfo) : State :=
  let k := s.core c
  let later := k.churnQ.filter fun q => q.strand == e.strand && q.id != e.id
  let k1 := { k with
    churnQ := k.churnQ.filter fun q => q.strand != e.strand
    churnRun := k.churnRun.filter fun q => q.id != e.id }
  let s1 := s.setCore c k1
  let st := s1.strand c e.strand
  (s1.setStrand c e.strand { st with churnHeld := e :: later ++ st.churnHeld, churnFault := some f }).requeueAll c

/-- The mode that a matrix word names. -/
def mxMode : Instr → Mode
  | .mprog _ m | .mstz _ _ m _ | .mldz _ _ m => m
  | .ringdef _ _ _ m => m
  | _ => .L
/-- Address, bytes, alignment and kind of the access of MSTZ, MLDZ and MPROG (R149, R153). -/
def ChurnEntry.access (e : ChurnEntry) : Option (Nat × Nat × AccKind) :=
  match e.instr with
  | .mstz _ _ _ f => some (256 * zSize f, zSize f, .engWrite)
  | .mldz _ _ _ => some (1024, 4, .engRead)
  | .mprog _ _ => some (32, 32, .engRead)
  | _ => none
/-- The checks of an entry's addresses in the order of R93; MPROG's block lies in the user part (R149). -/
def State.churnBytes (s : State) (c : Nat) (e : ChurnEntry) : Chk :=
  match e.access with
  | none => .ok []
  | some (n, align, acc) =>
    let sup := match e.instr with
      | .mprog _ _ => false
      | _ => e.sup
    s.check c sup (s.strand c e.strand).regs.asid .matrix acc (mxMode e.instr) (vaof e.pa) n align false
/-- An uncorrectable word among the bytes that MLDZ or MPROG reads (R157 step 4). -/
def State.churnBad (s : State) (e : ChurnEntry) (bytes : List Nat) : Option FaultInfo :=
  match e.instr with
  | .mldz _ _ _ | .mprog _ _ =>
    ((span (vaof e.pa) bytes.length).zip bytes |>.find? fun x => s.badWords.contains (x.2 / 4)).map fun x =>
      { code := 0x1E, acc := 5, eva := x.1 / 4 * 4 }
  | _ => none
/-- RINGDEF's checks in the order of R140. -/
def State.ringdefFault (s : State) (c : Nat) (e : ChurnEntry) (m : Mode) : Option FaultInfo :=
  let f := if e.marked then fmtof e.pa else 0
  let ea := vaof e.pa
  let n := e.len.toNat
  if n = 0 then none
  else if (ringTile f).isNone || (f == 0x19 && blkof e.pa != 5) then some { code := 0x13 }
  else if n < 256 || 65536 < n || (s.place c false m ea).isNone || (s.place c false m (ea + n - 1)).isNone then
    some { code := 0x15, eva := ea }
  else if ea % 128 ≠ 0 || n % 128 ≠ 0 then some { code := 0x10, eva := ea }
  else none
/-- Rings of a tile operation: undefined for the launch, or too small for what it needs at once, 0x30; formats, 0x13. -/
def State.tileFault (s : State) (c : Nat) (e : ChurnEntry) : Option FaultInfo :=
  let k := s.core c
  match ringUse e.instr with
  | none => none
  | some (ga, gb, nb) =>
    match k.ring ga.val k.part.launch, k.ring gb.val k.part.launch with
    | some a, some b =>
      let need := ringNeeds ga gb nb a b
      if a.size < need.1 || b.size < need.2 then some { code := 0x30 }
      else if !tileFormatsOk (s.strand c e.strand).mx e.instr a.fmt b.fmt then some { code := 0x13 }
      else none
    | _, _ => some { code := 0x30 }
/-- Microprogram checks (R149) and MSTZ's tile type (R153). -/
def State.otherFormatFault (s : State) (c : Nat) (e : ChurnEntry) : Option FaultInfo :=
  match e.instr with
  | .mstz _ z _ f => if f != .native && ((s.strand c e.strand).mx.tile z).int then some { code := 0x13 } else none
  | .ringdef _ _ _ m => s.ringdefFault c e m
  | _ => none
/-- An access of strand (c, t) issued before number `id`, of a scalar instruction or a sequencer entry, is not performed yet and may touch the bytes;
with `stores`, one that changes data there (R159, R160, R236). -/
def State.pendingMeets (s : State) (c t id : Nat) (stores : Bool) (bytes : List Nat) : Bool :=
  let st := s.strand c t
  !bytes.isEmpty && ((st.out.any fun a => !a.performed && decide (a.ord.getD a.id < id) && (!stores || a.op.writes) && overlaps a.bytes bytes)
    || s.entriesMeet c t (st.seq ++ st.seqHeld) (fun q => decide (q.ord < id) && (!stores || isVecStore q.instr)) bytes)
/-- The entry waits for earlier accesses of its strand to the bytes: a read for the stores, MSTZ for them all (R159, R160). -/
def State.churnHeldUp (s : State) (c : Nat) (e : ChurnEntry) (bytes : List Nat) : Bool :=
  s.pendingMeets c e.strand e.id (match e.instr with | .mstz _ _ _ _ => false | _ => true) bytes
/-- Commands of the engine that name ring g and were issued before the entry (R140). -/
def Core.copiesToRing (k : Core) (g : Fin 4) (id : Nat) : Bool :=
  (k.engQ ++ (k.engRun.map (·.cmd)).toList).any fun q => decide (q.id < id) && (match q.instr with
    | .cpys h _ _ _ _ _ => h == g
    | _ => false)

/-- The entry names a Z tile (R138). -/
def namesTile : Instr → Bool
  | .mzero _ | .mma _ _ _ _ | .mmas _ _ _ _ | .mrun _ _ _ _ | .mstz _ _ _ _ | .mldz _ _ _ => true
  | _ => false
def isMprog : Instr → Bool
  | .mprog _ _ => true
  | _ => false
/-- The Churn's address has no translation (R153, R266): it is held. -/
def State.churnMisses (s : State) (c : Nat) (e : ChurnEntry) (va : Nat) : State :=
  let q : MissReq := { who := .churn, kind := .matrix, core := c, strand := e.strand, va := va, asid := (s.strand c e.strand).regs.asid }
  (s.setCore c { s.core c with churnMiss := some q }).walk q
/-- The queue's head starts: checks in the order of R157. An MPROG reads its block (R149). DESIGN CHOICE (log 92): the spec does not say whether an
entry that faults at these checks has started for R138; here it takes no hold of the strand's tiles. -/
def State.startChurn (s : State) (c : Nat) : Option State :=
  if s.fenced c then none else
  let k := s.core c
  match k.churnRun, k.churnQ with
  | none, e :: rest =>
    if k.churnMiss.isSome then none
    else
      match k.churnMissFault with
      | some f => some ((s.setCore c { k with churnMissFault := none }).holdChurn c e (f.for_ e.instr))
      | none =>
        match s.tileFault c e with
        | some f => some (s.holdChurn c e f)
        | none =>
          match s.otherFormatFault c e with
          | some f => some (s.holdChurn c e f)
          | none =>
            match s.churnBytes c e with
            | .fault f => some (s.holdChurn c e f)
            | .miss va => some (s.churnMisses c e va)
            | .ok bytes =>
              if s.churnHeldUp c e bytes then none
              else
                match s.churnBad e bytes with
                | some f => some (s.holdChurn c e f)
                | none =>
                  let e1 := { e with since := s.time, block := match e.instr with
                    | .mprog _ _ => BitVec.ofNat 256 (s.readB bytes)
                    | _ => 0 }
                  if isMprog e.instr && !progOk e1.block then some (s.holdChurn c e { code := 0x13 })
                  else
                    let s1 := (s.setCore c { k with churnQ := rest, churnRun := some e1 }).requeueAll c
                    let s2 := if isMprog e.instr then (s1.engineReads c e.strand bytes).moved c bytes else s1
                    some (if namesTile e.instr then s2.holdTiles c e.strand else s2)
  | _, _ => none
/-- CHURN_ENTRY_START (R151, R157). -/
def execChurnEntryStart (c : CoreId) (s : State) : Host.Outcome State Fault Refusal := stutter s (s.startChurn c.val)

/-! ## Retiring -/

/-- The ring for whose data a tile operation waits, if it waits: ring a before ring b. -/
def State.waitsRing (s : State) (c : Nat) (i : Instr) : Option (Fin 4) :=
  let k := s.core c
  match ringUse i with
  | none => none
  | some (ga, gb, nb) =>
    match k.ring ga.val k.part.launch, k.ring gb.val k.part.launch with
    | some a, some b =>
      let need := ringNeeds ga gb nb a b
      if a.occ < need.1 then some ga else if b.occ < need.2 then some gb else none
    | _, _ => none
/-- The tiles of a and b at the head, of the same ring one after another (R142). -/
def State.opTiles (s : State) (c : Nat) (ga gb : Fin 4) (a b : Ring) : OpTile × OpTile × OpTile :=
  let hb := if ga = gb then b.head + tileBytes a.fmt else b.head
  (s.ringTileAt c a a.head, s.ringTileAt c b hb, s.ringTileAt c b (hb + tileBytes b.fmt))
def State.popRings (s : State) (c : Nat) (ga gb : Fin 4) (a b : Ring) (nb : Nat) : State :=
  let k := s.core c
  let need := ringNeeds ga gb nb a b
  let r1 := Tab.put ga.val (a.pop need.1) k.part.rings
  let r2 := if ga = gb then r1 else Tab.put gb.val (b.pop need.2) r1
  let run := k.engRun.map fun r =>
    match r.bound with
    | some (g, _) => if g = ga.val || g = gb.val then { r with since := s.time } else r
    | none => r
  s.setCore c { k with engRun := run, part := { k.part with rings := r2 } }
/-- The Z tile and the flags that a tile operation computes (R145 to R150). -/
def tileResult (i : Instr) (mx : StrandMx) (t : Option (BitVec 8192)) (a b b2 : OpTile) : ZTile × Cell :=
  let start (c : Fin 2) (clr : Bool) (id : Nat) (n : Nat) : Nat := if clr then id else (mx.tile c).at_ n
  match i with
  | .mma c _ _ clr => mmaTile mx.semi t a b (start c clr (semiIdentity mx.semi))
  | .mmas c _ _ clr => mmasTile mx.semi t a b b2 (start c clr (semiIdentity mx.semi))
  | .mrun c _ _ clr => mrunTile (mx.prog.getD 0) t a b (start c clr 0)
  | _ => ({}, { acc := 0 })
/-- A tile operation retires (R136, R142): faults of R157 step 4 first. -/
def State.retireTile (s : State) (c : Nat) (e : ChurnEntry) (ga gb : Fin 4) (nb : Nat) : Option State :=
  let k := s.core c
  match k.ring ga.val k.part.launch, k.ring gb.val k.part.launch with
  | some a, some b =>
    let need := ringNeeds ga gb nb a b
    let read := s.ringBytes c a a.head need.1 ++ (if ga = gb then [] else s.ringBytes c b b.head need.2)
    if (s.waitsRing c e.instr).isSome || s.pendingMeets c e.strand e.id true read then none
    else
      let (ta, tb, tb2) := s.opTiles c ga gb a b
      let bad := match s.ringBad c a a.head need.1 with
        | some x => some x
        | none => if ga = gb then none else s.ringBad c b b.head need.2
      if isSparse ta.f && !separatorOk ta.f ta.v then some (s.holdChurn c e { code := 0x13 })
      else
        match bad with
        | some x => some (s.holdChurn c e { code := 0x1E, acc := 5, eva := x })
        | none =>
          let st := s.strand c e.strand
          let r := tileResult e.instr st.mx (e.tab.getD k.dtab) ta tb tb2
          let z := (e.instr.zWrite).getD 0
          let mx := (st.mx.setTile (if z = 0 then 0 else 1) r.1).stick r.2
          let s1 := s.setStrand c e.strand { st with mx := mx }
          let s2 := s1.popRings c ga gb a b nb
          some (((s2.engineReads c e.strand read).energy c (3 * 256 * 32) (some 0)).moved c read)
  | _, _ => some (s.holdChurn c e { code := 0x30 })
/-- MSTZ's elements, each setting its word full in a TCM or a vat (R153). -/
def State.storeTile (s : State) (c : Nat) (e : ChurnEntry) (z : Fin 2) (f : ZFmt) (bytes : List Nat) : State :=
  let st := s.strand c e.strand
  let tile := st.mx.tile z
  let s1 := s.storeAt bytes (zBytes tile f) false [] { agent := churnFor c e.strand, id := e.id }
  let s2 := s1.setFullB (bytes.filter hasFE)
  let mx := { st.mx with of := st.mx.of || zOverflow tile f }
  (s2.setStrand c e.strand { s2.strand c e.strand with mx := mx }).moved c bytes
/-- The effect of the running entry, complete; none while it waits. -/
def State.churnEffect (s : State) (c : Nat) (e : ChurnEntry) : Option State :=
  let st := s.strand c e.strand
  let mx (m : StrandMx) : Option State := some (s.setStrand c e.strand { st with mx := m })
  let onMem (k : List Nat → State) : Option State :=
    match s.churnBytes c e with
    | .ok bytes => some (k bytes)
    | .fault f => some (s.holdChurn c e f)
    | .miss va => some ((s.setCore c { (s.core c) with churnRun := none, churnQ := e :: (s.core c).churnQ }).churnMisses c e va)
  match e.instr with
  | .mzero z => mx (st.mx.setTile z {})
  | .msemi r => mx { st.mx with semi := r }
  | .mprog _ _ => mx { st.mx with prog := some e.block }
  | .mstz _ z _ f => onMem (s.storeTile c e z f)
  | .mldz z _ _ => onMem fun b =>
      ((s.setStrand c e.strand { st with mx := st.mx.setTile z { (st.mx.tile z) with bits := BitVec.ofNat 8192 (s.readB b) } }).engineReads c
        e.strand b).moved c b
  | .ringdef g _ _ m =>
    let k := s.core c
    if e.len = 0 then some (s.setCore c { k with part := { k.part with rings := k.part.rings.filter fun r => r.1 != g.val } })
    else if k.copiesToRing g e.id then none
    else
      let r : Ring := { ea := vaof e.pa, size := e.len.toNat, cluster := m == .C, fmt := fmtof e.pa, blk := blkof e.pa, head := 0, tail := 0
                        owner := e.strand, launch := k.part.launch, gen := e.id }
      some (s.setCore c { k with part := { k.part with rings := Tab.put g.val r k.part.rings } })
  | i =>
    match ringUse i with
    | some (ga, gb, nb) => s.retireTile c e ga gb nb
    | none => some s
/-- The running entry retires and leaves the Churn, unless its effect was a fault or a miss. -/
def State.retireChurn (s : State) (c : Nat) : Option State :=
  if s.fenced c then none else
  match (s.core c).churnRun with
  | none => none
  | some e =>
    (s.churnEffect c e).map fun s1 =>
      let k := s1.core c
      let s2 := match k.churnRun with
        | some _ => s1.setCore c { k with churnRun := none }
        | none => s1
      s2.requeueAll c
/-- CHURN_ENTRY_RETIRE (R151). -/
def execChurnEntryRetire (c : CoreId) (s : State) : Host.Outcome State Fault Refusal := stutter s (s.retireChurn c.val)

/-- 1 ms of fabric time (R157, R228). -/
def ms1 : Nat := 2000000
/-- RING_STARVED: 1 ms without a tail advance on the ring that the running entry waits for (R157 step 5). -/
def State.starve (s : State) (c : Nat) : Option State :=
  if s.fenced c then none else
  match (s.core c).churnRun with
  | none => none
  | some e =>
    if (s.waitsRing c e.instr).isSome && e.since + ms1 ≤ s.time then some (s.holdChurn c e { code := 0x31 }) else none
def execRingStarved (c : CoreId) (s : State) : Host.Outcome State Fault Refusal := stutter s (s.starve c.val)

end Sys2Proof.Machine
end

