-- ==== Sys2Proof/Machine/EvEngine.lean ====
section
/-!
DEFINITION. The copy engine at work: a command's elements (R224), conversions (R225), tiles pushed to a ring (R228), errors
(R229) and the arrival at the completion barrier word (R231, R234).
-/
namespace Sys2Proof.Machine

/-! ## Places of elements -/

/-- Bytes of an element as the engine takes it (R224); a block's bytes for the blocked formats. -/
def engBytes (f blk : Nat) : Nat := if f = 0 then 1 else if isSparse f then 128 else blockBytes f blk
/-- One side of a command: base, format, block exponent, mode, strides of dimensions 1 to 3, row offsets of CPYG or CPYSC. -/
structure Side where
  ea : Nat
  f : Nat
  blk : Nat
  mode : Mode
  s1 : Int
  s2 : Int
  s3 : Int
  /-- TCM offset of the index list that replaces s1 -/
  list : Option Nat := none
  deriving DecidableEq, Repr
def copyModes : Instr → Mode × Mode
  | .cpy _ _ _ _ _ sm dm | .cpyg _ _ _ _ _ sm dm | .cpysc _ _ _ _ _ sm dm => (sm, dm)
  | .cpys _ _ _ _ _ sm => (sm, .L)
  | _ => (.L, .L)
def copyClfe : Instr → Bool
  | .cpy _ _ _ k _ _ _ | .cpyg _ _ _ k _ _ _ | .cpysc _ _ _ k _ _ _ => k
  | .cpys _ _ _ k _ _ => k
  | _ => false
def copyEv : Instr → Bool
  | .cpy _ _ _ _ e _ _ | .cpyg _ _ _ _ e _ _ | .cpysc _ _ _ _ e _ _ => e
  | .cpys _ _ _ _ e _ => e
  | _ => false
def CopyCmd.srcSide (q : CopyCmd) : Side :=
  let st (k : Nat) : Int := (descField q.desc k).toInt
  { ea := vaof q.src, f := fmtof q.src, blk := blkof q.src, mode := (copyModes q.instr).1, s1 := st 1, s2 := st 2, s3 := st 3
    list := match q.instr with | .cpyg _ _ _ _ _ _ _ => some (descField q.desc 1).toNat | _ => none }
def CopyCmd.dstSide (q : CopyCmd) : Side :=
  let st (k : Nat) : Int := (descField q.desc k).toInt
  { ea := vaof q.dst, f := fmtof q.dst, blk := blkof q.dst, mode := (copyModes q.instr).2, s1 := st 4, s2 := st 5, s3 := st 6
    list := match q.instr with | .cpysc _ _ _ _ _ _ _ => some (descField q.desc 4).toNat | _ => none }
/-- Elements of a command, and the traversal's indices of element e (R224). -/
def CopyCmd.total (q : CopyCmd) : Nat := descCount q.desc 0 * descCount q.desc 1 * descCount q.desc 2 * descCount q.desc 3
def CopyCmd.index (q : CopyCmd) (e k : Nat) : Nat :=
  let n (j : Nat) : Nat := descCount q.desc j
  match k with
  | 0 => e % n 0
  | 1 => e / n 0 % n 1
  | 2 => e / (n 0 * n 1) % n 2
  | _ => e / (n 0 * n 1 * n 2)
/-- A row's offset in the index list, whose entries are read as mode-L words of the issuing core (R224). -/
def State.rowOffset (s : State) (c : Nat) (sup : Bool) (list r : Nat) : Except FaultInfo Int :=
  match s.check c sup 0 .engine .engRead .L (list + 4 * r) 4 4 false with
  | .ok bytes =>
    if (s.badIn bytes).isSome then .error { code := 0x1E, acc := 5, eva := list + 4 * r } else .ok (sext (s.readB bytes) 32)
  | .fault f => .error f
  | .miss _ => .ok 0
/-- Address of element e's bytes, or of the block that holds it. -/
def State.elemAddr (s : State) (c : Nat) (q : CopyCmd) (d : Side) (e : Nat) : Except FaultInfo Nat :=
  let row : Except FaultInfo Int := match d.list with
    | some l => s.rowOffset c q.sup (l % 2 ^ 17) (q.index e 1)
    | none => .ok ((q.index e 1 : Int) * d.s1)
  match row with
  | .error f => .error f
  | .ok r => .ok (eaAdd d.ea ((q.index e 0 / blockElems d.f d.blk * engBytes d.f d.blk : Nat) + r + (q.index e 2 : Int) * d.s2 + (q.index e 3 : Int) * d.s3))
def engAlign (f : Nat) : Nat := if f = 0 || isMx f || f = 0x19 then 1 else if isSparse f then 128 else accsize f
/-- The checks of R93 at the element e of a side: its bytes. -/
def State.elemCheck (s : State) (c : Nat) (q : CopyCmd) (d : Side) (write fe : Bool) (e : Nat) : Except FaultInfo Chk :=
  match s.elemAddr c q d e with
  | .error f => .error f
  | .ok ea => .ok (s.check c q.sup q.asid .engine (if write then .engWrite else .engRead) d.mode ea (engBytes d.f d.blk) (engAlign d.f) fe)

/-! ## Conversion (R225) -/

/-- A line with its reserved header bits and bytes zero (R88). -/
def lineClean (f v : Nat) : Nat :=
  let g := lineCover f / 4
  v % 2 ^ (4 * g) + 2 ^ 128 * (v / 2 ^ 128 % 2 ^ (16 * accsize (lineFmt f) * g))
def intVal (f b : Nat) : Int := if f ≤ 4 then sext b (8 * accsize f) else ((b % 2 ^ (8 * accsize f) : Nat) : Int)
def intSat (f : Nat) (v : Int) : Nat :=
  let n := 8 * accsize f
  let lo : Int := if f ≤ 4 then -(2 ^ (n - 1) : Nat) else 0
  let hi : Int := if f ≤ 4 then (2 ^ (n - 1) : Nat) - 1 else (2 ^ n : Nat) - 1
  wrap (clamp lo hi v) n
/-- A floating-point value encoded in a format without blocks, and the generator after it. -/
def engEnc (t : Option (BitVec 8192)) (f : Nat) (seed : Word) (v : FVal) : Nat × Word :=
  let o := match fltFmt f with
    | some g => rnd g .rne seed v
    | none => tabEnc t seed v
  (o.bits, o.seed)
def engEncAll (t : Option (BitVec 8192)) (f : Nat) : Word → List FVal → List Nat × Word
  | seed, [] => ([], seed)
  | seed, v :: l =>
    let r := engEnc t f seed v
    let (bs, sd) := engEncAll t f r.2 l
    (r.1 :: bs, sd)
/-- Blocks of 32 values encoded one after another. -/
def engBlocks (f : Nat) : Nat → Word → List FVal → List Nat × Word
  | 0, seed, _ => ([], seed)
  | n + 1, seed, l =>
    let r := mxEncode f seed (l.take 32)
    let (bs, sd) := engBlocks f n r.seed (l.drop 32)
    (r.bits :: bs, sd)
/-- The copy keeps every bit: equal codes, for 0x19 equal block exponents. -/
def sameCode (sf sblk df dblk : Nat) : Bool := sf == df && (sf != 0x19 || sblk == dblk)
/-- The pieces `l` of a unit's source converted into pieces of the destination (Table 12.3). -/
def engConvert (t : Option (BitVec 8192)) (sf sblk df dblk : Nat) (seed : Word) (l : List Nat) : List Nat × Word :=
  if sameCode sf sblk df dblk then (if isSparse sf then l.map (lineClean sf) else l, seed)
  else if isIntFmt sf && isIntFmt df then (l.map fun b => intSat df (intVal sf b), seed)
  else
    let vs := l.flatMap fun b => (span 0 (blockElems sf sblk)).map (blockVal sf sblk t b)
    if isMx df then engBlocks df (vs.length / 32) seed vs else engEncAll t df seed vs
/-- Elements of a unit: the larger of the two blocks; one where the bits are copied. -/
def unitElems (sf sblk df dblk : Nat) : Nat := Nat.max (blockElems sf sblk) (blockElems df dblk)

/-! ## A command's run -/

/-- What moving a unit gives. -/
inductive UnitOut where
  | moved (s : State) (seed : Word) (recs : List RelRec)
  | error (s : State) (code addr : Nat)
  | miss (va : Nat)
/-- The engine has used the translations of the pieces at the elements `l` (R265). -/
def State.engUsed (s : State) (c : Nat) (q : CopyCmd) (d : Side) (l : List Nat) : State :=
  if d.mode = .G then
    s.useTlb c .engine q.asid (l.filterMap fun e => match s.elemAddr c q d e with
      | .ok ea => some (ea, engBytes d.f d.blk)
      | .error _ => none)
  else s
/-- An address without a translation: a miss, or the error `tsc` where the TSC has answered with one (R227, R268). -/
def UnitOut.unmapped (s : State) (tsc : Option FaultInfo) (va : Nat) : UnitOut :=
  match tsc with
  | some f => .error s f.code f.eva
  | none => .miss va
/-- Reads the source pieces of the elements `l`, with their checks. -/
def State.readUnit (s : State) (c : Nat) (q : CopyCmd) (d : Side) (tsc : Option FaultInfo) : List Nat → Except UnitOut (List Nat × List Nat)
  | [] => .ok ([], [])
  | e :: l =>
    match s.elemCheck c q d false false e with
    | .error f => .error (.error s f.code f.eva)
    | .ok (.fault f) => .error (.error s f.code f.eva)
    | .ok (.miss va) => .error (.unmapped s tsc va)
    | .ok (.ok bytes) =>
      match s.badIn bytes with
      | some _ => .error (.error s 0x1E (match s.elemAddr c q d e with | .ok a => a | .error _ => 0))
      | none =>
        match s.readUnit c q d tsc l with
        | .ok (vs, bs) => .ok (s.readB bytes :: vs, bytes ++ bs)
        | r => r
/-- The bytes at which the command will write the piece at element e: all of them, or those that have a place already where the piece still waits for a
translation; none where its checks fail. -/
def State.pieceBytes (s : State) (c : Nat) (q : CopyCmd) (d : Side) (e : Nat) : List Nat :=
  match s.elemCheck c q d true false e, s.elemAddr c q d e with
  | .ok (.ok bytes), _ => bytes
  | .ok (.miss _), .ok ea => ((span ea (engBytes d.f d.blk)).map (· % 2 ^ 54)).filterMap (s.vaPlace c .engine q.asid)
  | _, _ => []
/-- Some later piece of the command writes the word (R227). -/
def State.writtenLater (s : State) (c : Nat) (q : CopyCmd) (d : Side) (later : List Nat) (word : Nat) : Bool :=
  later.any fun e => (s.pieceBytes c q d e).any fun a => a / 4 == word
/-- First elements of the destination pieces from element `e` on. -/
def pieceStarts (b e total : Nat) : List Nat := (span 0 ((total - e) / b)).map fun k => e + k * b
/-- A command ends at element `e` (R227, R229): a word of a piece before it, of which the pieces from `e` on would have written more, has received its
last byte. -/
def State.closeWords (s : State) (c : Nat) (q : CopyCmd) (d : Side) (e : Nat) : State :=
  let b := blockElems d.f d.blk
  let later := pieceStarts b e q.total
  (pieceStarts b 0 e).foldl (fun s p =>
    match s.elemCheck c q d true false p with
    | .ok (.ok bytes) => s.setFullB (bytes.filter fun a => hasFE a && s.writtenLater c q d later (a / 4))
    | _ => s) s
/-- The bytes of the index list from which the rows of the elements `l` come (R224). -/
def listBytes (c : Nat) (q : CopyCmd) (d : Side) (l : List Nat) : List Nat :=
  match d.list with
  | some o => l.flatMap fun e => span (c * 0x20000 + o % 2 ^ 17 + 4 * q.index e 1) 4
  | none => []
/-- The engine's command of strand t has read the bytes (R199, R236). -/
def State.copyReads (s : State) (c t : Nat) (bytes : List Nat) : State := (s.moved c bytes).engineReads c t bytes
/-- Writes the pieces at the elements `l`; `rest` are the elements of the command's later pieces. -/
def State.writeUnit (s : State) (c : Nat) (q : CopyCmd) (d : Side) (seed : Word) (tsc : Option FaultInfo) (rest : List Nat) : List (Nat × Nat) → UnitOut
  | [] => .moved s seed []
  | (e, v) :: l =>
    match s.elemCheck c q d true (copyClfe q.instr) e with
    | .error f => .error (s.closeWords c q d e) f.code f.eva
    | .ok (.fault f) => .error (s.closeWords c q d e) f.code f.eva
    | .ok (.miss va) => .unmapped (s.closeWords c q d e) tsc va
    | .ok (.ok bytes) =>
      let later := l.map (·.1) ++ rest
      let s1 := (s.storeAt bytes v false [] { agent := engineFor c q.strand, id := q.id }).moved c bytes
      let full := bytes.filter fun a => hasFE a && !s.writtenLater c q d later (a / 4)
      ((s1.setFullB full).engUsed c q d [e]).writeUnit c q d seed tsc rest l
/-- Moves the next unit of a command other than CPYS; at an error the elements before the failing one stand. -/
def State.moveUnit (s : State) (c : Nat) (r : CopyRun) (tsc : Option FaultInfo) : UnitOut :=
  let q := r.cmd
  let a := q.srcSide
  let d := q.dstSide
  let u := unitElems a.f a.blk d.f d.blk
  let ba := blockElems a.f a.blk
  let bd := blockElems d.f d.blk
  let e0 := r.moved * u
  let src := (span 0 (u / ba)).map fun k => e0 + k * ba
  match s.readUnit c q a tsc src with
  | .error (.error s1 code addr) => .error (s1.closeWords c q d e0) code addr
  | .error o => o
  | .ok (vs, bytes) =>
    let (out, seed) := engConvert (s.core c).dtab a.f a.blk d.f d.blk r.seed vs
    let read := bytes ++ listBytes c q a src ++ listBytes c q d src
    match ((s.copyReads c q.strand read).engUsed c q a src).writeUnit c q d seed tsc (pieceStarts bd (e0 + u) q.total)
        (((span 0 (u / bd)).map fun k => e0 + k * bd).zip out) with
    | .moved s1 seed _ => .moved s1 seed (s.recordsAt read)
    | o => o

/-- Clears the words of the destination piece that starts at element e (R101, R227). -/
def State.clearPiece (s : State) (c : Nat) (q : CopyCmd) (e : Nat) : UnitOut :=
  match s.elemCheck c q q.dstSide true true e with
  | .ok (.ok bytes) => .moved ((s.setEmptyB bytes).engUsed c q q.dstSide [e]) 0 []
  | .ok (.miss va) => .miss va
  | _ => .moved s 0 []
/-- The engine's address has no translation (R227, R266). -/
def State.engMisses (s : State) (c : Nat) (r : CopyRun) (va : Nat) : State :=
  let k := s.core c
  let q : MissReq := { who := .engine, kind := .engine, core := c, strand := r.cmd.strand, va := va, asid := r.cmd.asid }
  (s.setCore c { k with engRun := some r, engMiss := some q }).walk q
def State.setRun (s : State) (c : Nat) (r : CopyRun) : State := s.setCore c { s.core c with engRun := some r }
/-- The command ends; its arrival follows. -/
def State.endCopy (s : State) (c : Nat) (r : CopyRun) (err : Option (Nat × Nat)) : State := s.setRun c { r with finished := true, err := err }

/-- A command other than CPYS does its next piece of work: it clears a destination piece under .CLFE, then moves a unit, to the end, to an error or
to a miss (R227). An error that a piece to clear would give arises at its element, once those before it are moved. -/
def State.runCopy (s : State) (c : Nat) (r : CopyRun) (tsc : Option FaultInfo) : State :=
  let q := r.cmd
  let d := q.dstSide
  let b := blockElems d.f d.blk
  if copyClfe q.instr && r.cleared < q.total / b then
    match s.clearPiece c q (r.cleared * b) with
    | .moved s1 _ _ => s1.setRun c { r with cleared := r.cleared + 1 }
    | .miss va => if tsc.isSome then s.setRun c { r with cleared := r.cleared + 1 } else s.engMisses c r va
    | .error s1 _ _ => s1.setRun c { r with cleared := r.cleared + 1 }
  else if r.moved < q.total / unitElems q.srcSide.f q.srcSide.blk d.f d.blk then
    match s.moveUnit c r tsc with
    | .moved s1 seed recs => s1.setRun c { r with moved := r.moved + 1, seed := seed, recs := r.recs ++ recs }
    | .error s1 code addr => s1.endCopy c r (some (code, addr))
    | .miss va => s.engMisses c r va
  else s.endCopy c r none

/-- Bytes of the pieces of a side of the command, where they have places. -/
def State.sideBytes (s : State) (c : Nat) (q : CopyCmd) (d : Side) (write : Bool) : List Nat :=
  (pieceStarts (blockElems d.f d.blk) 0 q.total).flatMap fun e =>
    match s.elemCheck c q d write false e with
    | .ok (.ok b) => b
    | _ => []
/-- Bytes that the command reads, its index list included, and bytes that it writes, its completion word's included; a CPYS's tiles have places only as
it writes them. -/
def State.copyReadBytes (s : State) (c : Nat) (q : CopyCmd) : List Nat :=
  let all := pieceStarts 1 0 q.total
  s.sideBytes c q q.srcSide false ++ listBytes c q q.srcSide all ++ listBytes c q q.dstSide all
def State.copyWriteBytes (s : State) (c : Nat) (q : CopyCmd) : List Nat :=
  span (c * 0x20000 + descCtl q.desc) 4 ++ (match q.instr with | .cpys _ _ _ _ _ _ => [] | _ => s.sideBytes c q q.dstSide true)
/-- Every store of the strand before the command that its reads may observe is performed, and every access before it to the bytes that it
writes (R236). -/
def State.copyReady (s : State) (c : Nat) (q : CopyCmd) : Bool :=
  let st := s.strand c q.strand
  (st.seq.isEmpty && st.seqHeld.isEmpty && st.out.all (·.performed))
    || (!s.pendingMeets c q.strand q.id true (s.copyReadBytes c q) && !s.pendingMeets c q.strand q.id false (s.copyWriteBytes c q))

/-! ## CPYS -/

/-- A strand's held matrix entries that have neither taken effect nor faulted: all but the one whose fault holds them (R158). -/
def Strand.heldBack (st : Strand) : List ChurnEntry :=
  if st.churnFault.isSome || st.mresume.pend then st.churnHeld.drop 1 else st.churnHeld
/-- RINGDEFs of ring g that the Churn's queue received before the command and that have neither taken effect nor faulted (R227). -/
def Core.ringdefsBefore (k : Core) (g : Fin 4) (id : Nat) : Bool :=
  (k.churnQ ++ k.churnRun.toList ++ k.part.strands.flatMap fun e => e.2.heldBack).any fun e => decide (e.id < id) && (match e.instr with
    | .ringdef h _ _ _ => h == g
    | _ => false)
/-- The ring rules of R224 for the descriptor. -/
def ringDescOk (d : List Word) (f : Nat) : Bool :=
  let rows := descCount d 1 * descCount d 2 * descCount d 3
  if isSparse f then descCount d 0 == 1 && rows % (tileBytes f / 128) == 0
  else descCount d 0 == 32 && rows % 16 == 0
/-- A CPYS starts: ring, pairing and ring rules, in the order of R227; it is bound to the definition that it finds. An undefined
ring has no base for ENGERR.ADDR to hold (log 15). -/
def State.startCpys (s : State) (c : Nat) (q : CopyCmd) (g : Fin 4) : State :=
  let k := s.core c
  let r0 : CopyRun := { cmd := q, seed := q.seed, since := s.time }
  match k.ring g.val q.launch with
  | none => s.free.2.endCopy c r0 (some (0x30, s.free.1.toNat % 2 ^ 54))
  | some r =>
    let sf := fmtof q.src
    let same := sameCode sf (blkof q.src) r.fmt r.blk
    if !pairable sf (blkof q.src) r.fmt r.blk || (r.fmt == 0x18 && !same && tabK k.dtab == 0) then s.endCopy c r0 (some (0x13, r.ea))
    else if !ringDescOk q.desc r.fmt then s.endCopy c r0 (some (0x33, r.ea))
    else s.setRun c { r0 with bound := some (g.val, r.gen), base := r.ea }
/-- COPY_COMMAND_START (R227): the next command leaves the queue, a CPYS that has waited for RINGDEFs takes its ring, or the running command does its
next piece of work. -/
def State.startCopy (s : State) (c : Nat) : Option State :=
  if s.fenced c then none else
  let k := s.core c
  match k.engRun, k.engQ with
  | none, q :: rest =>
    if !s.copyReady c q then none
    else
      some (s.setCore c { k with engQ := rest, engRun := some { cmd := q, seed := q.seed, since := s.time } })
  | some r, _ =>
    match r.finished, k.engMiss, k.engMissFault, r.bound with
    | false, none, tsc, none =>
      match r.cmd.instr with
      | .cpys g _ _ _ _ _ => if k.ringdefsBefore g r.cmd.id then none else some (s.startCpys c r.cmd g)
      | _ => some ((s.setCore c { k with engMissFault := none }).runCopy c r tsc)
    | _, _, _, _ => none
  | none, [] => none
def execCopyCommandStart (c : CoreId) (s : State) : Host.Outcome State Fault Refusal := stutter s (s.startCopy c.val)

/-- Strips, or lines, of a tile. -/
def tileRows (f : Nat) : Nat := if isSparse f then tileBytes f / 128 else 16
/-- One strip or line of a ring tile from the pieces that a row of the command holds, as bytes first lowest. -/
def stripOf (t : Option (BitVec 8192)) (q : CopyCmd) (r : Ring) (seed : Word) (l : List Nat) : Nat × Word :=
  let (out, sd) := engConvert t (fmtof q.src) (blkof q.src) r.fmt r.blk seed l
  (joinVals (out.map fun v => (engBytes r.fmt r.blk, v)), sd)
/-- The first elements of the source pieces of a command's row. -/
def CopyCmd.rowPieces (q : CopyCmd) (row : Nat) : List Nat :=
  let n0 := descCount q.desc 0
  let b := blockElems (fmtof q.src) (blkof q.src)
  (span 0 (n0 / b)).map fun k => row * n0 + k * b
/-- The rows `l` of a command read and converted: the tile's strips. -/
def State.readRows (s : State) (c : Nat) (q : CopyCmd) (r : Ring) : Word → List Nat → Except UnitOut (List Nat × List Nat × Word)
  | seed, [] => .ok ([], [], seed)
  | seed, row :: l =>
    match s.readUnit c q q.srcSide none (q.rowPieces row) with
    | .error o => .error o
    | .ok (vs, bytes) =>
      let (v, sd) := stripOf (s.core c).dtab q r seed vs
      match s.readRows c q r sd l with
      | .ok (ts, bs, sd2) => .ok (v :: ts, bytes ++ bs, sd2)
      | o => o
/-- The running CPYS writes its next tile and advances the tail, once the ring has room (R228). -/
def State.pushTile (s : State) (c : Nat) : Option State :=
  if s.fenced c then none else
  let k := s.core c
  match k.engRun with
  | none => none
  | some run =>
    match run.finished, run.bound with
    | false, some (g, gen) =>
      match k.ring g run.cmd.launch with
      | none => some (s.endCopy c run (some (0x30, run.base)))
      | some r =>
        let n := tileBytes r.fmt
        let rows := tileRows r.fmt
        if r.gen ≠ gen then some (s.endCopy c run (some (0x30, run.base)))
        else if k.engMiss.isSome then none
        else if r.size < r.occ + n || s.pendingMeets c run.cmd.strand run.cmd.id false (s.ringBytes c r r.tail n) then none
        else
          match k.engMissFault with
          | some f => some ((s.setCore c { k with engMissFault := none }).endCopy c run (some (f.code, f.eva)))
          | none =>
            let mine := span (run.moved * rows) rows
            match s.readRows c run.cmd r run.seed mine with
            | .error (.miss va) => some (s.engMisses c run va)
            | .error (.error s1 code addr) => some (s1.endCopy c run (some (code, addr)))
            | .error (.moved s1 _ _) => some s1
            | .ok (strips, bytes, seed) =>
              let wbytes := s.ringBytes c r r.tail n
              match wbytes.find? fun a => s.fencedTo c (a / 0x20000) with
              | some _ => some (s.endCopy c run (some (0x16, r.ea)))
              | none =>
                let v := joinVals (strips.map fun x => (n / rows, x))
                let src := mine.flatMap run.cmd.rowPieces
                let s1 := ((((s.copyReads c run.cmd.strand bytes).engUsed c run.cmd run.cmd.srcSide src).storeAt wbytes v false []
                  { agent := engineFor c run.cmd.strand, id := run.cmd.id }).setFullB wbytes).moved c wbytes
                let k1 := s1.core c
                let churn := k1.churnRun.map fun e => if (s.waitsRing c e.instr).any (fun w => w.val == g) then { e with since := s.time } else e
                let r1 := { r with tail := (r.tail + n) % 2 ^ 32 }
                let run1 := { run with moved := run.moved + 1, seed := seed, since := s.time, recs := run.recs ++ s.recordsAt bytes
                                       finished := (run.moved + 1) * rows * descCount run.cmd.desc 0 == run.cmd.total }
                some (s1.setCore c { k1 with churnRun := churn, engRun := some run1, part := { k1.part with rings := Tab.put g r1 k1.part.rings } })
    | _, _ => none
/-- CPYS_TILE_PUSH (R228). -/
def execCpysTilePush (c : CoreId) (s : State) : Host.Outcome State Fault Refusal := stutter s (s.pushTile c.val)
/-- RING_ROOM_TIMEOUT: 1 ms without a pop (R228). -/
def State.roomTimeout (s : State) (c : Nat) : Option State :=
  if s.fenced c then none else
  let k := s.core c
  match k.engRun with
  | none => none
  | some run =>
    match run.finished, run.bound with
    | false, some (g, _) =>
      match k.ring g run.cmd.launch with
      | some r =>
        if r.size < r.occ + tileBytes r.fmt && run.since + ms1 ≤ s.time then some (s.endCopy c run (some (0x37, r.ea))) else none
      | none => none
    | _, _ => none
def execRingRoomTimeout (c : CoreId) (s : State) : Host.Outcome State Fault Refusal := stutter s (s.roomTimeout c.val)

/-! ## Arrival -/

/-- ENGERR records an error (Table 12.4). -/
def engRecord (w : Word) (code addr : Nat) : Word :=
  if w.getLsbD 63 then w ||| BitVec.ofNat 64 (2 ^ 62)
  else (w &&& BitVec.ofNat 64 (2 ^ 62)) ||| BitVec.ofNat 64 (2 ^ 63 + code % 64 * 2 ^ 56 + addr % 2 ^ 54)
/-- A finished command arrives at its word (R231): over-arrival, ERR, full; then ENGERR and the event of .EV (R229, R234). -/
def State.arriveCopy (s : State) (c : Nat) : Option State :=
  if s.fenced c then none else
  let k := s.core c
  match k.engRun with
  | none => none
  | some r =>
    if !r.finished then none
    else
      let off := descCtl r.cmd.desc
      let bytes := span (c * 0x20000 + off) 4
      let w := s.readB bytes
      let extra := cbRemain w == 0
      let err := extra || r.err.isSome || cbErr w == 1
      let new := b2n err * 2 ^ 31 + w % 2 ^ 31 / 2 ^ 24 * 2 ^ 24 + (if extra then 0 else cbRemain w - 1)
      let me : Storer := { agent := engineFor c r.cmd.strand, id := r.cmd.id }
      let rec_ : RelRec := { bytes := bytes, core := c, strand := r.cmd.strand, scope := .core, pending := [], known := [(me.agent, me.id + 1)] }
      let s1 := (s.storeAt bytes new true (rec_ :: r.recs.map fun x => { x with bytes := bytes, via := true }) me).setFullB bytes
      let st := s1.strand c r.cmd.strand
      let e1 := match r.err with | some (code, addr) => engRecord st.regs.engerr code addr | none => st.regs.engerr
      let e2 := if extra then engRecord e1 0x36 off else e1
      let st1 := { st with regs := { st.regs with engerr := e2, englast := if copyEv r.cmd.instr then BitVec.ofNat 17 off else st.regs.englast } }
      let st2 := if copyEv r.cmd.instr then st1.raise 1 else st1
      let s2 := s1.setStrand c r.cmd.strand st2
      some (s2.setCore c { s2.core c with engRun := none })
/-- COMPLETION_ARRIVAL (R231). -/
def execCompletionArrival (c : CoreId) (s : State) : Host.Outcome State Fault Refusal := stutter s (s.arriveCopy c.val)

end Sys2Proof.Machine
end

