-- ==== Sys2Proof/Machine/EvWake.lean ====
section
/-!
DEFINITION. Wake-ups (R270, Table 14.8), the release of barrier episodes (R212 to R214), broken domains (R215) and the start
of exchange phases (R185).
-/
namespace Sys2Proof.Machine

/-- The same state with the acting strand of `o`. -/
def State.backTo (s o : State) : State := s.at_ o.curCore o.curStrand
/-- Strand (c, t) sleeps in an instruction of the kind and is registered as a waiter. -/
def State.sleepsIn (s : State) (c t : Nat) (k : SleepKind) : Bool :=
  match (s.strand c t).asleep with
  | some z => z.kind == k && z.registered
  | none => false
/-- The sleeper tests its condition again; nothing happens while it sleeps on, or on a fenced core (R301). One that is released completes at its
bundle boundary. -/
def State.tryWake (s : State) (c t : Nat) : Option State :=
  if s.fenced c then none else
  if (s.strand c t).asleep.any (·.released) then none else
  let s1 := ((s.at_ c t).retest).backTo s
  if (s1.strand c t).asleep.all (·.released) then some s1 else none
def State.wake (s : State) (c t : Nat) (k : SleepKind) : Option State := if s.sleepsIn c t k then s.tryWake c t else none

/-- RECV_WAKE (R169). -/
def execRecvWake (c : CoreId) (t : StrandId) (s : State) : Host.Outcome State Fault Refusal := stutter s (s.wake c.val t.val .recv)
/-- The entry that executes next is a VLDSY (R103). -/
def Strand.headSync (st : Strand) : Bool :=
  match st.headSeq with
  | some e => (match e.instr with | .vldsy _ _ _ _ => true | _ => false)
  | none => false
/-- A waiting LDS, LDE or VLDSY completes (R97, R103). -/
def State.fullWake (s : State) (c t : Nat) : Option State :=
  match s.wake c t .full with
  | some s1 => some s1
  | none => if (s.strand c t).headSync then s.startEntry c t else none
/-- FULL_WAIT_WAKE (R97). -/
def execFullWaitWake (c : CoreId) (t : StrandId) (s : State) : Host.Outcome State Fault Refusal := stutter s (s.fullWake c.val t.val)
/-- A request that found no room tests and registers again (R97). -/
def State.retryWait (s : State) (c t : Nat) : Option State :=
  match (s.strand c t).asleep with
  | some z =>
    if z.registered then none
    else
      match s.tryWake c t with
      | some s1 => some s1
      | none =>
        if s.roomToWait z.kind z.words then
          some (s.setStrand c t { s.strand c t with asleep := some { z with registered := true } })
        else none
  | none => none
/-- WAIT_REQUEST_RETRY (R97). -/
def execWaitRequestRetry (c : CoreId) (t : StrandId) (s : State) : Host.Outcome State Fault Refusal := stutter s (s.retryWait c.val t.val)
/-- CBWAIT_WAKE (R232). -/
def execCbwaitWake (c : CoreId) (t : StrandId) (s : State) : Host.Outcome State Fault Refusal :=
  stutter s (s.wake c.val t.val .completion)
/-- EVWAIT_WAKE (R62). -/
def execEvwaitWake (c : CoreId) (t : StrandId) (s : State) : Host.Outcome State Fault Refusal := stutter s (s.wake c.val t.val .event)
/-- TAKE_WAIT_WAKE (R246). -/
def execTakeWaitWake (c : CoreId) (t : StrandId) (s : State) : Host.Outcome State Fault Refusal := stutter s (s.wake c.val t.val .task)

/-! ### Changes that wake -/

/-- What the strand waits for at a memory has come: an LDS's or LDE's words are full, a CBWAIT's word has REMAIN 0, a
record of the context is in a TAKE.WAIT's queue (Table 14.8). -/
def State.canWake (s : State) (c t : Nat) : Bool :=
  match (s.strand c t).asleep with
  | some z =>
    z.registered && !z.released && !s.fenced c && (match z.kind with
      | .full => s.allFull z.words
      | .completion => z.words.all fun w => cbRemain (s.readN (4 * w) 4) == 0
      | .task => (s.cluster (clusterOf c)).tasks.any fun r => r.ctx == (s.core c).part.ctx
      | _ => false)
  | none => false
/-- The registered waiters whose condition holds. -/
def State.waiters (s : State) : List (Nat × Nat) :=
  (s.cores.flatMap fun e => (e.2.part.strands.filter fun x => x.2.asleep.isSome).map fun x => (e.1, x.1)).filter fun p => s.canWake p.1 p.2
def State.wakeWaiter (s : State) (p : Nat × Nat) : State := if s.canWake p.1 p.2 then (s.tryWake p.1 p.2).getD s else s
/-- A change that makes a waiter's condition true wakes it (R270, R232): it completes with the change, before another can undo it. Of several LDE
that wait for one word, a free value says which is first (R97). -/
def State.wakeChanged (s : State) : State :=
  match s.waiters with
  | [] => s
  | [p] => s.wakeWaiter p
  | l =>
    let n := (Config.freeBits s.freeCtr).toNat % l.length
    (l.drop n ++ l.take n).foldl State.wakeWaiter { s with freeCtr := s.freeCtr + 1 }
/-- Where the change is to full/empty bits, which stood as `was`, a VLDSY at the head of a sequencer executes with it too (R103, R270). -/
def State.wakeSync (s : State) (was : List Nat) : State :=
  if s.empties = was then s
  else
    let l := s.cores.flatMap fun e => (e.2.part.strands.filter fun x => x.2.headSync).map fun x => (e.1, x.1)
    l.foldl (fun s p => (s.startEntry p.1 p.2).getD s) s

/-! ## Barrier episodes -/

/-- The member cores of a domain, by its clusters' masks (R211). -/
def Domain.members (d : Domain) : List Nat :=
  d.masks.flatMap fun e => ((span 0 32).filter fun q => e.2.getLsbD q).map fun q => e.1 * 32 + q
/-- A strand has arrived at the current episode; one whose task has ended counts as arrived (R212). -/
def Domain.arrivedAt (d : Domain) (c t : Nat) (st : Strand) : Bool :=
  st.status == .ended || st.status == .absent || d.arrivals.any fun a => a.core == c && a.strand == t
/-- The cause that a member's task contributes: its own, or that of a fault that no strand is left to take. -/
def Part.cause (p : Part) : Option Nat :=
  match p.taskFault with
  | some c => some c
  | none =>
    p.strands.findSome? fun e =>
      if e.2.status != .ended then none
      else
        match e.2.seqFault, e.2.churnFault with
        | some f, _ => some f.code
        | none, some g => some g.code
        | none, none => none
/-- A member core has arrived (R212): every strand of its context there has. A core whose member is saved elsewhere has not; one
whose member's task has ended normally has; one that ends by a fault breaks the domain when it is reported (R215). -/
def State.coreArrived (s : State) (d : Domain) (launch c : Nat) : Bool :=
  let p := (s.core c).part
  if p.resident && p.launch == launch then (p.done || p.cause.isNone) && p.strands.all fun e => d.arrivedAt c e.1 e.2
  else !(s.images.any fun e => e.2.restored.isNone && e.2.oldCore == c && e.2.part.launch == launch)
/-- The current episode may release: every member core has arrived, and what the arrivals cover is performed (R213). An episode
of a domain whose members have all ended is of no account unless a BSET waits for its end (R214). -/
def State.episodeDone (s : State) (d : Domain) : Bool :=
  match d.launch with
  | none => false
  | some l => !d.broken && !(d.arrivals.isEmpty && d.pendingMasks.isEmpty) && d.members.all (s.coreArrived d l)
      && d.arrivals.all fun a => a.covers.all fun id => !s.unperformed id

/-- What a release does for one arrival: a sleeper in BAR or BARW completes, an acquire (R213); a core in XPHASE gets its exchange cycle 0 (R185);
its other strands are held from then on. -/
def State.releaseOne (key : Nat) (s0 : State) (a : Arrival) : State :=
  let st := s0.strand a.core a.strand
  match st.asleep with
  | none => s0
  | some z =>
    if z.kind != .barrier || z.words != [key] then s0
    else
      let s := s0.setStrand a.core a.strand { st with known := st.known.join (s0.domain key).known }
      match z.control with
      | .xphase k =>
        let x := s.core a.core
        let s1 := s.setCore a.core { x with exch := { x.exch with
          active := true, waiting := true, strand := a.strand, start := s.time + 16, armed := [], lane := []
          dom := k, die := !x.part.xdomsClu.getLsbD k.toNat } }
        s1.meetMargin a.core
      | _ => ((s.at_ a.core a.strand).completeSleep z).backTo s
/-- The release of an episode (R212, R214). -/
def State.releaseEpisode (s : State) (key : Nat) : Option State :=
  let d := s.domain key
  if !s.episodeDone d then none
  else
    let masks := d.pendingMasks.foldl (fun t e => Tab.put e.1 e.2 t) d.masks
    let known := d.arrivals.foldl (fun k a => k.join a.known) d.known
    let s1 := s.setDomain key { d with episode := d.episode + 1, masks := masks, pendingMasks := [], arrivals := [], known := known }
    some (d.arrivals.foldl (State.releaseOne key) s1)
/-- BARRIER_RELEASE (R212). -/
def execBarrierRelease (lv : BLevel) (inst : Fin 256) (k : BitVec 4) (s : State) : Host.Outcome State Fault Refusal :=
  stutter s (s.releaseEpisode (domKey lv inst.val k.toNat))

/-! ## Broken domains -/

/-- A strand sleeps on the domain (R215). -/
def Strand.sleepsOn (st : Strand) (key : Nat) : Bool :=
  match st.asleep with
  | some z => z.kind == .barrier && z.words == [key]
  | none => false
/-- Every strand of core c that waits on the domain takes 0x2D (a released XPHASE does not wait any more), between bundles (R215, Table 14.2). -/
def State.wakeBroken (key : Nat) (s : State) (c : Nat) : State :=
  [0, 1, 2, 3].foldl (fun s t =>
    let st := s.strand c t
    let x := (s.core c).exch
    if st.sleepsOn key && !(x.waiting && x.strand == t) then (s.setStrand c t { st with asleep := none }).takeFault c t { code := 0x2D } false true false false st.pc
    else s) s
/-- The domain is broken for its launch (R215). -/
def State.breakDomain (s : State) (key : Nat) : State :=
  let d := s.domain key
  if d.broken then s
  else
    let s1 := s.setDomain key { d with broken := true, arrivals := [] }
    (s1.cores.map (·.1)).foldl (State.wakeBroken key) s1
/-- Every domain of the launch of which core c is a member is broken (R215, R254). -/
def State.breakDomains (s : State) (launch c : Nat) : State :=
  ((s.domains.filter fun e => e.2.launch == some launch && e.2.member c).map (·.1)).foldl State.breakDomain s

/-! ## Start of a phase -/

/-- Exchange cycle 0 of core c: the XPHASE completes and the strand's next bundle may issue (R185). ARRIVE is the stamp of its
arrival, which counts as a BARI (R212). -/
def State.startPhase (s : State) (c : Nat) : Option State :=
  let k := s.core c
  if !k.exch.waiting || s.time < k.exch.start then none
  else
    let t := k.exch.strand
    let s1 := s.setCore c { k with exch := { k.exch with waiting := false } }
    match (s.strand c t).asleep with
    | some z => some (((s1.at_ c t).completeSleep z).backTo s)
    | none => some s1
/-- EXCHANGE_PHASE_START (R185). -/
def execExchangePhaseStart (c : CoreId) (s : State) : Host.Outcome State Fault Refusal := stutter s (s.startPhase c.val)

end Sys2Proof.Machine
end

