-- ==== Sys2Proof/Machine/EvAccess.lean ====
section
/-!
DEFINITION. Outstanding accesses at work: performed at the memory (R194, R202), answered (R102), resent (R164, R205), and
ended without a port (R313).
-/
namespace Sys2Proof.Machine

/-- The access may be performed now: earlier accesses of the strand to its bytes are (R195), no edge and no missing port stops
it, and no packet of it waits to be resent. -/
def State.reachable (s : State) (c t : Nat) (a : Access) : Bool :=
  (s.strand c t).mayPerform a && a.err.isNone && s.edgeOpen c a.bytes && !a.bytes.any s.peerDown && !s.nacked.contains a.id

/-- A load, a store or a clearing is performed (R194). -/
def State.performNow (s : State) (c t id : Nat) : Option State :=
  match (s.strand c t).access id with
  | some a => if a.op.isAtomic || !s.reachable c t a then none else some (s.performAccess c t a)
  | none => none
/-- ACCESS_PERFORMED (R194, R195). -/
def execAccessPerformed (c : CoreId) (t : StrandId) (id : Nat) (s : State) : Host.Outcome State Fault Refusal :=
  stutter s (s.performNow c.val t.val id)

/-- An atomic, ACCF or CELLRD executes at its unit (R202, R208, R209); an ACCF has no reply that writes a register. -/
def State.atomicNow (s : State) (c t id : Nat) : Option State :=
  match (s.strand c t).access id with
  | some a =>
    match a.op with
    | .atomic i =>
      if !s.reachable c t a then none
      else some (s.atomicAt c t a i)
    | _ => none
  | none => none
/-- ATOMIC_AT_UNIT (R202). -/
def execAtomicAtUnit (c : CoreId) (t : StrandId) (id : Nat) (s : State) : Host.Outcome State Fault Refusal :=
  stutter s (s.atomicNow c.val t.val id)

/-- The destination is no longer awaited; its contents stay. -/
def Strand.unbusyAt (st : Strand) (i : Option Nat) : Strand :=
  match i with
  | some k => { st with x := Tab.put k { Tab.get {} k st.x with busy := false } st.x }
  | none => st
/-- The access ends by a fault: nothing is written. -/
def Strand.abandon (st : Strand) (a : Access) : Strand := ((st.dropAccess a.id).unbusyAt a.dst).unbusyAt a.dst2
/-- The kind of an outstanding access in CAUSE.ACC (Table 14.1). -/
def AccOp.acc : AccOp → Nat
  | .load => 1 | .store => 2 | .clear => 2 | .atomic _ => 3
/-- An outstanding access ends by an error that reaches the strand between bundles (log 45). -/
def State.failAccess (s : State) (c t : Nat) (a : Access) (f : FaultInfo) : State :=
  let st := (s.strand c t).abandon a
  s.setStrand c t { st with arrivals := st.arrivals ++ [{ code := f.code, eva := f.eva, acc := f.acc }] }
/-- The reply of a performed load or atomic, or the end of one in error. An acquire returns once the releases that it reads from
are settled (R198); one that would wait on accesses that are never performed takes 0x16 at its own bundle (R301). -/
def State.reply (s : State) (c t id : Nat) : Option State :=
  match (s.strand c t).access id with
  | none => none
  | some a =>
    match a.err with
    | some f => some (s.failAccess c t a f)
    | none =>
      if !a.performed then none
      else
        match a.acq with
        | none => some (s.answer c t a)
        | some sc =>
          if s.lostIn a.records c t sc a.arm then
            some ((s.setStrand c t ((s.strand c t).abandon a)).takeFault c t
              { code := 0x16, acc := a.op.acc, eva := a.ea } false false false false a.pc)
          else if s.settled a.records c t sc a.arm then some (s.answer c t a)
          else none
/-- ACCESS_REPLY (R102, R198). -/
def execAccessReply (c : CoreId) (t : StrandId) (id : Nat) (s : State) : Host.Outcome State Fault Refusal :=
  stutter s (s.reply c.val t.val id)

/-- Applies a change, which may depend on its core, to the outstanding access `id` of whichever strand has it. -/
def State.onAccess (s : State) (id : Nat) (f : Nat → Access → Access) : State :=
  { s with cores := s.cores.map fun k => (k.1, { k.2 with part := { k.2.part with strands := k.2.part.strands.map fun e =>
      (e.1, { e.2 with out := e.2.out.map fun a => if a.id = id then f k.1 a else a }) } }) }
/-- A request resent after a detected error (R205): an atomic that has left its core reaches its unit again, and a flit its destination; the window of
R204 keeps the effect single. Other traffic is only delayed. -/
def State.linkError (s : State) (id : Nat) : State :=
  let s1 := s.onAccess id fun c a => if a.leaves c then { a with performed := false, resent := a.resent || a.performed } else a
  { s1 with flits := s1.flits.map fun f => if f.id = id && f.state == .acked then { f with state := .inFlight, resent := true } else f }
/-- DETECTED_LINK_ERROR (R205). -/
def execDetectedLinkError (id : Nat) (s : State) : Host.Outcome State Fault Refusal := .next (s.linkError id)

/-- An access of several flits that is not yet performed (R164). -/
def State.splitAccess (s : State) (id : Nat) : Bool :=
  s.cores.any fun k => k.2.part.strands.any fun e => e.2.out.any fun a => a.id == id && !a.performed && 64 < a.bytes.length
/-- REASSEMBLY_TIMEOUT: a packet that is still partial is discarded and NACKed (R164). -/
def execReassemblyTimeout (id : Nat) (s : State) : Host.Outcome State Fault Refusal :=
  stutter s (if s.splitAccess id && !s.nacked.contains id then some { s with nacked := s.nacked ++ [id] } else none)
/-- NACK_RESEND: the sender resends it (R164). -/
def execNackResend (id : Nat) (s : State) : Host.Outcome State Fault Refusal :=
  stutter s (if s.nacked.contains id then some { s with nacked := s.nacked.filter (· != id) } else none)

/-- A request to a peer that has found no port up for 64 µs after it left completes with 0x1E (R313). -/
def State.noPort (s : State) (c t id : Nat) : Option State :=
  match (s.strand c t).access id with
  | some a =>
    if a.performed || !a.bytes.any s.peerDown || s.time < Nat.max a.since s.portsDown + us64 then none
    else some (s.failAccess c t a { code := 0x1E, acc := a.op.acc, eva := a.ea })
  | none => none
/-- PEER_NO_PORT_TIMEOUT (R313). -/
def execPeerNoPortTimeout (c : CoreId) (t : StrandId) (id : Nat) (s : State) : Host.Outcome State Fault Refusal :=
  stutter s (s.noPort c.val t.val id)

end Sys2Proof.Machine
end

