-- ==== Sys2Proof/Machine/EvMessage.lean ====
section
/-!
DEFINITION. Messages, register sends and posts on their way: acceptance (R166, R171 to R173), arrival at a register (R178 to
R181), acknowledgement and refusal (R170, R175), the landing path and forwarding (R260, R263), task queues (R246).
-/
namespace Sys2Proof.Machine

/-! ## Where a member is -/

/-- Where a resident part is to be found. -/
inductive Home where
  | resident (c : Nat)
  | image (id : Nat)
  /-- it left more than 64 µs ago -/
  | moved
  | gone
  deriving DecidableEq, Repr

/-- Looks for a part that satisfies `p` at core c: resident there, saved with c as the core it left (R260), or moved on, for
64 µs (R263). DESIGN CHOICE (log 75): where one member of the sender's launch has left core c, or was switched out of it, and another member
holds it now, the spec does not say which an arrival goes to; the model gives it to the resident one. -/
def State.findPart (s : State) (p : Part → Bool) (c : Nat) : Nat → Home
  | 0 => .gone
  | fuel + 1 =>
    let k := (s.core c).part
    if k.resident && !k.mirror && p k then .resident c
    else
      match s.images.reverse.find? fun e => e.2.oldCore == c && p e.2.part with
      | none => .gone
      | some (id, im) =>
        match im.restored with
        | none => .image id
        | some c' => if im.closed || im.until_ ≤ s.time then .moved else s.findPart p c' fuel
/-- The usable strands of a core in increasing number (R261). -/
def TestState.strands (t : TestState) : List Nat := (span 0 4).filter fun k => t.usable.getLsbD k
/-- The number that a strand of a saved part takes on core c: its strands take the core's usable ones in increasing number (R261). -/
def State.newNumber (s : State) (im : Image) (c t : Nat) : Nat :=
  (((im.part.strands.map (·.1)).zip (s.core c).test.strands).find? fun e => e.1 == t).elim t (·.2)
/-- The number that strand t of such a part has where `findPart` finds it. -/
def State.numberAt (s : State) (p : Part → Bool) (c t : Nat) : Nat → Nat
  | 0 => t
  | fuel + 1 =>
    let k := (s.core c).part
    if k.resident && !k.mirror && p k then t
    else
      match s.images.reverse.find? fun e => e.2.oldCore == c && p e.2.part with
      | none => t
      | some (_, im) => match im.restored with | none => t | some c' => s.numberAt p c' (s.newNumber im c' t) fuel
/-- The member that a flit reaches at core c: of the sender's launch before another of the sender's context (R257). -/
def State.targetOf (s : State) (f : Flit) (c : Nat) : Home :=
  match s.findPart (fun p => p.ctx == f.ctx && p.launch == f.launch) c 8 with
  | .gone => s.findPart (fun p => p.ctx == f.ctx) c 8
  | h => h
/-- The number that the strand a register send names has where the flit reaches it. -/
def State.targetStrand (s : State) (f : Flit) (c t : Nat) : Nat :=
  match s.findPart (fun p => p.ctx == f.ctx && p.launch == f.launch) c 8 with
  | .gone => s.numberAt (fun p => p.ctx == f.ctx) c t 8
  | _ => s.numberAt (fun p => p.ctx == f.ctx && p.launch == f.launch) c t 8
/-- Where the sender of a flit is now, moves counted. -/
def State.senderOf (s : State) (f : Flit) : Home :=
  let p (q : Part) : Bool := q.ctx == f.ctx && q.launch == f.launch
  let rec go (c : Nat) : Nat → Home
    | 0 => .gone
    | fuel + 1 =>
      let k := (s.core c).part
      if k.resident && p k then (if k.done then .gone else .resident c)
      else
        match s.images.reverse.find? fun e => e.2.oldCore == c && p e.2.part with
        | none => .gone
        | some (id, im) => match im.restored with | none => .image id | some c' => go c' fuel
  go f.src 8
def State.image? (s : State) (id : Nat) : Option Image := (s.images.find? fun e => e.1 == id).map (·.2)
def State.putImage (s : State) (id : Nat) (im : Image) : State := { s with images := Tab.put id im s.images }
/-- Changes a strand where its part is: on a core, or in the save image. -/
def State.onHome (s : State) (h : Home) (t : Nat) (g : Strand → Strand) : State :=
  match h with
  | .resident c => s.setStrand c t (g (s.strand c t))
  | .image id =>
    match s.image? id with
    | some im => s.putImage id { im with part := im.part.setStrand t (g (Tab.get {} t im.part.strands)) }
    | none => s
  | _ => s

/-! ## Flits -/

def State.flit (s : State) (id : Nat) : Option Flit := s.flits.find? fun f => f.id == id
def State.setFlit (s : State) (id : Nat) (st : FlitState) : State :=
  { s with flits := s.flits.map fun f => if f.id = id then { f with state := st } else f }
def State.dropFlit (s : State) (id : Nat) : State := { s with flits := s.flits.filter fun f => f.id != id }
def Flit.isRegister (f : Flit) : Bool := f.kind == 1 || f.kind == 5
/-- Flits that keep their order (R163, R171): one strand's messages to one core, or to one task queue; its register sends to
one strand. -/
def Flit.follows (f g : Flit) : Bool :=
  g.src == f.src && g.strand == f.strand && g.dst == f.dst && f.isRegister == g.isRegister
    && (f.kind == 4) == (g.kind == 4) && (!f.isRegister || capStrand f.target == capStrand g.target)
/-- A flit's place in the order of issue: an RSENDV's is that of its handover (R163). -/
def Flit.order (f : Flit) : Nat := f.ord.getD f.id
/-- An RSENDV to the strand that the register send `f` names, issued before it, still stands in its sender's sequencer. -/
def Strand.sendsBefore (st : Strand) (f : Flit) : Bool :=
  (st.seq ++ if st.status == .ended then [] else st.seqHeld).any fun e => match e.instr with
    | .rsendv _ _ _ =>
      e.ord < f.order && capCore e.xa.val == f.dst && capStrand e.xa.val == capStrand f.target
    | _ => false
/-- Nothing of the same sender that f follows, issued before it, is still on its way (R163). -/
def State.flitFirst (s : State) (f : Flit) : Bool :=
  (s.flits.all fun g => !(g.order < f.order && g.state.pending && f.follows g))
    && !(f.isRegister && match s.senderOf f with
      | .resident c => (s.strand c f.strand).sendsBefore f
      | _ => false)
/-- The receiving unit's number for the window of R204: a pail, a register landing path, a task queue. -/
def Flit.unit (f : Flit) : Nat := (if f.isRegister then 30000 else if f.kind = 4 then 40000 else 20000) + f.dst
/-- A flit has had its effect; a duplicate in the window has none again (R164, R204). -/
def State.takenAt (s : State) (f : Flit) : State :=
  ((s.countEffect f.src f.unit f.resent).windowPut f.unit f.source f.seq 0).setFlit f.id .acked
/-- The cases common to all arrivals: order, duplicates, and the edges of fenced rectangles (R301); `some none`: go on. -/
def State.arrivalGate (s : State) (f : Flit) : Option (Option State) :=
  if f.state != .inFlight || !s.flitFirst f then none
  else if (s.windowHit f.unit f.source f.seq).isSome then some (some ((s.countEffect f.src f.unit f.resent).setFlit f.id .acked))
  else if f.kind != 4 && s.rects.any fun e => e.2.state != .fencing && e.2.has f.dst && !e.2.has f.src then
    some (some (s.setFlit f.id (.refused 0x16)))
  else if s.rects.any fun e => e.2.state != .fencing && e.2.has f.src && (f.kind == 4 || !e.2.has f.dst) then none
  else some none

/-- The core that an arrival has been forwarded to lies in a fenced rectangle, and the sender outside of it (R173, Table 8.4). -/
def State.forwardFenced (s : State) (f : Flit) (c : Nat) : Bool :=
  s.rects.any fun e => e.2.state != .fencing && e.2.has c && !e.2.has f.src
/-- What becomes of a flit where no member is at its target: the number of a DUAL pair's partner refuses it with `code` (R303), and it is discarded
elsewhere. -/
def State.nobodyAt (s : State) (f : Flit) (code : Nat) : State :=
  let p := (s.core f.dst).part
  if p.mirror && p.resident && !p.done then s.setFlit f.id (.refused code) else s.takenAt f

/-! ## Messages -/

/-- Acceptance at the core on which the member is resident (R166). -/
def State.acceptAt (s : State) (c : Nat) (f : Flit) : State :=
  let p := (s.core c).part
  let m : Msg := { data := f.data, core := f.src, strand := f.strand, id := f.id, rel := f.rel }
  if p.done then s.takenAt f
  else if !p.overflow.isEmpty || p.occupancy = p.pailSize.toNat then
    if 64 ≤ p.overflow.length then s.setFlit f.id (.refusedRoom s.time)
    else (s.setPart c { p with overflow := p.overflow ++ [m] }).takenAt f
  else (s.pailPut c m).takenAt f
/-- Acceptance by the landing path: into the context's overflow ring (R260); one that has been fenced refuses (R302). -/
def State.acceptImage (s : State) (id : Nat) (f : Flit) : State :=
  match s.image? id with
  | none => s.takenAt f
  | some im =>
    if im.cut then s.setFlit f.id (.refused 0x16)
    else if 64 ≤ im.part.overflow.length then s.setFlit f.id (.refusedRoom s.time)
    else
      let m : Msg := { data := f.data, core := f.src, strand := f.strand, id := f.id, rel := f.rel }
      (s.putImage id { im with part := { im.part with overflow := im.part.overflow ++ [m] } }).takenAt f
/-- A SEND's or MCAST's flit arrives (R166, R172, R173). -/
def State.acceptMessage (s : State) (id : Nat) : Option State :=
  match s.flit id with
  | none => none
  | some f =>
    if f.kind != 2 && f.kind != 3 then none
    else
      match s.arrivalGate f with
      | none => none
      | some (some s1) => some s1
      | some none =>
        some (match s.targetOf f f.dst with
          | .resident c => if s.forwardFenced f c then s.setFlit id (.refused 0x16) else s.acceptAt c f
          | .image im => s.acceptImage im f
          | .moved => s.setFlit id (.refused 0x23)
          | .gone => s.nobodyAt f 0x23)
/-- MESSAGE_ACCEPT (R166). -/
def execMessageAccept (id : Nat) (s : State) : Host.Outcome State Fault Refusal := stutter s (s.acceptMessage id)

/-- A flit refused for room leaves again after 256 fabric cycles (R171). -/
def State.resend (s : State) (id : Nat) : Option State :=
  match s.flit id with
  | some f =>
    match f.state with
    | .refusedRoom at_ => if at_ + 256 ≤ s.time then some (s.setFlit id .inFlight) else none
    | _ => none
  | none => none
/-- MESSAGE_RESEND (R171). -/
def execMessageResend (id : Nat) (s : State) : Host.Outcome State Fault Refusal := stutter s (s.resend id)

/-- The sender's buffer without the flit; an entry is free when its last destination has answered (R170, R177). -/
def Strand.freeSend (st : Strand) (f : Flit) : Strand :=
  if f.isRegister then { st with regSends := st.regSends.filter (· != f.id) }
  else
    { st with sends := (st.sends.map fun e => { e with left := e.left.filter (· != f.id) }).filter fun e => !e.left.isEmpty }
/-- An acknowledgement reaches the sender. -/
def State.acknowledge (s : State) (id : Nat) : Option State :=
  match s.flit id with
  | some f => if f.state == .acked then some ((s.onHome (s.senderOf f) f.strand fun st => st.freeSend f).dropFlit id) else none
  | none => none
/-- SEND_ACKNOWLEDGE (R170). -/
def execSendAcknowledge (id : Nat) (s : State) : Host.Outcome State Fault Refusal := stutter s (s.acknowledge id)

def State.launch? (s : State) (l : Nat) : Option Launch := (s.launches.find? fun e => e.1 == l).map (·.2)
def State.setLaunch (s : State) (l : Nat) (x : Launch) : State := { s with launches := Tab.put l x s.launches }
/-- EVA of a refusal (R175). -/
def Flit.refusalEva (f : Flit) : Nat := if f.isRegister then 1 else f.kind
/-- A refusal reaches the sender, who takes it between two bundles; one that reaches a strand that has ended, or an ended context, sets
LATEREF and ERR (R175, Table 16.5). -/
def State.refuse (s : State) (id : Nat) : Option State :=
  match s.flit id with
  | none => none
  | some f =>
    match f.state with
    | .refused code =>
      let h := s.senderOf f
      let s1 := (s.onHome h f.strand fun st =>
        { st.freeSend f with refusals := st.refusals ++ [{ code := code, eva := f.refusalEva, rsfail := some f.target }] }).dropFlit id
      let ended : Bool := match h with
        | .gone => true
        | .resident c => (s.strand c f.strand).status == .ended
        | _ => false
      some (if ended then
          match s1.launch? f.launch with
          | some l => s1.setLaunch f.launch { l with flags := l.flags ||| 0x11#8, err := true }
          | none => s1
        else s1)
    | _ => none
/-- SEND_REFUSAL (R175). -/
def execSendRefusal (id : Nat) (s : State) : Host.Outcome State Fault Refusal := stutter s (s.refuse id)

/-! ## Register arrivals -/

/-- What an arrival does to its target strand (R178, Table 8.4). -/
inductive Landed where
  | applied (st : Strand)
  | stale
/-- Elements 0 to n − 1 of a register at width w from the flit's data; the others stay. -/
def landElems (old : BitVec 2048) (data : Nat) (w : Nat) : Nat → BitVec 2048
  | 0 => old
  | n + 1 => setField (landElems old data w n) w n (data / 2 ^ (w * n) % 2 ^ w)
/-- Applies a register arrival (R178); the release that a fence made of the send stays with the register until it is read (R182). -/
def Strand.landSend (st : Strand) (f : Flit) : Landed :=
  let v := f.target.toNat
  let reg := v / 2 ^ 41 % 32
  let many := v / 2 ^ 40 % 2 = 1
  let arrives (code eva : Nat) : Landed := .applied { st with arrivals := st.arrivals ++ [{ code := code, eva := eva }] }
  if BitVec.ofNat 16 (v / 2 ^ 24) ≠ st.regs.capgen then .stale
  else if st.status == .ended || st.status == .absent then .applied st
  else if f.kind = 1 then
    let r := st.xreg reg
    if r.full && !many then arrives 0x22 reg
    else
      let w := f.data.setWidth 64
      .applied (st.xput reg { val := w, mark := loadMark w, full := true, busy := r.busy, rel := f.rel })
  else if st.nlanes = 0 then arrives 0x24 (32 + reg)
  else
    let r := st.vreg reg
    if r.full && !many then arrives 0x22 (32 + reg)
    else
      let n := Nat.min f.count (elems st.nlanes f.width)
      .applied (st.vput reg { val := landElems r.val f.data.toNat f.width n, full := true, rel := f.rel })
/-- A register send reaches its target: on a core, in a save image (R260), on the member's new core (R263), or nowhere. -/
def State.landRegister (s : State) (id : Nat) : Option State :=
  match s.flit id with
  | none => none
  | some f =>
    if !f.isRegister then none
    else
      match s.arrivalGate f with
      | none => none
      | some (some s1) => some s1
      | some none =>
        let t := s.targetStrand f f.dst (capStrand f.target)
        let apply (h : Home) (st : Strand) : State :=
          match st.landSend f with
          | .stale => s.setFlit id (.refused 0x20)
          | .applied st1 => (s.onHome h t fun _ => st1).takenAt f
        some (match s.targetOf f f.dst with
          | .resident c =>
            if s.forwardFenced f c then s.setFlit id (.refused 0x16)
            else if (s.core c).part.done then s.takenAt f
            else apply (.resident c) (s.strand c t)
          | .image im =>
            match s.image? im with
            | some x => if x.cut then s.setFlit id (.refused 0x16) else apply (.image im) (Tab.get {} t x.part.strands)
            | none => s.takenAt f
          | .moved => s.setFlit id (.refused 0x20)
          | .gone => s.nobodyAt f 0x16)
/-- REGISTER_ARRIVAL (R178). -/
def execRegisterArrival (id : Nat) (s : State) : Host.Outcome State Fault Refusal := stutter s (s.landRegister id)

/-! ## Task queues -/

/-- A posted record reaches its home cluster's queue of 4,096 (R246); the records of a context that has ended are no more in it. -/
def State.deliverPost (s : State) (id : Nat) : Option State :=
  match s.flit id with
  | none => none
  | some f =>
    if f.kind != 4 then none
    else
      match s.arrivalGate f with
      | none => none
      | some (some s1) => some s1
      | some none =>
        let cl := s.cluster f.dst
        let tasks := s.liveTasks f.dst
        if 4096 ≤ tasks.length then some (s.setFlit id (.refusedRoom s.time))
        else some ((s.setCluster f.dst { cl with tasks := tasks ++ [{ ctx := f.ctx, data := f.data, rel := f.rel }] }).takenAt f)
/-- POST_DELIVERY (R246). -/
def execPostDelivery (id : Nat) (s : State) : Host.Outcome State Fault Refusal := stutter s (s.deliverPost id)

end Sys2Proof.Machine
end

