-- ==== Sys2Proof/Machine/EvPower.lean ====
section
/-!
DEFINITION. Power and speed: requests (R293), rails (R12, R13), re-measurements of cores and lanes (R15, R110), budgets and
permits (R295, R296), junction samples (R14), and what they do to a phase (R186).
-/
namespace Sys2Proof.Machine


/-! ## Caps -/

/-- Lane caps of core c as they are now (R110): the lowest floor below T, stepped to 25 MHz. -/
def State.capLanes (s : State) (c : Nat) : State :=
  let t := (s.core c).curve.target
  let low := ((span 0 4).filter fun n => !(s.lanesOf c n).isEmpty).map (s.laneFloor c)
  match low.filter (· < t) with
  | [] => s
  | f :: rest => s.onCurve c fun k => { k with lnCap := some (rest.foldl Nat.min f / 25 * 25) }
/-! ## Rails -/

/-- An XPHASE that waits for its rail goes on (R185). -/
def State.railWake (s : State) (c : Nat) : State :=
  let t := (s.core c).exch.strand
  match (s.strand c t).asleep with
  | none => s
  | some z =>
    if z.kind != .barrier || z.words != [] then s
    else
      let s0 := (s.at_ c t).setMe { s.strand c t with asleep := none }
      let pc := (s.strand c t).pc
      match sleepEff z s0 with
      | .sleep _ l s2 => (s2.setMe { s2.me with asleep := some { z with words := l } }).backTo s
      | .trapIn s2 f => (s2.takeFault c t f false false false false pc).backTo s
      | .trap f w => (s0.takeFault c t f w false false false pc).backTo s
      | _ => s
/-- The cores of an octet: their lanes share a rail. -/
def octetCores (o : Nat) : List Nat := span (8 * o) 8
/-- A quad's clocks stand at their new level: lane caps of the octet, matching caps, phases and waiting XPHASEs follow, and R12 is evaluated. -/
def State.clocksStand (s : State) (q : Nat) : State :=
  let o := octetCores (q / 2)
  let s1 := ((o.foldl State.capLanes s).rematch (8 * (q / 2))).rematch (8 * (q / 2) + 4)
  let s2 := (quadCores q).foldl State.phaseMargin s1
  ((quadCores q).foldl State.railWake s2).evalQuad q
/-- A rail transition goes on (R13): the rail reaches its new level, CVOLT and CLEAK with it. The clocks of a lowering have stepped down before;
those of a raise step up as a second happening, as far as the points allow. -/
def State.settleRail (s : State) (q : Nat) : Option State :=
  let r := s.rail q
  if r.stepUp then
    let s1 := (quadCores q).foldl (fun s c => s.onCurve c fun k => { k with cfreq := curvef k.cvf r.volt }) (s.setRail q { r with stepUp := false })
    some (s1.clocksStand q)
  else
    r.target.map fun v =>
      let s1 := (quadCores q).foldl (fun s c => s.onCurve c fun k => k.releak v)
        (s.setRail q { volt := v, target := none, stepUp := decide (r.volt < v) })
      if r.volt < v then s1 else s1.clocksStand q
/-- RAIL_SETTLE (R13). -/
def execRailSettle (q : Fin 2048) (s : State) : Host.Outcome State Fault Refusal := stutter s (s.settleRail q.val)

/-! ## Measurements -/

/-- The eight points of an event's argument; none unless they do not decrease (Table 1.4, R108). -/
def pointsOf (b : BitVec 128) : Option (List Nat) :=
  let l := (span 0 8).map fun i => b.toNat / 2 ^ (16 * i) % 65536
  if (l.zip (l.drop 1)).all fun e => e.1 ≤ e.2 then some l else none
/-- Some point of `a` is below the same point of `b`. -/
def someBelow (a b : List Nat) : Bool := (a.zip b).any fun e => e.1 < e.2
/-- The core that runs the member on core c: in a DUAL pair the primary (R303). -/
def State.primaryOf (s : State) (c : Nat) : Nat :=
  let p := (s.core c).part
  if p.mirror then p.partner.getD c else c
/-- The scheduler acts on a curve notification (R292, R264): a member that the new points cannot bring to its launch's MINF at 950 mV, capped as
CSPEED is, is marked for migration (R297); a DUAL pair by either core's points, for it is clocked at the lower speed (R303). -/
def State.notify (s : State) (c : Nat) : State :=
  let k := s.core c
  let d := s.primaryOf c
  let s1 := s.onCurve c fun x => { x with notified := false }
  let p := (s1.core d).part
  match s.launch? k.part.launch with
  | some l =>
    let f := Curve.speed { k.curve with cfreq := curvef k.curve.cvf 950 }
    if k.part.occupied && p.occupied && l.packet.sel ≠ 0 && l.packet.sel ≠ 1 && f < l.packet.minf then
      s1.setPart d ({ p with marked := true, migrate := true }.raiseAll 4)
    else s1
  | none => s1
/-- The scheduler has a notification of core c to act on (R15, R292). DESIGN CHOICE (log 76): how long after the update it does is open; it is a
happening of the machine's own. -/
def State.scheduled (s : State) (c : Nat) : Option State := if (s.core c).curve.notified then some (s.notify c) else none
/-- A re-measurement of core c (R15); a lowering that is still due keeps its time. DEDUCED (log 30): user event 0x2 of either core of a DUAL pair
goes to the pair's strands, on both, for the two go in step. DESIGN CHOICE (log 83): a raise that is held pending when a lowering follows is dropped, since
the lowering's points are the later measurement; the spec does not say. -/
def State.remeasure (s : State) (c : Nat) (cvf cvl : BitVec 128) : Option State :=
  match pointsOf cvf, pointsOf cvl with
  | some f, some l =>
    let k := s.core c
    if someBelow f k.curve.cvf || someBelow k.curve.cvl l then
      let due := s.time + 100000
      let s1 := s.onCurve c fun x =>
        ({ x with
          cvf := f, cvl := l, tjAt := x.tj, cgen := x.cgen + 1, due := some (Nat.min due (x.due.getD due)), raise_ := none
          notified := true } : Curve).releak (s.cvolt c)
      let d := s.primaryOf c
      let s2 := if k.part.occupied then s1.setPart d ((s1.core d).part.raiseAll 2) else s1
      some (s2.phaseMargin c)
    else if f = k.curve.cvf && l = k.curve.cvl then none
    else some (s.onCurve c fun x => { x with raise_ := some (f, l), tjAt := x.tj })
  | _, _ => none
/-- REMEASUREMENT (R15). -/
def execRemeasurement (c : CoreId) (cvf cvl : BitVec 128) (s : State) : Host.Outcome State Fault Refusal :=
  stutter s (s.remeasure c.val cvf cvl)
/-- 50 µs after a lowering update the clock steps down, and the quad voltage is evaluated again (R15). -/
def State.curveDue (s : State) (c : Nat) : Option State :=
  match (s.core c).curve.due with
  | some d =>
    if s.time < d then none
    else
      let r := s.rail (quadOf c)
      some ((((s.clockAt c r.clockVolt r.volt).capLanes c).rematch c).evalQuad (quadOf c))
  | none => none
/-- CURVE_UPDATE_TIMEOUT (R15). -/
def execCurveUpdateTimeout (c : CoreId) (s : State) : Host.Outcome State Fault Refusal := stutter s (s.curveDue c.val)

/-- A lane's re-measurement (R110, R186): the strand that holds a lowered lane gets event 0x2 once its floor lies below T, and
its core's cap follows (of a DUAL partner's lanes the pair's strand, log 30); a phase ends where a granted lane has fallen below 2,000 MHz. -/
def State.remeasureLane (s : State) (o j : Nat) (pts : BitVec 128) : Option State :=
  match pointsOf pts with
  | none => none
  | some l =>
    let ln := (s.octet o).lane j
    let s1 := s.setOctet o { s.octet o with lanes := Tab.put j { ln with pts := l } (s.octet o).lanes }
    match ln.owner with
    | none => some s1
    | some w =>
      let c := w / 4
      let t := w % 4
      let d := s1.primaryOf c
      let low := s1.laneFloor c t < (s1.core c).curve.target
      if !someBelow l ln.pts then some s1
      else
        let s2 := if low then
            (s1.setStrand d t ((s1.strand d t).raise 2)).onCurve c fun k => { k with laneDue := some (Nat.min (s.time + 100000) (k.laneDue.getD (s.time + 100000))) }
          else s1
        some (if (s2.core c).exch.active && s2.laneMax o j < 2000 then s2.losePhase c else s2)
/-- LANE_REMEASUREMENT (R110). -/
def execLaneRemeasurement (o : Fin 1024) (lane : Fin 128) (pts : BitVec 128) (s : State) : Host.Outcome State Fault Refusal :=
  stutter s (s.remeasureLane o.val lane.val pts)
/-- LANE_CAP_APPLY (R110). -/
def execLaneCapApply (c : CoreId) (s : State) : Host.Outcome State Fault Refusal :=
  stutter s (if (s.core c.val).curve.laneDue.isSome then
    some (((s.capLanes c.val).onCurve c.val fun k => { k with laneDue := none }).rematch c.val) else none)

/-- A junction sample (R14, R295): CLEAK is recomputed; past 105 °C a phase ends with 0x29 (R186). -/
def State.sample (s : State) (c : Nat) (tj : Int) : State :=
  let s1 := s.onCurve c fun k =>
    { (({ k with tj := tj } : Curve).releak (s.cvolt c)) with
      heating := decide (105 < tj) || (k.heating && decide (100 ≤ tj)) }
  if 105 < tj then s1.losePhase c else s1
/-- JUNCTION_SAMPLE (R14, R295). -/
def execJunctionSample (c : CoreId) (tj : Int) (s : State) : Host.Outcome State Fault Refusal := .next (s.sample c.val tj)

/-! ## Requests and budgets -/

/-- pest(c, f) in mW (R293, log 21): leakage at the voltage that f needs, and the last period's dynamic energy at f. -/
def Core.pest (k : Core) (volt f : Nat) : Nat :=
  let v := need k.curve.cvf f
  let dyn := k.activity * v * v * f / (volt * volt * Nat.max k.curve.speed 1)
  leakAt (interp k.curve.cvl v) k.curve.tj + dyn / (6400 * 562500 * 10000)
/-- The request lowered in steps of 25 MHz while the estimate exceeds MAXP. -/
def Core.underMax (k : Core) (volt floor maxp : Nat) : Nat → Nat → Nat
  | f, 0 => f
  | f, fuel + 1 => if maxp ≠ 0 && floor < f && maxp < k.pest volt f then k.underMax volt floor maxp (f - 25) fuel else f
/-- A launch is boosted under its context's grant (R293). -/
def State.boosted (s : State) (l : Launch) : Bool := l.packet.boost && (Tab.get {} l.ctx s.ctxs).grant.boost
/-- A core's request under R293, cut by R295 and raised by a phase floor (R186). -/
def State.requestOf (s : State) (c : Nat) : Nat :=
  let k := s.core c
  match s.launch? k.part.launch with
  | some l =>
    if !k.part.occupied then 0
    else
      let lo := Nat.max l.packet.minf 1200
      let f := k.underMax (s.cvolt c) lo l.packet.maxp (if s.boosted l then 4600 else lo) 200
      let g := if f - k.curve.cut < l.packet.minf then Nat.min f l.packet.minf else f - k.curve.cut
      if k.curve.floor then Nat.max (Nat.max f 2000) g else g
  | none => 0
/-- The thermal cap's step (R295): 100 MHz lower every 10 µs while heating, lifted in the same steps below 95 °C; no cap holds a
core in a phase below 2,000 MHz (R186). -/
def Curve.thermal (k : Curve) (phase : Bool) : Curve :=
  let low (x : Nat) : Nat := if phase then Nat.max (x - 100) 2000 else x - 100
  if k.heating then { k with thCap := some (low (k.thCap.getD k.cfreq)) }
  else
    match k.thCap with
    | some x => if k.tj < 95 then (if k.cfreq ≤ x + 100 then { k with thCap := none } else { k with thCap := some (x + 100) }) else k
    | none => k
/-- One core's update at an instant of R293. -/
def State.powerCore (s : State) (c : Nat) : State :=
  let r := s.requestOf c
  let k := s.core c
  s.setCore c { k with activity := 0, curve := { (k.curve.thermal k.exch.active) with request := r } }
/-- The update of every core at a multiple of 20,000 fabric cycles (R293, R295), then of the rails (R12). -/
def State.powerTick (s : State) : Option State :=
  if s.time % 20000 ≠ 0 || s.lastTick = s.time then none
  else
    let cs := s.cores.map (·.1)
    let s1 := cs.foldl State.powerCore { s with lastTick := s.time }
    let s2 := cs.foldl State.matchCap s1
    some ((cs.map quadOf).eraseDups.foldl State.evalQuad s2)
/-- POWER_CONTROL_TICK (R293). -/
def execPowerControlTick (s : State) : Host.Outcome State Fault Refusal := stutter s s.powerTick

/-- A core's rate of permit class p. -/
def Core.setRate (k : Core) (p n : Nat) : Core :=
  let b := BitVec.ofNat 8 n
  match p with
  | 0 => { k with rateMtx := b } | 1 => { k with rateVec := b } | 2 => { k with rateSfu := b } | _ => { k with rateMem := b }
def Core.throttled (k : Core) : Bool := [0, 1, 2, 3].any fun p => k.rate p != 64
def Core.fullRate (k : Core) : Core := { k with rateMtx := 64, rateVec := 64, rateSfu := 64, rateMem := 64 }
/-- The lowest priority among the resident launches. -/
def State.lowPrio (s : State) : Nat :=
  s.cores.foldl (fun m e => if e.2.part.occupied then
    (match s.launch? e.2.part.launch with | some l => Nat.min m l.packet.prio | none => m) else m) 7
/-- The requests that give way (R295): boosted cores', and once those stand at their lower bound, the lowest priority's; not
those of a core in a phase (R186). -/
def State.cutRequests (s : State) : State :=
  let boostedAt (c : Nat) : Bool := (s.core c).part.occupied && match s.launch? (s.core c).part.launch with
    | some l => s.boosted l && (Nat.max l.packet.minf 1200) + (s.core c).curve.cut < 4600
    | none => false
  let prioAt (c : Nat) : Bool := (s.core c).part.occupied && match s.launch? (s.core c).part.launch with
    | some l => l.packet.prio == s.lowPrio
    | none => false
  let cs := s.cores.map (·.1)
  let who := if cs.any boostedAt then boostedAt else prioAt
  cs.foldl (fun s c => if who c && !(s.core c).curve.floor then s.onCurve c fun k => { k with cut := k.cut + 25 } else s) s
/-- Bytes that HBM4E and LP6 move in 100 µs at their bandwidth, 26 and 0.9 TB/s (Table 1.6). -/
def memPeriod : Nat := 2690000000
/-- The period's measures with bytes and waits that the machine's meters do not show (log 22). -/
def Meter.plus (m : Meter) (bw st : Nat) : Meter := { m with bytes := m.bytes + bw, stalled := Nat.min (m.stalled + st) m.clocked }
/-- 550 × max(BW, ST) W (R295), whole watts. -/
def Meter.share (m : Meter) : Nat :=
  Nat.max (550 * Nat.min m.bytes memPeriod / memPeriod) (550 * m.stalled / Nat.max m.clocked 1)
/-- The dynamic energy of the array's cores in the present period. -/
def State.spent (s : State) : Spent :=
  s.cores.foldl (fun m e =>
    { array := m.array + e.2.spent.array, classes := [0, 1, 2, 3].map fun j => m.classes.getD j 0 + e.2.spent.classes.getD j 0 }) {}
/-- The array's estimate in mW: the period's energy over 100 µs, and every core's leakage (R294, R295; log 22). -/
def State.arrayPower (s : State) : Nat :=
  s.cores.foldl (fun n e => n + e.2.curve.cleak) (s.spent.array / (6400 * 562500 * 100000))
/-- The permit class that has spent the most (R296); of equal ones the first from class k on. -/
def Spent.top (m : Spent) (k : Nat) : Nat :=
  let x (j : Nat) : Nat := m.classes.getD j 0
  [(k + 1) % 4, (k + 2) % 4, (k + 3) % 4].foldl (fun b j => if x b < x j then j else b) (k % 4)
/-- The budgets at a multiple of 200,000 fabric cycles, from what the period has measured, and `bw`, `st` and `est` beside it (R295, log 22). Over budget the rate of the class that
has spent the most is halved; an excess that remains cuts requests; within it every rate is 64 again. -/
def State.budgetTick (bw st est k : Nat) (s : State) : Option State :=
  if s.time % 200000 ≠ 0 || s.lastBudget = s.time then none
  else
    let pm := 350 + (s.meter.plus bw st).share
    let pa := 3000 - pm
    let cls := s.spent.top k
    let s1 : State := { s with
      budgetMem := pm, budgetArray := pa, lastBudget := s.time, meter := {}, cores := s.cores.map fun e => (e.1, { e.2 with spent := {} }) }
    if 1000 * pa < s.arrayPower + est then
      let s2 := if s1.cores.any fun e => e.2.throttled then s1.cutRequests else s1
      some { s2 with cores := s2.cores.map fun e => (e.1, e.2.setRate cls (Nat.max (e.2.rate cls / 2) 1)) }
    else
      some { s1 with cores := s1.cores.map fun e => (e.1, { e.2.fullRate with curve := { e.2.curve with cut := 0 } }) }
/-- BUDGET_TICK (R295, R296). -/
def execBudgetTick (bw st est : Nat) (cls : Fin 4) (s : State) : Host.Outcome State Fault Refusal :=
  stutter s (s.budgetTick bw st est cls.val)

end Sys2Proof.Machine
end

