-- ==== Sys2Proof/Machine/EvHost.lean ====
section
/-!
DEFINITION. The host port and peers: submission FIFO (R310), event queue (R311), BAR0 and BAR2 (R309), peer requests and link
ports (R313).
-/
namespace Sys2Proof.Machine

/-! ## Submission -/

/-- A count of 12 bits that saturates. -/
def sat12 (n : BitVec 12) : BitVec 12 := if n = 0xFFF#12 then n else n + 1
/-- A write of SUBHI by requester `req` (R310). -/
def HostPort.commit (h : HostPort) (req : Nat) (v : Word) : HostPort :=
  let q := BitVec.ofNat 32 v.toNat
  let ctx := BitVec.ofNat 16 (v.toNat / 2 ^ 32)
  if q = h.nextSeq then
    if 4096 ≤ h.fifo.length then { h with drop := sat12 h.drop, full := true }
    else { h with fifo := h.fifo ++ [(Tab.get 0 req h.sublo, ctx, q)], nextSeq := h.nextSeq + 1 }
  else if (h.nextSeq - q).toNat < 2 ^ 31 then { h with dup := sat12 h.dup }
  else { h with gap := true }
/-- SUBMISSION_COMMIT (R310). -/
def execSubmissionCommit (req : Nat) (v : Word) (s : State) : Host.Outcome State Fault Refusal :=
  .next { s with host := s.host.commit req v }
/-- A write of SUBSTAT (Table 19.2): all ones clear DROP and DUP, a one clears GAP and FULL. -/
def HostPort.writeStat (h : HostPort) (v : Word) : HostPort :=
  { h with
    drop := if v.toNat / 2 ^ 20 % 4096 = 4095 then 0 else h.drop
    dup := if v.toNat / 2 ^ 8 % 4096 = 4095 then 0 else h.dup
    gap := h.gap && !v.getLsbD 2
    full := h.full && !v.getLsbD 1 }
/-- SUBSTAT_WRITE (R310). -/
def execSubstatWrite (v : Word) (s : State) : Host.Outcome State Fault Refusal := .next { s with host := s.host.writeStat v }
/-- EQHEAD_WRITE (R311). -/
def execEqheadWrite (v : Word) (s : State) : Host.Outcome State Fault Refusal :=
  .next { s with host := { s.host with eqhead := BitVec.ofNat 32 v.toNat } }
/-- A write to BAR0 at an offset (Table 19.1); a read-only register keeps its value. -/
def HostPort.writeBar0 (h : HostPort) (req : Nat) (off : BitVec 16) (v : Word) : HostPort :=
  match off.toNat with
  | 0x0000 => { h with sublo := Tab.put req v h.sublo }
  | 0x0008 => h.commit req v
  | 0x0010 => h.writeStat v
  | 0x0020 => { h with eqbase := BitVec.ofNat 64 (v.toNat % 2 ^ 54) }
  | 0x0028 => { h with eqhead := BitVec.ofNat 32 v.toNat }
  | _ => h
/-- BAR0_REGISTER_WRITE (R309). -/
def execBar0RegisterWrite (req : Nat) (off : BitVec 16) (v : Word) (s : State) : Host.Outcome State Fault Refusal :=
  .next { s with host := s.host.writeBar0 req off v }
/-- SUBSTAT as it reads (Table 19.2). -/
def HostPort.substat (h : HostPort) : Word :=
  BitVec.ofNat 64 (h.nextSeq.toNat * 2 ^ 32 + h.drop.toNat * 2 ^ 20 + h.dup.toNat * 2 ^ 8 + b2n h.gap * 4 + b2n h.full * 2
    + b2n h.fifo.isEmpty)
/-- CCSTAT and BOOTSTAT as they read (Tables 19.1, 19.5). -/
def Control.ccstat (k : Control) : Word :=
  BitVec.ofNat 64 (b2n k.activeB + b2n k.standby * 2 + k.version.toNat * 2 ^ 16)
def Control.bootstat (k : Control) : Word :=
  BitVec.ofNat 64 (k.ms.toNat * 2 ^ 32 + k.skip.toNat * 2 ^ 8 + b2n k.cold * 128 + k.fail.toNat * 8 + k.step.toNat)

/-- What a read of BAR0 returns at an offset (Table 19.1): SUBLO and SUBHI are write-only and read 0 (R6). -/
def State.readBar0 (s : State) (off : BitVec 16) : Word :=
  match off.toNat with
  | 0x0010 => s.host.substat
  | 0x0020 => s.host.eqbase
  | 0x0028 => s.host.eqhead.setWidth 64
  | 0x0030 => s.host.eqtail.setWidth 64
  | 0x0038 => s.control.ccstat
  | 0x0040 => s.control.bootstat
  | _ => 0

/-! ## The event queue -/

def entryKind (e : BitVec 256) : Nat := e.toNat % 256
/-- Entries of the ring (EQBASE[5:0]). -/
def HostPort.ring (h : HostPort) : Nat := 2 ^ (h.eqbase.toNat % 64)
/-- Places of the ring that are free; none before the host has given it an address. -/
def HostPort.room (h : HostPort) : Nat := if h.eqbase = 0 then 0 else h.ring - (h.eqtail - h.eqhead).toNat
/-- Entries of the kinds in the hold buffer: those that find no room in the ring (R311). -/
def HostPort.held (h : HostPort) (p : Nat → Bool) : Nat := ((h.hold.drop h.room).filter fun e => p (entryKind e)).length
/-- The 62 places kept beside the one of kind 4 and kind 3's own are full (R311): kinds 1 and 5 use them, and every entry of kind 3 but the first. -/
def HostPort.keptFull (h : HostPort) : Bool := 62 ≤ h.held (fun k => k == 1 || k == 5) + (h.held (· == 3) - 1)
/-- The complex's own store takes 16,384 entries. -/
def HostPort.storeFull (h : HostPort) : Bool := 16384 ≤ h.store.length
/-- A dropped completion entry is counted in the held entry of kind 4 (R311). -/
def HostPort.loseOne (h : HostPort) : HostPort :=
  if h.hold.any fun e => entryKind e == 4 then
    { h with hold := h.hold.map fun e => if entryKind e = 4 then BitVec.ofNat 256 (e.toNat + 2 ^ 32) else e }
  else { h with hold := h.hold ++ [BitVec.ofNat 256 (4 + 2 ^ 32)] }
/-- The kept places take an entry of kind k, of which none waits in the store; a kind 3 has a place of its own. -/
def HostPort.takes (h : HostPort) (k : Nat) : Bool :=
  !(h.store.any fun e => entryKind e == k) && ((k == 3 && h.held (· == 3) == 0) || !h.keptFull)
/-- An entry of a kind that is never dropped: while the kept places are full it waits in the complex's store, a kind 3 beside one that holds its
own place too (log 66), and behind those of its kind. -/
def HostPort.keep (h : HostPort) (e : BitVec 256) : HostPort :=
  if h.takes (entryKind e) then { h with hold := h.hold ++ [e] } else { h with store := h.store ++ [e] }
/-- An event entry arises (R311): it is held until it is written. -/
def HostPort.post (h : HostPort) (e : BitVec 256) : HostPort :=
  match entryKind e with
  | 2 => if 960 ≤ h.held (· == 2) then h.loseOne else { h with hold := h.hold ++ [e] }
  | _ => h.keep e
/-- Stored entries move to places that have become free. -/
def HostPort.refill (h : HostPort) : HostPort := h.store.foldl HostPort.keep { h with store := [] }
def State.postEvent (s : State) (e : Nat) : State := { s with host := s.host.post (BitVec.ofNat 256 e) }
/-- The oldest held entry is written at EQTAIL mod size, and EQTAIL advances; MSI-X vector 0 is raised when the queue turns from
empty to non-empty (R311). Stored entries then take the places that are free. -/
def State.writeEvent (s : State) : Option State :=
  let h := s.host
  match h.hold with
  | [] => none
  | e :: rest =>
    if h.room = 0 then none
    else
      let s1 := s.hostWrite (h.eqbase.toNat / 64 * 64 + h.eqtail.toNat % h.ring * 32) e.toNat 32
      let h1 := { h with hold := rest, eqtail := h.eqtail + 1, msix := if h.eqtail = h.eqhead then Tab.put 0 (Tab.get 0 0 h.msix + 1) h.msix else h.msix }
      some { s1 with host := h1.refill }
/-- EVENT_QUEUE_WRITE (R311, R312). -/
def execEventQueueWrite (s : State) : Host.Outcome State Fault Refusal := stutter s s.writeEvent

/-! ## Accesses from outside -/

/-- The instruction of Table 9.6 that an operation is. -/
def atomicInstr : AtomicKind → Instr
  | .add => .aadd 0 0 0 false .relaxed .system .G | .and => .aand 0 0 0 false .relaxed .system .G | .or => .aor 0 0 0 false .relaxed .system .G
  | .xor => .axor 0 0 0 false .relaxed .system .G | .min => .amin 0 0 0 false .relaxed .system .G | .max => .amax 0 0 0 false .relaxed .system .G
  | .swp => .aswp 0 0 0 false .relaxed .system .G | .cas => .acas 0 0 0 false .relaxed .system .G
/-- Bytes that an access from outside reaches: no hole, no core behind a fence or outside the map, no peer without a port up (R301, R90, R313). -/
def State.remoteOk (s : State) (bytes : List Nat) : Bool :=
  bytes.all fun b => region b != .hole && !s.peerDown b && match tcmCore b with
    | some q => s.inMap q && !s.inFence q
    | none => true
/-- Bytes of an operation's access. -/
def remoteSize : RemoteOp → Nat
  | .read n | .write n _ => n.val
  | .atomic _ w _ _ _ => if w then 4 else 8
/-- An access of a SYSTEM-scope agent outside the package (Table 9.1) to the bytes, and what it returns: a load, an ordinary store, or an atomic at
the unit that holds the word (R201, R202); an uncorrectable word gives none of its bits, and no atomic stores there (R93, R201). DESIGN CHOICE
(log 77): what ends in an error returns 0. -/
def State.remote (s0 : State) (bytes : List Nat) (op : RemoteOp) : State × Nat :=
  if !s0.remoteOk bytes then (s0, 0)
  else
    let s := s0.metered bytes
    let old := s.readB bytes
    match op with
    | .read _ => (s, if (s.badIn bytes).isSome then 0 else old)
    | .write _ v => (s.storeAt bytes v.toNat false [] outsider, 0)
    | .atomic k w un v cmp =>
      let n := if w then 32 else 64
      if bytes.headD 0 % (n / 8) ≠ 0 || (s.badIn bytes).isSome then (s, 0)
      else
        let r := atomicNew (atomicInstr k) n un old (v.toNat % 2 ^ n) (cmp.toNat % 2 ^ n)
        (if r.2 then s.storeAt bytes r.1 true [] outsider else s, old)
/-- The physical byte of an offset in BAR2, where the supervisor has mapped it (R309). -/
def HostPort.bar2Byte (h : HostPort) (off : Nat) : Option Nat :=
  (h.bar2.find? fun e => e.1 ≤ off && off < e.1 + e.2.1).map fun e => e.2.2 + (off - e.1)
/-- A read or write of the host through BAR2 (R309): what it reads is returned to it; an offset without a mapping is not reached. -/
def State.bar2 (s : State) (off : Nat) (op : RemoteOp) : Option State :=
  match op, placeAll s.host.bar2Byte (span off (remoteSize op)) with
  | .atomic _ _ _ _ _, _ => none
  | _, none => none
  | .read n, some bytes =>
    let r := s.remote bytes (.read n)
    some { s with host := { s.host with readData := r.2 } }
  | op, some bytes => some (s.remote bytes op).1
/-- HOST_BAR2_ACCESS (R309). -/
def execHostBar2Access (off : BitVec 36) (op : RemoteOp) (s : State) : Host.Outcome State Fault Refusal := stutter s (s.bar2 off.toNat op)
/-- A request of peer p, served while some port is up (R313): the reply holds what a read or an atomic returns. A window of a peer is no memory of
this device. -/
def State.peerAccess (s : State) (p pa : Nat) (op : RemoteOp) : Option State :=
  let bytes := span pa (remoteSize op)
  if s.ports = 0 || !bytes.all (fun b => ownRegion b != .hole) then none
  else
    let r := s.remote bytes op
    some { r.1 with host := { r.1.host with peerData := match op with
      | .write _ _ => r.1.host.peerData
      | _ => Tab.put p r.2 r.1.host.peerData } }
/-- PEER_REQUEST (R313). -/
def execPeerRequest (p : Fin 64) (pa : Nat) (op : RemoteOp) (s : State) : Host.Outcome State Fault Refusal := stutter s (s.peerAccess p.val pa op)
/-- LINK_PORT_DOWN: requests go on over another port (R313). -/
def execLinkPortDown (p : Fin 16) (s : State) : Host.Outcome State Fault Refusal :=
  let up := s.ports &&& ~~~(BitVec.ofNat 16 (2 ^ p.val))
  .next { s with ports := up, portsDown := if s.ports != 0 && up == 0 then s.time else s.portsDown }
/-- LINK_PORT_UP (R313). -/
def execLinkPortUp (p : Fin 16) (s : State) : Host.Outcome State Fault Refusal :=
  .next { s with ports := s.ports ||| BitVec.ofNat 16 (2 ^ p.val) }

end Sys2Proof.Machine
end

