-- ==== Sys2Proof/Machine/EvSubmit.lean ====
section
/-!
DEFINITION. Launch packets: their fields and checks (R276, R277, R280), the taking of a submission (R310), refusals, and the
completion record (R288, R289, R312).
-/
namespace Sys2Proof.Machine

/-! ## Completion -/

/-- The completion status word (Table 16.5). -/
def Launch.status (l : Launch) : Nat := l.flags.toNat * 2 ^ 56 + l.count % 2 ^ 14 * 2 ^ 42 + l.first * 2 ^ 21 + l.last
/-- The 64 bytes of the completion record (R289) at fabric time `now`. -/
def Launch.record (l : Launch) (id now : Nat) : Nat :=
  let (rank, cause) := l.faultRank.getD (0, 0)
  l.status + 2 ^ 64 * (id % 2 ^ 32 + l.refused * 2 ^ 32 + l.tapeOut * 2 ^ 40) + 2 ^ 128 * (if l.released then l.releaseTime else 0)
    + 2 ^ 192 * (cause + rank * 2 ^ 32) + 2 ^ 256 * now
/-- What happens before the launch's completion record has `k` among it (R289). -/
def State.joinKnown (s : State) (id : Nat) (k : Known) : State :=
  match s.launch? id with
  | some l => s.setLaunch id { l with known := l.known.join k }
  | none => s
/-- A launch completes: its record is written as one store, a release at SYSTEM scope that covers every access of its members (R289), and its
completion entry follows (R312). Its barrier domains are free again. -/
def State.completeLaunch (s : State) (id : Nat) (l : Launch) : State :=
  let bytes := span l.complPa 64
  let s1 := s.storeAt bytes (l.record id s.time) false [{ bytes := bytes, core := 0, strand := 0, scope := .system, pending := [], known := l.known }] outsider
  let s2 := s1.setLaunch id { l with complete := true, err := l.flags.getLsbD 0 }
  let s3 : State := { s2 with domains := s2.domains.filter fun e => e.2.launch != some id }
  s3.postEvent (2 + id % 2 ^ 32 * 2 ^ 32 + l.status * 2 ^ 64 + l.packet.compl * 2 ^ 128)
/-- A launch is refused (R280): ERR, COUNT 0, and the code. -/
def State.refuseLaunch (s : State) (id : Nat) (l : Launch) (code : Nat) : State :=
  s.completeLaunch id { l with refused := code, flags := l.flags ||| 0x01#8 }

/-! ## The address space of a context -/

/-- A byte's physical address in a context's address space, with its rights (R276). -/
def Ctx.byte (k : Ctx) (acc : AccKind) (va : Nat) : Option Nat :=
  match k.pages.find? fun e => e.matches k.asid (va % 2 ^ 54) with
  | some e =>
    let pa := e.pa / pageBytes e.size * pageBytes e.size + va % pageBytes e.size
    if acc.allows e && region pa != .hole then some pa else none
  | none => none
def State.ctx (s : State) (k : Nat) : Ctx := Tab.get {} k s.ctxs
def State.setCtx (s : State) (k : Nat) (x : Ctx) : State := { s with ctxs := Tab.put k x s.ctxs }
/-- The charges of a resident part that is past join its context's account (R18), where the supervisor's table still has the context. -/
def State.account (s : State) (p : Part) : State :=
  let k := s.ctx p.ctx
  if Tab.has p.ctx s.ctxs then s.setCtx p.ctx { k with acct := k.acct + p.acctCyc.toNat, acctNj := k.acctNj + p.acctNj.toNat } else s
/-- n bytes as the launch engine reads them; none where one does not translate with read rights. -/
def State.ctxRead (s : State) (k va n : Nat) : Option Nat := (placeAll ((s.ctx k).byte .load) (span va n)).map s.readB

/-! ## Packets -/

/-- Bits [hi:lo] of the field at a byte offset. -/
def pfield (v off hi lo : Nat) : Nat := v / 2 ^ (8 * off + lo) % 2 ^ (hi + 1 - lo)
/-- The ones of a packet's field that Table 16.1 names. -/
def packetMask : List Nat :=
  [0xFFFFFFFFFC3F3FFF, 2 ^ 54 - 1, 2 ^ 54 - 1, 2 ^ 54 - 1, 2 ^ 48 - 1, 2 ^ 54 - 1, 2 ^ 48 - 1, 2 ^ 32 - 1, 2 ^ 64 - 1,
   0xF0001FFFF, 2 ^ 64 - 1, 2 ^ 16 - 1, 0x80000000FFFFFFFF, 0x80000000FFFFFFFF, 2 ^ 54 - 1, 0x00FFFFFF00FFFFFF]
def packetClean (v : Nat) : Bool := (span 0 16).all fun i =>
  let w := pfield v (8 * i) 63 0
  w &&& packetMask.getD i 0 == w
/-- A packet's fields (Table 16.1). -/
def Packet.ofBits (v : Nat) : Packet where
  version := pfield v 0 63 56
  sel := pfield v 0 55 52
  split := pfield v 0 51 50
  tape := pfield v 0 49 48
  tapeid := pfield v 0 47 36
  fallback := pfield v 0 35 35 == 1
  dual := pfield v 0 34 34 == 1
  steal := pfield v 0 33 33 == 1
  convoy := pfield v 0 32 32 == 1
  boost := pfield v 0 31 31 == 1
  prio := pfield v 0 30 28
  strands := pfield v 0 27 26
  queue := pfield v 0 21 16
  nent := pfield v 0 13 0
  image := pfield v 8 53 0
  arg := pfield v 16 53 0
  compl := pfield v 24 53 0
  n := pfield v 32 47 0
  mlist := pfield v 40 53 0
  minf := pfield v 48 15 0
  maxp := pfield v 48 31 16
  timeout := pfield v 48 47 32
  ydef := pfield v 56 31 0
  pseed := BitVec.ofNat 64 (pfield v 64 63 0)
  pbase := pfield v 72 16 0
  plog := pfield v 72 35 32
  cdom := BitVec.ofNat 16 (pfield v 80 15 0)
  cxch := BitVec.ofNat 16 (pfield v 80 31 16)
  ddom := BitVec.ofNat 16 (pfield v 80 47 32)
  dxch := BitVec.ofNat 16 (pfield v 80 63 48)
  pdom := BitVec.ofNat 16 (pfield v 88 15 0)
  dep0 := if pfield v 96 63 63 = 1 then some (pfield v 96 31 0) else none
  dep1 := if pfield v 104 63 63 = 1 then some (pfield v 104 31 0) else none
  expl := pfield v 112 53 0
  isize := pfield v 120 23 0
  entry := pfield v 120 55 32
  reservedZero := packetClean v

/-- The cores of a member-list entry with its stage (R277); none where it is malformed. DESIGN CHOICE (log 78): a bit that R277 does not name must
be 0. -/
def listEntry (w : Nat) : Option (List (Nat × Nat)) :=
  let stage := w / 2 ^ 48 % 16
  if w / 2 ^ 63 % 2 = 1 then
    if w &&& 0x800F000000001FFF = w then some [(w % 8192, stage)] else none
  else
    let d := w / 2 ^ 32 % 4
    let x0 := w / 2 ^ 24 % 64
    let y0 := w / 2 ^ 16 % 32
    let wd := w / 2 ^ 8 % 128
    let h := w % 64
    if w &&& 0x000F00033F1F7F3F = w && 1 ≤ wd && 1 ≤ h && x0 + wd ≤ 64 && y0 + h ≤ 32 then
      some ((span y0 h).flatMap fun y => (span x0 wd).map fun x => (coreAt d x y, stage))
    else none
/-- All entries of a list of words. -/
def listEntries : List Nat → Option (List (Nat × Nat))
  | [] => some []
  | w :: l =>
    match listEntry w, listEntries l with
    | some a, some b => some (a ++ b)
    | _, _ => none
/-- The 8-byte words of a number. -/
def words64 (v n : Nat) : List Nat := (span 0 n).map fun i => v / 2 ^ (64 * i) % 2 ^ 64
def noRepeat : List Nat → Bool
  | [] => true
  | a :: l => !l.contains a && noRepeat l
/-- The member list of a RECT or NAMED launch, in rank order: cores and stages; none where it is malformed. -/
def State.memberList (s : State) (ctx : Nat) (p : Packet) : Option (List (Nat × Nat)) :=
  match s.ctxRead ctx p.mlist (8 * p.nent) with
  | some v =>
    match listEntries (words64 v p.nent) with
    | some l => if noRepeat (l.map (·.1)) then some l else none
    | none => none
  | none => none
/-- The launch takes a member list. -/
def Packet.listed (p : Packet) : Bool := p.sel ≤ 1
/-- Member cores of a launch; none where the list is malformed. -/
def State.gangSize (s : State) (ctx : Nat) (p : Packet) : Option Nat :=
  if p.listed then (s.memberList ctx p).map (·.length) else some p.nent
/-- The shares of an EXPLICIT launch with EXPL ≠ 0 (R282). -/
def State.explicitShares (s : State) (ctx : Nat) (p : Packet) (g : Nat) : Option (List Nat) :=
  (s.ctxRead ctx p.expl (8 * g)).map fun v => words64 v g

/-- Code 1 of Table 16.2. -/
def State.malformed (s : State) (ctx : Nat) (p : Packet) : Bool :=
  let size := 2 ^ p.plog
  p.version != 1 || !p.reservedZero || 3 < p.sel || 2 < p.split || 2 < p.tape || p.nent < 1 || 8192 < p.nent
    || p.ydef < 256 || 2 ^ 31 < p.ydef || p.plog < 8 || 14 < p.plog || !pailPlaced p.pbase size || p.entry % 4 != 0 || p.isize ≤ p.entry
    || (p.steal && 2 ^ 32 ≤ p.n)
    || p.cxch &&& p.dxch != 0 || p.cxch &&& ~~~p.cdom != 0 || p.dxch &&& ~~~p.ddom != 0
    || (p.tape != 0 && p.strands != 0)
    || (p.dual && (p.cxch != 0 || p.dxch != 0 || p.tape != 0))
    || (s.ctxRead ctx p.image p.isize).isNone
    || (match s.gangSize ctx p with
        | none => true
        | some g => p.split == 2 && p.expl != 0 &&
            (match s.explicitShares ctx p g with
              | some l => l.foldl (· + ·) 0 != p.n
              | none => true))
/-- Whether a value passes a limit of the grant; an unset limit refuses nothing. -/
def beyond (limit : Option Nat) (v : Nat) : Bool := match limit with | some m => m < v | none => false
/-- Code 2 of Table 16.2. -/
def Grant.exceeded (g : Grant) (p : Packet) (cores : Nat) : Bool :=
  beyond g.cores cores || beyond g.minf p.minf || beyond g.maxp p.maxp || (p.boost && !g.boost) || beyond g.prio p.prio
    || (p.dual && !g.dual) || beyond g.strands (p.strands + 1)
/-- Cores of the map that FAST or FRUGAL could select. -/
def State.selectable (s : State) (p : Packet) (c : Nat) : Bool :=
  s.inMap c && (!p.dual || s.inMap (partnerOf c)) && (p.sel != 3 || p.minf ≤ curvef (s.core c).curve.cvf 950)
/-- Code 3 of Table 16.2. -/
def State.unavailable (s : State) (ctx : Nat) (p : Packet) : Bool :=
  if p.listed then
    match s.memberList ctx p with
    | some l => l.any fun e => !s.inMap e.1 || (p.dual && !s.inMap (partnerOf e.1))
    | none => false
  else ((span 0 8192).filter (s.selectable p)).length < p.nent
/-- The first failing check of codes 1 to 3; 0 for none. -/
def State.packetCode (s : State) (ctx : Nat) (p : Packet) : Nat :=
  if s.malformed ctx p then 1
  else if (s.ctx ctx).grant.exceeded p ((s.gangSize ctx p).getD 0) then 2
  else if s.unavailable ctx p then 3
  else 0

/-! ## Taking a submission -/

/-- The windows that a packet in device memory may lie in (R310). -/
def packetWindow (pa : Nat) : Bool :=
  match region pa with
  | .vat _ _ | .hbm _ | .lp6 _ => true
  | _ => false
/-- Why an entry is discarded before its packet's checks (R310); 0 for none. -/
def State.rejectReason (s : State) (sublo : Word) (rd : PacketRead) : Nat :=
  let a := sublo.toNat % 2 ^ 54
  let dev := sublo.getLsbD 63
  if sublo.toNat % 128 ≠ 0 then 1
  else if sublo.toNat / 2 ^ 54 % 512 ≠ 0 then 2
  else if dev && !(span a 128).all packetWindow then 3
  else
    match rd with
    | .readError => 4
    | .uncorrectable => 5
    | .ok => if dev && (s.badIn (span a 128)).isSome then 5 else 0
/-- COMPL's physical address (R280): aligned to 64, with write rights, in a vat or HBM4E. -/
def State.complAddr (s : State) (ctx : Nat) (p : Packet) : Option Nat :=
  match placeAll ((s.ctx ctx).byte .store) (span p.compl 64) with
  | some (a :: _) =>
    if p.compl % 64 ≠ 0 then none
    else
      match region a with
      | .vat _ _ | .hbm _ => some a
      | _ => none
  | _ => none
/-- A submission brings a context into being where its number has none: the records that an ended one has left in the task queues are gone (R246,
log 70). -/
def State.newContext (s : State) (k : Nat) : State :=
  if s.ctxLives k then s else { s with clusters := s.clusters.map fun e => (e.1, { e.2 with tasks := e.2.tasks.filter fun r => r.ctx != k }) }
/-- The active complex takes the FIFO's oldest entry, where there is a standby into whose tables it is copied too (R310): it is rejected through the event queue, refused through its
completion record, or queued. -/
def State.take (s : State) (rd : PacketRead) : Option State :=
  match s.host.fifo with
  | [] => none
  | (sublo, ctx, q) :: rest =>
    if s.control.step != 7 || !s.control.standby || 8192 < s.host.store.length then none
    else
      let s0 : State := { s with host := { s.host with fifo := rest } }
      let reject (r : Nat) : State :=
        s0.postEvent (5 + q.toNat * 2 ^ 8 + ctx.toNat * 2 ^ 40 + r * 2 ^ 56 + sublo.toNat * 2 ^ 64)
      let r := s.rejectReason sublo rd
      if r ≠ 0 then some (reject r)
      else
        let a := sublo.toNat % 2 ^ 54
        let v := if sublo.getLsbD 63 then s.readN a 128 else s.hostRead a 128
        let p := Packet.ofBits v
        match s.complAddr ctx.toNat p with
        | none => some (reject 6)
        | some pa =>
          let id := s.nextLaunch
          let shares := if p.split = 2 then (s.gangSize ctx.toNat p).bind (s.explicitShares ctx.toNat p) else none
          let l : Launch := { ctx := ctx.toNat, packet := p, complPa := pa, shares := shares.getD [] }
          let s1 : State := { s0.newContext ctx.toNat with nextLaunch := id + 1 }
          match s.packetCode ctx.toNat p with
          | 0 =>
            let k := s1.ctx ctx.toNat
            some ((s1.setLaunch id l).setCtx ctx.toNat { k with queue := k.queue ++ [id] })
          | code => some (s1.refuseLaunch id l code)
/-- SUBMISSION_TAKE (R310, R280). -/
def execSubmissionTake (rd : PacketRead) (s : State) : Host.Outcome State Fault Refusal := stutter s (s.take rd)

end Sys2Proof.Machine
end

