-- ==== Sys2Proof/Machine/EvLaunch.lean ====
section
/-!
DEFINITION. Release of gangs: scheduling order (R290), selection (R281), splits (R17, R282, R284), what a member holds at
release (R278, R279), tapes at release (R238, R241, R243).
-/
namespace Sys2Proof.Machine

/-! ## Free cores and selection -/

/-- 24 hours of fabric time. -/
def day : Nat := 172800000000000
/-- Fabric time at which core c last passed the in-field pattern (R306, R316). -/
def State.lastPass (s : State) (c : Nat) : Option Nat :=
  let t := (s.core c).test
  if t.passed then some t.lastPass else s.control.swept
/-- Core c has passed the pattern within 24 hours, or the fabric time is not yet so long (R306). -/
def State.inTerm (s : State) (c : Nat) : Bool := s.time < (s.lastPass c).getD 0 + day
/-- A free core (R281, R306): in the map, no member on it, in no test and no rectangle, not held out, with strands enough. -/
def State.isFree (s : State) (need c : Nat) : Bool :=
  let k := s.core c
  s.inMap c && !k.part.occupied && !k.test.testing && !k.test.heldOut && s.inTerm c && need ≤ k.test.strands.length
    && !s.rects.any fun e => e.2.has c
/-- A free core with, for DUAL, a free partner (R303). -/
def State.placeable (s : State) (p : Packet) (c : Nat) : Bool :=
  s.isFree (p.strands + 1) c && (!p.dual || s.isFree (p.strands + 1) (partnerOf c))
/-- Insertion by a key, ties to the lower core. -/
def insertKey (x : Nat × Nat) : List (Nat × Nat) → List (Nat × Nat)
  | [] => [x]
  | y :: l => if x.1 < y.1 || (x.1 == y.1 && x.2 < y.2) then x :: y :: l else y :: insertKey x l
def sortKeys (l : List (Nat × Nat)) : List Nat := (l.foldl (fun acc x => insertKey x acc) []).map (·.2)
/-- The cores of a DUAL launch's picks, in order, without those that an earlier pick's partner takes. -/
def skipPartners (taken : List Nat) : List Nat → List Nat
  | [] => []
  | c :: l => if taken.contains c then skipPartners taken l else c :: skipPartners (partnerOf c :: taken) l
/-- FRUGAL takes a core only with CFREQ ≥ MINF (R281). -/
def Packet.qualifies (p : Packet) (k : Core) : Bool := p.sel != 3 || p.minf ≤ k.curve.cfreq
/-- The order of FAST, falling CSPEED, and of FRUGAL, rising CLEAK (R281). -/
def Packet.selKey (p : Packet) (k : Core) : Nat := if p.sel = 2 then 65536 - k.curve.speed else k.curve.cleak
/-- The free cores that a FAST or FRUGAL launch selects from, in the order of its selection rule (R281). DESIGN CHOICE (log 79): of a DUAL launch a core
that an earlier one takes for its partner is passed over. -/
def State.candidates (s : State) (p : Packet) : List Nat :=
  let free := (span 0 8192).filter fun c => s.isFree (p.strands + 1) c && p.qualifies (s.core c)
  let order := sortKeys (free.map fun c => (p.selKey (s.core c), c))
  if p.dual then skipPartners [] order else order
/-- The members that a launch's selection names, in rank order with their stages (R281): its list, or the first of the free cores that it can take;
none where the list cannot be read or free cores are too few. -/
def State.named (s : State) (l : Launch) : Option (List (Nat × Nat)) :=
  let p := l.packet
  if p.listed then s.memberList l.ctx p
  else
    let order := s.candidates p
    if order.length < p.nent then none else some ((order.take p.nent).map fun c => (c, 0))
/-- The members of a launch; none while they cannot all be placed. -/
def State.pick (s : State) (l : Launch) : Option (List (Nat × Nat)) :=
  match s.named l with
  | some m => if m.all fun e => s.placeable l.packet e.1 then some m else none
  | none => none
/-- The domains that a launch would be assigned with these members (R211, R278): level, number, key, masks by cluster. -/
def Packet.domains (p : Packet) (cores : List Nat) : List (BLevel × Nat × Nat × Tab (BitVec 32)) :=
  let cls := (cores.map clusterOf).eraseDups
  let mask (cl : Nat) : BitVec 32 := (cores.filter fun c => clusterOf c == cl).foldl (fun m c => m ||| BitVec.ofNat 32 (2 ^ (c % 32))) 0
  let table (l : List Nat) : Tab (BitVec 32) := l.foldl (fun t cl => Tab.put cl (mask cl) t) []
  let nums (b : BitVec 16) : List Nat := (span 0 16).filter fun k => b.getLsbD k
  ((nums p.cdom).flatMap fun k => cls.map fun cl => (.cluster, k, domKey .cluster cl k, table [cl]))
    ++ ((nums p.ddom).flatMap fun k => (cls.map (· / 64)).eraseDups.map fun d =>
          (.die, k, domKey .die d k, table (cls.filter fun cl => cl / 64 == d)))
    ++ (nums p.pdom).map fun k => (.package, k, domKey .package 0 k, table cls)
/-- No other launch holds a domain that the launch would be assigned. -/
def State.domainsFree (s : State) (p : Packet) (cores : List Nat) : Bool :=
  (p.domains cores).all fun e => (s.domain e.2.2.1).launch.isNone

/-! ## Scheduling order -/

/-- A dependence of the launch has completed (R290). -/
def State.depDone (s : State) (d : Option Nat) : Bool :=
  match d with
  | some i => (match s.launch? i with | some l => l.complete | none => false)
  | none => true
def State.depFailed (s : State) (d : Option Nat) : Bool :=
  match d with
  | some i => (match s.launch? i with | some l => l.complete && l.err | none => false)
  | none => false
/-- Eligible (R290): every dependence has completed, and the queue holds no earlier launch. -/
def State.eligibleLaunch (s : State) (id : Nat) (l : Launch) : Bool :=
  !l.released && !l.complete && s.depDone l.packet.dep0 && s.depDone l.packet.dep1
    && (s.ctx l.ctx).queue.all fun j => id ≤ j || (match s.launch? j with | some x => x.packet.queue != l.packet.queue | none => true)
/-- A context's clocked cycles, over all its parts past and present (R18). -/
def State.charged (s : State) (k : Nat) : Nat :=
  (s.ctx k).acct + (s.cores.foldl (fun n e => if e.2.part.occupied && e.2.part.ctx == k then n + e.2.part.acctCyc.toNat else n) 0)
    + s.images.foldl (fun n e => if e.2.restored.isNone && e.2.part.ctx == k then n + e.2.part.acctCyc.toNat else n) 0
/-- Launch a comes before launch b (R290): priority, charge against share, the context's queues in turn, submission. DESIGN CHOICE (log 28):
of two contexts of equal priority and equal ratio, on which R18 and R290 name no order, the one of lower number comes first, ahead of
submission order. -/
def State.before (s : State) (a b : Nat × Launch) : Bool :=
  let ka := s.ctx a.2.ctx
  let kb := s.ctx b.2.ctx
  let ra := s.charged a.2.ctx * kb.grant.share
  let rb := s.charged b.2.ctx * ka.grant.share
  let turn (k : Ctx) (l : Launch) : Nat := (l.packet.queue + 63 - k.lastQueue) % 64
  if a.2.packet.prio ≠ b.2.packet.prio then b.2.packet.prio < a.2.packet.prio
  else if a.2.ctx ≠ b.2.ctx then ra < rb || (ra == rb && a.2.ctx < b.2.ctx)
  else if turn ka a.2 ≠ turn kb b.2 then turn ka a.2 < turn kb b.2
  else a.1 < b.1
/-- Eligible launches whose whole gang can be placed. -/
def State.ready (s : State) : List (Nat × Launch) :=
  s.launches.filter fun e => s.eligibleLaunch e.1 e.2 &&
    match s.pick e.2 with
    | some m => s.domainsFree e.2.packet (m.map (·.1))
    | none => false
/-- The launch that the scheduler releases next. -/
def State.nextRelease (s : State) : Option Nat :=
  (s.ready.foldl (fun best e => match best with
    | none => some e
    | some b => if s.before e b then some e else some b) none).map (·.1)

/-- Part a is marked for switching before part b (R290): the lower priority, then the larger ratio of charge to share, then the lower core. -/
def State.markedBefore (s : State) (a b : Nat × Core) : Bool :=
  let prio (k : Core) : Nat := match s.launch? k.part.launch with | some x => x.packet.prio | none => 0
  let ratio (x y : Core) : Nat := s.charged x.part.ctx * (s.ctx y.part.ctx).grant.share
  if prio a.2 ≠ prio b.2 then prio a.2 < prio b.2
  else if ratio a.2 b.2 ≠ ratio b.2 a.2 then ratio b.2 a.2 < ratio a.2 b.2
  else a.1 < b.1
def insertBy {α : Type} (lt : α → α → Bool) (x : α) : List α → List α
  | [] => [x]
  | y :: l => if lt x y then x :: y :: l else y :: insertBy lt x l
/-- The cores that a listed launch names, partners of a DUAL one with them. -/
def Packet.gang (p : Packet) (cores : List Nat) : List Nat := cores.flatMap fun c => if p.dual then [c, partnerOf c] else [c]
/-- The parts that a launch of higher priority would displace, in order (R290); a DUAL pair by either of its cores (R303). -/
def State.victims (s : State) (l : Launch) : List Nat :=
  let list := (l.packet.gang (((s.memberList l.ctx l.packet).getD []).map (·.1))).map s.primaryOf
  let low := s.cores.filter fun e => e.2.part.occupied && !e.2.part.mirror
    && (match s.launch? e.2.part.launch with | some x => x.packet.prio < l.packet.prio | none => false)
    && (if l.packet.listed then list.contains e.1 else l.packet.qualifies e.2)
  (low.foldl (fun acc x => insertBy s.markedBefore x acc) []).map (·.1)
/-- An eligible launch that finds too few free cores marks parts for switching (R290, R258); none where nothing changes. -/
def State.markFor (s : State) (l : Launch) : Option State :=
  match s.pick l with
  | some _ => none
  | none =>
    let need := if l.packet.listed then 8192 else (l.packet.nent - (s.candidates l.packet).length) * (if l.packet.dual then 2 else 1)
    let v := ((s.victims l).take need).filter fun c => !(s.core c).part.marked
    if v.isEmpty then none else some (v.foldl (fun s c => s.setPart c { (s.core c).part with marked := true }) s)

/-! ## Splits -/

/-- Rank j comes before rank i for an item left over (R17): larger remainder, larger speed, lower rank. -/
def leftFirst (rem sp : List Nat) (j i : Nat) : Bool :=
  let rj := rem.getD j 0
  let ri := rem.getD i 0
  let sj := sp.getD j 0
  let si := sp.getD i 0
  ri < rj || (ri == rj && (si < sj || (si == sj && j < i)))
/-- Running sums. -/
def runSums (acc : Nat) : List Nat → List Nat
  | [] => []
  | x :: l => acc :: runSums (acc + x) l
/-- SHARE and OFFSET by rank for speeds `sp` (R17). -/
def speedSplit (n : Nat) (sp : List Nat) : List (Nat × Nat) :=
  let sp := if sp.foldl (· + ·) 0 = 0 then sp.map fun _ => 1 else sp
  let total := sp.foldl (· + ·) 0
  let base := sp.map fun x => n * x / total
  let rem := sp.map fun x => n * x % total
  let left := n - base.foldl (· + ·) 0
  let idx := span 0 sp.length
  let shares := idx.map fun i => base.getD i 0 + (if (idx.filter fun j => leftFirst rem sp j i).length < left then 1 else 0)
  shares.zip (runSums 0 shares)
/-- The dies of a gang in increasing number. -/
def diesOf (cores : List Nat) : List Nat := [0, 1, 2, 3].filter fun d => cores.any fun c => dieOf c == d
/-- The launch divides its items by dies (R284). -/
def Packet.steals (p : Packet) : Bool := p.steal && p.split == 1
/-- SHARE and OFFSET of each member by rank (R282, R284), from the sampled speeds; EXPLICIT shares are those whose sum was checked. -/
def Launch.splitOf (l : Launch) (cores speeds : List Nat) : List (Nat × Nat) :=
  let p := l.packet
  match p.split with
  | 1 =>
    if p.steals then
      let ds := diesOf cores
      let sums := ds.map fun d => ((cores.zip speeds).filter fun e => dieOf e.1 == d).foldl (fun n e => n + e.2) 0
      let sp := ds.zip (speedSplit p.n sums)
      cores.map fun c => ((sp.find? fun e => e.1 == dieOf c).map (·.2)).getD (0, 0)
    else speedSplit p.n speeds
  | 0 => speedSplit p.n (speeds.map fun _ => 1)
  | _ =>
    if p.expl = 0 then cores.map fun _ => (0, 0)
    else
      let shares := (span 0 cores.length).map fun r => l.shares.getD r 0
      shares.zip (runSums 0 shares)
/-- Where the range word of a die lies (R284): downwards from the top of the die's vat, by slots that live launches do not share (log 46).
DESIGN CHOICE (log 46): RANGEP and the engine name it by its physical address. -/
def rangeWord (slot d : Nat) : Nat := 0x44000000 + d * 0x4000000 - 8 * (slot + 1)
/-- The first slot that no stealing launch at work has. -/
def State.freeSlot (s : State) : Nat :=
  let used := (s.launches.filter fun e => e.2.released && !e.2.complete && e.2.packet.steals).map (·.2.rangeSlot)
  ((span 0 (used.length + 1)).find? fun k => !used.contains k).getD 0

/-! ## Image sections -/

/-- The bytes of a launch's program image, lowest first. -/
def State.imageOf (s : State) (l : Launch) : Nat := (s.ctxRead l.ctx l.packet.image l.packet.isize).getD 0
/-- n bytes of an image from an offset on; zeros beyond its end. -/
def imageAt (img off n : Nat) : Nat := img / 2 ^ (8 * off) % 2 ^ (8 * n)
/-- The bits of an XSRCENT entry that are not reserved (Table 8.9). -/
def xsrcMask : Nat := 0x800F07FF
/-- The exchange source table of a rank in an image (R329, R332): zeros beyond the section's end; reserved bits read 0 (R6). -/
def xsrcOf (img rank : Nat) : Tab (BitVec 32) :=
  let x := imageAt img 24 8
  if x / 2 ^ 32 ≤ rank then []
  else
    let v := imageAt img (x % 2 ^ 32 + 128 * rank) 128
    (span 0 32).map fun e => (e, BitVec.ofNat 32 (v / 2 ^ (32 * e) &&& xsrcMask))
/-- The schedule table of a rank in an image (R245, R332). -/
def schedOf (img rank : Nat) : List Word :=
  let x := imageAt img 32 8
  if x / 2 ^ 32 ≤ rank then []
  else
    let w := imageAt img (x % 2 ^ 32 + 8 * rank) 8
    let n := w / 2 ^ 32 % 1024
    (words64 (imageAt img (w % 2 ^ 32) (8 * n)) n).map (BitVec.ofNat 64)

/-! ## What a member holds at release -/

/-- Strand t of the member of a rank at release (R279). -/
def Launch.strandAt (l : Launch) (asid : BitVec 16) (id rank stage t gsize : Nat) (sh : Nat × Nat) (gspeed rangep : Nat) : Strand :=
  let p := l.packet
  { pc := BitVec.ofNat 54 (p.image + p.entry), npc := BitVec.ofNat 54 (p.image + p.entry), status := .running
    x := [(30, { val := wordOf Config.taskExit }), (31, { val := BitVec.ofNat 64 (0x16000 - 0x800 * t) })]
    stat := { sup := false }
    ybound := BitVec.ofNat 32 p.ydef, ydefault := BitVec.ofNat 32 p.ydef
    seed := p.pseed ^^^ BitVec.ofNat 64 (4 * rank + t)
    regs := {
      rank := BitVec.ofNat 32 rank, gsize := BitVec.ofNat 32 gsize, stage := BitVec.ofNat 4 stage
      share := BitVec.ofNat 48 sh.1, offset := BitVec.ofNat 48 sh.2, gspeed := BitVec.ofNat 32 gspeed
      argbase := BitVec.ofNat 54 p.arg, launchid := BitVec.ofNat 32 id, ctxid := BitVec.ofNat 32 l.ctx, asid := asid
      rangep := BitVec.ofNat 54 rangep, fvec := Config.monitorEntry ++ 0#2 } }
/-- The resident part of a member at release on core c, whose usable strands it takes in increasing number; its core's own registers
apart. -/
def State.partAt (s : State) (l : Launch) (id c rank stage gsize : Nat) (sh : Nat × Nat) (gspeed rangep : Nat) (tape : TapeState)
    (partner : Option Nat) : Part :=
  let p := l.packet
  let img := Tab.get 0 (dieOf c) l.copies
  { resident := true, ctx := l.ctx, launch := id, rank := rank, nstr := p.strands + 1
    strands := ((s.core c).test.strands.take (p.strands + 1)).map fun t =>
      (t, l.strandAt (s.ctx l.ctx).asid id rank stage t gsize sh gspeed rangep)
    pailBase := BitVec.ofNat 17 p.pbase, pailSize := BitVec.ofNat 15 (2 ^ p.plog)
    sched := schedOf img rank, xsrc := xsrcOf img rank, xdomsClu := p.cxch, xdomsDie := p.dxch, tape := tape, partner := partner }
/-- A pending raise of a core's curve is applied before its speed is sampled (R15), at the voltage that its clock runs for (R13). -/
def State.applyRaise (s : State) (c : Nat) : State :=
  match (s.core c).curve.raise_ with
  | some (f, l) =>
    let s1 := s.onCurve c fun k =>
      { (({ k with cvf := f, cvl := l, raise_ := none } : Curve).releak (s.cvolt c)) with
        cgen := k.cgen + 1, cfreq := curvef f (s.rail (quadOf c)).clockVolt }
    (s1.capLanes c).rematch c
  | none => s
/-- Writes a member's part and its core's registers (R278 steps 2 and 4): the decode table is the identity ramp until the first DTLOAD (R85), no
lane cap holds the core (R110), and it has fetched nothing yet (log 29). -/
def State.placeMember (s : State) (c : Nat) (part : Part) : State :=
  let k := s.core c
  ((s.setCore c { k with part := part, exch := {}, effects := [], last := 3, dtab := none }).flushAll c).liftCap c
/-- The launch's domains with their masks, which the members' BD selectors show (R211, R278 step 4). -/
def State.placeDomains (s : State) (id : Nat) (p : Packet) (cores : List Nat) : State :=
  (p.domains cores).foldl (fun s e =>
    let (lv, k, key, masks) := e
    let x := match lv with | .cluster => p.cxch.getLsbD k | .die => p.dxch.getLsbD k | .package => false
    s.setDomain key { launch := some id, masks := masks, exch := x }) s
/-- Convoys of a quad and stage (R287): the member of lowest rank leads; the others' strands follow it. -/
def State.formConvoys (s : State) (members : List (Nat × Nat)) : State :=
  members.foldl (fun s e =>
    match (members.takeWhile (· != e)).find? fun f => quadOf f.1 == quadOf e.1 && f.2 == e.2 with
    | none => s
    | some f =>
      let p := (s.core e.1).part
      s.setPart e.1 { p with strands := p.strands.map fun x => (x.1, { x.2 with stat := { x.2.stat with slave := true }, leader := f.1 }) }) s
/-- The range words of a STEAL launch (R284), one for each die with members, from the shares that the members hold. -/
def State.placeRanges (s : State) (slot : Nat) (cores : List Nat) (sp : List (Nat × Nat)) : State :=
  (diesOf cores).foldl (fun s d =>
    match (cores.zip sp).find? fun e => dieOf e.1 == d with
    | some (_, sh) => s.storeAt (span (rangeWord slot d) 8) (sh.2 % 2 ^ 32 + (sh.2 + sh.1) % 2 ^ 32 * 2 ^ 32) false [] outsider
    | none => s) s

/-! ## Tapes at release -/

def bytesOf (n : Nat) : Nat → List (BitVec 8)
  | 0 => []
  | k + 1 => BitVec.ofNat 8 n :: bytesOf (n / 256) k
/-- The hash of the program image (Table 12.10). -/
def State.imageHash (s : State) (l : Launch) : BitVec 64 :=
  Config.tapeHash (bytesOf (s.imageOf l) l.packet.isize)
/-- The bytes of the identity ramp (R85). -/
def rampBytes : List (BitVec 8) := (span 0 256).flatMap fun k => bytesOf (rampEntry k) 4
/-- The hash of the table that is in force at release, the identity ramp (R85, Table 12.10). -/
def rampHash : BitVec 64 := Config.tapeHash rampBytes
/-- The hash of a core's decode table, 1,024 bytes (Table 12.10). -/
def Core.tableHash (k : Core) : BitVec 64 := Config.tapeHash (match k.dtab with | some b => bytesOf b.toNat 1024 | none => rampBytes)
/-- The hash of the gang's shape (Table 12.10). -/
def State.shapeHash (s : State) (l : Launch) (members : List (Nat × Nat)) : BitVec 64 :=
  let p := l.packet
  let img := s.imageOf l
  let tables := (span 0 members.length).flatMap fun r =>
    ((xsrcOf img r).flatMap fun e => bytesOf e.2.toNat 4) ++ ((schedOf img r).flatMap fun w => bytesOf w.toNat 8)
  let map := ((span 0 8192).filter fun c => !s.inMap c).flatMap fun c => bytesOf c 2
  Config.tapeHash ((members.flatMap fun e => bytesOf e.1 2 ++ bytesOf e.2 1) ++ bytesOf p.split 1 ++ bytesOf p.n 6
    ++ bytesOf (p.cdom.toNat + p.ddom.toNat * 2 ^ 16 + p.pdom.toNat * 2 ^ 32 + p.cxch.toNat * 2 ^ 48) 8 ++ bytesOf p.dxch.toNat 2
    ++ bytesOf (p.pbase + p.plog * 2 ^ 24) 4 ++ tables ++ map)
def splitHashOf (sp : List (Nat × Nat)) : BitVec 64 := Config.tapeHash (sp.flatMap fun e => bytesOf e.1 6 ++ bytesOf e.2 6)
/-- The tape that a RECORD release begins (R241). -/
def State.newTape (s : State) (l : Launch) (members : List (Nat × Nat)) (sp : List (Nat × Nat)) : Tape :=
  { image := s.imageHash l, shape := s.shapeHash l members, splitHash := splitHashOf sp, segs := [] }
/-- The largest recorded LANES value of a segment. -/
def TapeSeg.lanes (g : TapeSeg) : Nat := g.recs.foldl (fun m r => if r.header.toNat % 256 = 6 then Nat.max m r.value.toNat else m) 0
/-- The argument words that a segment's guards and slots name. -/
def TapeSeg.args (g : TapeSeg) : List Nat := (g.guards.map (·.1) ++ g.slots.map (·.1)).eraseDups
/-- A page's entry is malformed (R268). -/
def TlbEntry.malformed (e : TlbEntry) : Bool := 3 ≤ e.size || e.va % pageBytes e.size != 0 || e.pa % pageBytes e.size != 0
/-- An argument word as the launch engine reads it for the member on core c (R243): its value, or the cause of a load in mode G: no mapping
or a hole, a right that is lacking, a malformed entry, a TSC out of service, an uncorrectable word (R90, R267, R268; log 28). -/
def State.argRead (s : State) (l : Launch) (c i : Nat) : Nat ⊕ Nat :=
  let va := l.packet.arg + 8 * i
  let k := s.ctx l.ctx
  if (s.cluster (clusterOf c)).tscDown then .inr 0x1B
  else
    match (span va 8).findSome? fun a => k.pages.find? fun e => e.matches k.asid (a % 2 ^ 54) && (e.malformed || !e.r) with
    | some e => .inr (if e.malformed then 0x1A else 0x12)
    | none =>
      match placeAll (k.byte .load) (span va 8) with
      | some bytes => if (s.badIn bytes).isSome then .inr 0x1E else .inl (s.readB bytes)
      | none => .inr 0x11
/-- The argument words that a replaying member's guards and slots name, as read at release. -/
def State.argsOf (s : State) (l : Launch) (c : Nat) (g : TapeSeg) : Tab Word :=
  g.args.map fun i => (i, match s.argRead l c i with | .inl v => BitVec.ofNat 64 v | .inr _ => 0)
/-- The checks of R243 in order: the cause of the first that fails, none where the tape may be replayed. -/
def State.replayCause (s : State) (l : Launch) (members : List (Nat × Nat)) (fresh : List (Nat × Nat)) : Option Nat :=
  match (s.ctx l.ctx).tapes.find? fun e => e.1 == l.packet.tapeid with
  | none => some 0x34
  | some (_, t) =>
    let ranked := (span 0 members.length).zip members
    let seg (r : Nat) : TapeSeg := Tab.get {} r t.segs
    let drift := l.packet.split == 1 && (ranked.any fun e => (s.core e.2.1).curve.cgen != (seg e.1).cgen) && splitHashOf fresh != t.splitHash
    if t.image != s.imageHash l || t.shape != s.shapeHash l members || drift
        || (ranked.any fun e => rampHash != (seg e.1).dtab) then some 0x34
    else
      let args := ranked.flatMap fun e => (seg e.1).args.map fun i => (e.2.1, i)
      let bad := args.findSome? fun a => match s.argRead l a.1 a.2 with | .inr c => some c | .inl _ => none
      if bad.isSome then bad
      else
        let wrong := ranked.any fun e => (seg e.1).guards.any fun g =>
          match s.argRead l e.2.1 g.1 with | .inl v => BitVec.ofNat 64 v != g.2 | .inr _ => true
        let lanes := ranked.any fun e => (s.eligible (octetOf e.2.1) (s.core e.2.1).curve.target).length < (seg e.1).lanes
        if wrong || lanes then some 0x32 else none

/-! ## Release -/

/-- Member segments in the vat tape area: of stored tapes and of launches that are recording and were given some (R238). -/
def State.tapeSegs (s : State) : Nat :=
  s.ctxs.foldl (fun n e => e.2.tapes.foldl (fun n t => n + t.2.segs.length) n) 0
    + s.launches.foldl (fun n e => if e.2.released && !e.2.complete then n + e.2.segsHeld else n) 0
/-- The tape area has room for n more segments, once the tape under the identifier that a recording invalidates is gone. -/
def State.tapeRoom (s : State) (ctx tapeid n : Nat) : Bool :=
  let old := match (s.ctx ctx).tapes.find? fun e => e.1 == tapeid with | some (_, t) => t.segs.length | none => 0
  s.control.tapeArea.all fun room => s.tapeSegs - old + n ≤ room
/-- The split, the speed sum and the segment that each rank's tape holds or begins; by rank. -/
structure ReleasePlan where
  share : Nat × Nat
  gspeed : Nat
  tape : TapeState
/-- What each member is given at release (R17, R238, R243): a replaying member its recorded SHARE, OFFSET and GSPEED, its segment and the
argument words as read. -/
def State.plan (s : State) (l : Launch) (members : List (Nat × Nat)) (mode : Nat) : List ReleasePlan :=
  let p := l.packet
  let cores := members.map (·.1)
  let speeds := cores.map fun c => (s.core c).curve.speed
  let gspeed := speeds.foldl (· + ·) 0
  let stored := Tab.get { image := 0, shape := 0, splitHash := 0, segs := [] } p.tapeid (s.ctx l.ctx).tapes
  let base : TapeState := { mode := BitVec.ofNat 2 mode, id := BitVec.ofNat 12 p.tapeid, fbk := p.fallback }
  ((span 0 members.length).zip (cores.zip (l.splitOf cores speeds))).map fun e =>
    let (r, c, sh) := e
    let old := Tab.get {} r stored.segs
    if mode = 2 then { share := (old.share, old.offset), gspeed := old.gspeed, tape := { base with seg := old, args := s.argsOf l c old } }
    else
      let seg : TapeSeg := { share := sh.1, offset := sh.2, gspeed := gspeed, cgen := (s.core c).curve.cgen, dtab := rampHash }
      { share := sh, gspeed := gspeed
        tape := if mode = 0 then {} else { base with seg := seg, abandon := !s.tapeRoom l.ctx p.tapeid members.length } }
/-- Releases the members with a tape mode (R278, R279): every strand's first bundle may issue from this fabric time on. -/
def State.releaseGang (s : State) (id : Nat) (l0 : Launch) (members : List (Nat × Nat)) (mode : Nat) (fell : Bool) : State :=
  let p := l0.packet
  let cores := members.map (·.1)
  let img := s.imageOf l0
  let l : Launch := { l0 with copies := (diesOf cores).map fun d => (d, img), rangeSlot := s.freeSlot }
  let plan := s.plan l members mode
  let partner (c : Nat) : Option Nat := if p.dual then some (partnerOf c) else none
  let s1 := ((span 0 members.length).zip (members.zip plan)).foldl (fun st e =>
    let (r, (c, stage), g) := e
    let rangep := if p.steals then rangeWord l.rangeSlot (dieOf c) else 0
    let st1 := st.placeMember c (s.partAt l id c r stage members.length g.share g.gspeed rangep g.tape (partner c))
    match partner c with
    | some q => st1.placeMember q { resident := true, mirror := true, ctx := l.ctx, launch := id, rank := r, partner := some c }
    | none => st1) s
  let s2 := s1.placeDomains id p cores
  let s3 := if p.convoy then s2.formConvoys members else s2
  let s4 := if p.steals then s3.placeRanges l.rangeSlot cores (plan.map (·.share)) else s3
  let s5 := cores.foldl State.rematch s4
  let mem : List Member := members.map fun e => { core := e.1, stage := e.2, partner := partner e.1, seqStart := (s.core e.1).seqNo }
  let k := s5.ctx l.ctx
  let tapes := if mode = 1 then Tab.erase p.tapeid k.tapes else k.tapes
  let s6 := s5.setCtx l.ctx { k with queue := k.queue.filter (· != id), lastQueue := p.queue, tapes := tapes }
  s6.setLaunch id { l with
    released := true, releaseTime := s.time, members := mem, fellBack := fell
    dies := if p.steals then diesOf cores else []
    segsHeld := if mode = 1 && s.tapeRoom l.ctx p.tapeid members.length then members.length else 0
    tape0 := if mode = 1 then some (s.newTape l members (plan.map (·.share))) else none
    tapeOut := if mode = 2 then 3 else 0 }
/-- A replay that fails at release without FALLBACK completes at once with the cause (R243). -/
def State.failReplay (s : State) (id : Nat) (l : Launch) (cause : Nat) : State :=
  let k := s.ctx l.ctx
  (s.setCtx l.ctx { k with queue := k.queue.filter (· != id) }).completeLaunch id
    { l with flags := l.flags ||| 0x01#8, faultRank := some (0, cause) }
/-- A member of a DUAL launch finds its partner not free (R303): absent, held by another, or a member itself. -/
def State.partnerGone (s : State) (l : Launch) : Bool :=
  let list := ((s.named l).getD []).map (·.1)
  let need := l.packet.strands + 1
  l.packet.dual && list.any fun c => list.contains (partnerOf c) || (s.isFree need c && !s.isFree need (partnerOf c))
/-- The release of a launch (R278, R290): a failed dependence or a vanished core refuses it (R280); a lack of free cores marks
others for switching; else its whole gang is released at once. -/
def State.release (s : State) (id : Nat) : Option State :=
  match s.launch? id with
  | none => none
  | some l =>
    let dequeue (s : State) : State :=
      let k := s.ctx l.ctx
      s.setCtx l.ctx { k with queue := k.queue.filter (· != id) }
    if s.control.step != 7 || s.control.stopped || !s.eligibleLaunch id l then none
    else if s.unavailable l.ctx l.packet then some ((dequeue s).refuseLaunch id l 3)
    else if s.partnerGone l then some ((dequeue s).refuseLaunch id l 3)
    else if s.depFailed l.packet.dep0 || s.depFailed l.packet.dep1 then some ((dequeue s).refuseLaunch id l 4)
    else if s.nextRelease != some id then s.markFor l
    else
      match s.pick l with
      | none => none
      | some members =>
        let s1 := (l.packet.gang (members.map (·.1))).foldl State.applyRaise s
        if l.restart then some (s1.releaseGang id { l with restart := false } members 1 true)
        else if l.packet.tape = 2 then
          let cores := members.map (·.1)
          match s1.replayCause l members (l.splitOf cores (cores.map fun c => (s1.core c).curve.speed)) with
          | none => some (s1.releaseGang id l members 2 false)
          | some cause => if l.packet.fallback then some (s1.releaseGang id l members 1 true) else some (s1.failReplay id l cause)
        else some (s1.releaseGang id l members l.packet.tape false)
end Sys2Proof.Machine
end

