-- ==== Sys2Proof/Machine/EvTask.lean ====
section
/-!
DEFINITION. Ends of tasks: reports and the completion of a launch (R279, R288, R242), faults in the monitor (R254), timeouts
(R291), and steals (R285).
-/
namespace Sys2Proof.Machine

/-! ## Reports -/

/-- The tape outcome of a RECORD launch (R242, R289): stored where every member's task ended at the task-exit address, by no fault and no timeout,
and none abandoned; a context that the supervisor's table no longer has stores none. -/
def State.storeTape (s : State) (l : Launch) : State × Launch :=
  match l.tape0 with
  | none => (s, l)
  | some t =>
    let whole := l.faultRank.isNone && !l.flags.getLsbD 2 && l.segs.length == l.members.length
    if whole then
      let k := s.ctx l.ctx
      (if Tab.has l.ctx s.ctxs then s.setCtx l.ctx { k with tapes := Tab.put l.packet.tapeid { t with segs := l.segs } k.tapes } else s,
        { l with tapeOut := if l.fellBack then 4 else 1 })
    else (s, { l with tapeOut := if l.fellBack then 5 else 2, flags := l.flags ||| 0x08#8 })
/-- A member's status joins the completion tree (R288): `cause` of a fault, its supervisor mark, its core. -/
def State.report (s : State) (id rank : Nat) (cause : Option Nat) (supf : Bool) : State :=
  match s.launch? id with
  | none => s
  | some l =>
    let t := (s.time - l.releaseTime) / 1024
    let top := 2 ^ 21 - 1
    let u := Nat.min t top
    let fl := (if cause.isSome then 0x01#8 else 0) ||| (if supf then 0x02#8 else 0) ||| (if top < t then 0x20#8 else 0)
    let l1 : Launch := { l with
      flags := l.flags ||| fl, count := l.count + 1, first := if l.count = 0 then u else Nat.min l.first u, last := Nat.max l.last u
      members := l.members.mapIdx fun i m => if i = rank then { m with ended := true, endTime := s.time, fault := cause } else m
      faultRank := match cause, l.faultRank with
        | some c, none => some (rank, c)
        | some c, some (r, d) => if rank < r then some (rank, c) else some (r, d)
        | none, x => x }
    if l1.count < l1.members.length then s.setLaunch id l1
    else
      let (s1, l2) := s.storeTape l1
      s1.completeLaunch id l2
/-- The recorded segment of a member joins the launch's tape, with the END record of its task's final return (R242). -/
def State.keepSeg (s : State) (p : Part) : State :=
  let t := p.tape.append [tapeRec 7 false 0 0]
  if p.tape.mode ≠ 1 || t.abandon then s
  else
    match s.launch? p.launch with
    | some l => s.setLaunch p.launch { l with segs := Tab.put p.rank t.seg l.segs }
    | none => s

/-! ## The end of a member's task -/

/-- What a task's end waits for (R279, log 10): its copy commands, matrix instructions and sends, and its accesses and vector
entries. -/
def State.drained (s : State) (c : Nat) : Bool :=
  let k := s.core c
  k.engQ.isEmpty && k.engRun.isNone && k.churnQ.isEmpty && k.churnRun.isNone
    && (k.part.strands.all fun e => e.2.seq.isEmpty && e.2.out.isEmpty)
    && s.flits.all fun f => !(f.src == c && f.launch == k.part.launch && f.state.unsettled)
/-- Every strand of the part has ended. -/
def Part.allEnded (p : Part) : Bool := p.strands.all fun e => e.2.status == .ended || e.2.status == .absent
/-- What happens before the end of the part on core c (R289): what its strands have acquired, and every access of the core's strands, engine and
Churn numbered below n. -/
def Part.knownAll (p : Part) (c n : Nat) : Known :=
  p.strands.foldl (fun k e => (k.join e.2.known).join [(agentOf c e.1, n), (engineFor c e.1, n), (churnFor c e.1, n)]) []
/-- The core cycle of an end that comes while the part is charged is charged too (R298). -/
def State.lastCycle (s : State) (c : Nat) : State :=
  let p := (s.core c).part
  if p.charged then (c :: p.partner.toList).foldl (fun s k => s.setPart k ((s.core k).accrue 1)) s else s
/-- The part on core c is past (R18): its charges, and those of the partner of a DUAL pair (R303), join the context's account, and its accesses
come before the launch's completion (R289). -/
def State.closeAccount (s : State) (c : Nat) : State :=
  let s0 := s.lastCycle c
  let p := (s0.core c).part
  let s1 := (s0.account p).joinKnown p.launch (p.knownAll c s.nextId)
  match p.partner with
  | some q => s1.account (s0.core q).part
  | none => s1
/-- The member on core c is reported (R288): its lanes and its partner are free, lane and matching caps around it are worked out anew, a fault
breaks its barrier domains (R215). -/
def State.finish (s : State) (c : Nat) : State :=
  let p := (s.core c).part
  let s1 := [0, 1, 2, 3].foldl (fun s t => s.returnLanes c t) (s.closeAccount c)
  let s2 := s1.setCore c { (s1.core c).endPhase with part := { p with done := true, marked := false, rings := [] } }
  let s3 := p.strands.foldl (fun s e => s.setStrand c e.1 { s.strand c e.1 with lanes := [], seqHeld := [], churnHeld := [], claim := none, sfuAt := none }) s2
  let s4 := match p.partner with
    | some q => s3.setPart q { (s3.core q).part with done := true }
    | none => s3
  let s5 := ((s4.liftCaps c p.partner).rematch c).keepSeg p
  let s6 := if p.cause.isSome then s5.breakDomains p.launch c else s5
  s6.report p.launch p.rank p.cause p.supFault
/-- A strand in the monitor for a cause; the shipped monitor ends the task for it, or the control complex declines (R254). -/
def Part.monitorCause (p : Part) : Option Nat :=
  p.strands.findSome? fun e =>
    if e.2.status == .running && e.2.stat.sup && e.2.regs.cause.toNat % 64 != 0 then some (e.2.regs.cause.toNat % 64) else none
/-- The end of the task of the member on core c: reported once all is drained and the core cycle of its end has been charged (R298); before that,
the monitor's end of it, which breaks its barrier domains (R215). On a fenced core, and of a pair with one, no task ends before the reset (R301,
R302). -/
def State.taskEnd (s : State) (c : Nat) : Option State :=
  let p := (s.core c).part
  if !p.occupied || p.mirror || s.pairFenced c then none
  else if p.allEnded then (if s.drained c && !p.charged then some (s.finish c) else none)
  else
    match p.monitorCause with
    | some code => some ((s.setPart c (p.endTask (some code) false)).breakDomains p.launch c)
    | none => none
/-- TASK_END (R288, R254). -/
def execTaskEnd (c : CoreId) (s : State) : Host.Outcome State Fault Refusal := stutter s (s.taskEnd c.val)

/-- The lanes of an octet that a core's strands hold return to the pool. -/
def State.freeLanesOf (s : State) (c : Nat) : State :=
  let o := octetOf c
  let mine := (span 0 128).filter fun j => match ((s.octet o).lane j).owner with | some w => w / 4 == c | none => false
  s.setOctet o ((s.octet o).own mine none)

/-! ## Timeouts -/

/-- The control complex ends a member's task (R291): its strands, sleeping ones too, and what they have queued in sequencers and
the Churn. -/
def State.kill (s : State) (c : Nat) : State :=
  let k := s.core c
  let p := k.part.endTask none false
  s.setCore c { k with churnQ := [], churnRun := none, churnMiss := none, churnMissFault := none, part := { p with
    strands := p.strands.map fun e => (e.1, { e.2 with
      seq := [], loop := none, seqFault := none, churnFault := none, miss := none, missFault := none, seqMiss := none, seqMissFault := none }) } }
/-- Where the member of a rank is: resident on a core, or saved. -/
def State.memberAt (s : State) (id rank : Nat) : Home :=
  match s.cores.find? fun e => e.2.part.occupied && !e.2.part.mirror && e.2.part.launch == id && e.2.part.rank == rank with
  | some (c, _) => .resident c
  | none =>
    match s.images.find? fun e => e.2.restored.isNone && e.2.part.launch == id && e.2.part.rank == rank with
    | some (i, _) => .image i
    | none => .gone
/-- A saved member's task ends where it lies (R261, R291, R302). -/
def State.endImage (s : State) (i : Nat) (cause : Option Nat) : State :=
  match s.image? i with
  | none => s
  | some im =>
    let p := im.part
    let s1 : State := { s with images := Tab.erase i s.images }
    let s2 := s1.account p
    let s3 := if cause.isSome then s2.breakDomains p.launch im.oldCore else s2
    s3.report p.launch p.rank cause false
/-- A DUAL member that waits for a fresh pair is ended there (R206, R291). -/
def State.killRerun (s : State) (id r : Nat) : State :=
  match s.launch? id with
  | some l =>
    if l.reruns.any (·.old.rank == r) then (s.setLaunch id { l with reruns := l.reruns.filter (·.old.rank != r) }).report id r none false else s
  | none => s
/-- A launch's TIMEOUT, in ms of fabric time from release (R291): every task that has not ended is ended. -/
def State.launchTimeout (s : State) (id : Nat) : Option State :=
  match s.launch? id with
  | none => none
  | some l =>
    if !l.released || l.complete || l.packet.timeout = 0 || s.time < l.releaseTime + 2000000 * l.packet.timeout || l.flags.getLsbD 2 then none
    else
      let s1 := s.setLaunch id { l with flags := l.flags ||| 0x05#8 }
      some ((span 0 l.members.length).foldl (fun s r =>
        match s.memberAt id r with
        | .resident c => s.kill c
        | .image i => s.endImage i none
        | _ => s.killRerun id r) s1)
/-- LAUNCH_TIMEOUT (R291). -/
def execLaunchTimeout (id : Nat) (s : State) : Host.Outcome State Fault Refusal := stutter s (s.launchTimeout id)

/-! ## Steals -/

def doneWord : Nat := 2 ^ 64 - 1
def wordNext (w : Nat) : Nat := w % 2 ^ 32
def wordEnd (w : Nat) : Nat := w / 2 ^ 32
/-- The other die with the most items left, ties to the lower number: its number and items. -/
def State.richest (s : State) (slot d : Nat) (dies : List Nat) : Option (Nat × Nat) :=
  dies.foldl (fun best e =>
    let w := s.readN (rangeWord slot e) 8
    if e = d || w = doneWord then best
    else
      let r := wordEnd w - wordNext w
      match best with
      | some (_, r') => if r' < r then some (e, r) else best
      | none => some (e, r)) none
/-- The part takes its items from the range word at `a`: it is a member of that word's die (R284), wherever it has moved since. -/
def Part.rangedBy (p : Part) (a : Nat) : Bool := p.strands.any fun e => e.2.regs.rangep.toNat == a
/-- Raises user event k on every strand of the members that share the launch's range word at `a`, saved members included (R260, R285). -/
def State.raiseDie (s : State) (id a k : Nat) : State :=
  { s with
    cores := s.cores.map fun e => if e.2.part.occupied && e.2.part.launch == id && e.2.part.rangedBy a then (e.1, { e.2 with part := e.2.part.raiseAll k }) else e
    images := s.images.map fun e =>
      if e.2.restored.isNone && e.2.part.launch == id && e.2.part.rangedBy a then (e.1, { e.2 with part := e.2.part.raiseAll k }) else e }
/-- An exhausted range word of die d (R285), among those that the release has placed. -/
def State.steal (s : State) (id d : Nat) : Option State :=
  match s.launch? id with
  | none => none
  | some l =>
    let a := rangeWord l.rangeSlot d
    let w := s.readN a 8
    if !l.released || l.complete || !l.packet.steals || !l.dies.contains d || w = doneWord || wordNext w < wordEnd w then none
    else
      let put (s : State) (b v : Nat) : State := s.storeAt (span b 8) v true [] outsider
      match s.richest l.rangeSlot d l.dies with
      | some (v, r) =>
        if r < 2 then some (put s a doneWord)
        else
          let b := rangeWord l.rangeSlot v
          let x := s.readN b 8
          let mid := wordNext x + (r + 1) / 2
          let s1 := put s b (wordNext x + mid * 2 ^ 32)
          some ((put s1 a (mid + wordEnd x * 2 ^ 32)).raiseDie id a 5)
      | none => some (put s a doneWord)
/-- STEAL_REPORT (R285). -/
def execStealReport (id : Nat) (die : Fin 4) (s : State) : Host.Outcome State Fault Refusal := stutter s (s.steal id die.val)

end Sys2Proof.Machine
end

