-- ==== Sys2Proof/Machine/EvReplay.lean ====
section
/-!
DEFINITION. Replay of a launch tape (R244): records are applied in order, an instruction's records as one group.
-/
namespace Sys2Proof.Machine

def TapeRec.kind (r : TapeRec) : Nat := r.header.toNat % 256
def TapeRec.word (r : TapeRec) : Nat := r.header.toNat / 2 ^ 16 % 2 ^ 32
/-- A patched operand from the new argument word (R244). -/
def patchOf (slot : Nat × Nat × Word × Bool) (arg : Word) : XReg :=
  let (_, sh, off, ptr) := slot
  if ptr then
    { val := BitVec.ofNat 64 (arg.toNat / 2 ^ 54 * 2 ^ 54 + (vaof arg + off.toNat) % 2 ^ 54), mark := true }
  else { val := BitVec.ofNat 64 (arg.toNat * 2 ^ sh + off.toNat) }
/-- An OPND record's operand. -/
def TapeSeg.operandOf (g : TapeSeg) (arg : Nat → Word) (r : TapeRec) : XReg :=
  if r.header.getLsbD 8 then
    let slot := g.slots.getD (r.value.toNat % 64) (0, 0, 0, false)
    patchOf slot (arg slot.1)
  else { val := r.value, mark := r.word % 2 == 1 }

/-- An instruction's group of records: its word, operands, descriptor fields and captured predicate. -/
structure RecGroup where
  head : TapeRec
  ops : List XReg := []
  desc : List Word := []
  pred : Option (Nat × Nat) := none
  size : Nat := 1
/-- The OPND, DESC and PRED records that follow an INSN. -/
def RecGroup.fill (g : RecGroup) (opd : TapeRec → XReg) : List TapeRec → RecGroup
  | [] => g
  | r :: l =>
    match r.kind with
    | 2 => ({ g with ops := g.ops ++ [opd r], size := g.size + 1 } : RecGroup).fill opd l
    | 3 => ({ g with desc := g.desc ++ [r.value], size := g.size + 1 } : RecGroup).fill opd l
    | 4 => ({ g with pred := some (r.word % 16, r.value.toNat), size := g.size + 1 } : RecGroup).fill opd l
    | _ => g
/-- The group at the head of the records that are left. -/
def groupAt (opd : TapeRec → XReg) : List TapeRec → Option RecGroup
  | [] => none
  | r :: l => some (({ head := r } : RecGroup).fill opd l)
/-- The instruction of an INSN record. -/
def RecGroup.instr (g : RecGroup) : Option Instr :=
  match decodeWord g.head.word with
  | .instr i => some i
  | _ => none
/-- The registers whose values an INSN's OPND records hold, in field order (R242). -/
def opRegs : Instr → List Nat
  | .cpy a b _ _ _ _ _ | .cpyg a b _ _ _ _ _ | .cpysc a b _ _ _ _ _ => [a.val, b.val]
  | .cpys _ b _ _ _ _ => [b.val]
  | i => i.xReads
/-- The strand with a group's operands, predicate and RBASE in place. -/
def Strand.load (st : Strand) (i : Instr) (g : RecGroup) : Strand :=
  let st1 := ((opRegs i).zip g.ops).foldl (fun st e => st.xput e.1 e.2) st
  match g.pred with
  | some (b, v) => { st1 with rbase := BitVec.ofNat 4 b, p := Tab.put (predOf i) (BitVec.ofNat 18 v) st1.p }
  | none => st1
/-- The strand's own X and P registers again, after a record. -/
def Strand.unload (st old : Strand) : Strand := { st with x := old.x, p := old.p, npc := old.npc, pc := old.pc }

/-- A replay stops with a cause (R244): the member's task ends with it. -/
def State.stopReplay (s : State) (c : Nat) (code : Nat) : State :=
  let p := ((s.core c).part.endTask (some code) false)
  s.setPart c { p with tape := { p.tape with stopped := some code } }
/-- A member's core can take the launch's part again: it holds it now, or is free. -/
def State.coreKept (s : State) (id c : Nat) : Bool :=
  let p := (s.core c).part
  if p.occupied then p.launch == id else s.isFree 1 c
/-- What is left of a launch's members before its gang starts again: their lanes, units and images are free and their charges kept (R18). DESIGN CHOICE
(log 57): the members' engine and Churn commands, queued or running, end there; R244 lets stand what they have done. -/
def State.clearGang (s : State) (id : Nat) (l : Launch) : State :=
  let mine (q : Part) : Bool := q.launch == id
  let s1 := l.members.foldl (fun s m => if (s.core m.core).part.occupied then (s.closeAccount m.core).freeLanesOf m.core else s) s
  let s2 := (s1.images.filter fun e => e.2.restored.isNone && mine e.2.part).foldl (fun s e => s.account e.2.part) s1
  let idle (e : Nat × Core) : Nat × Core :=
    if l.members.any fun m => m.core == e.1 then
      (e.1, { e.2 with churnQ := [], churnRun := none, churnMiss := none, churnMissFault := none, engQ := [], engRun := none, engMiss := none, engMissFault := none })
    else e
  { s2 with
    images := s2.images.filter fun e => !mine e.2.part
    domains := s2.domains.filter fun e => e.2.launch != some id
    cores := s2.cores.map idle }
/-- The launch's part on core c is gone. -/
def State.leaveCore (s : State) (id c : Nat) : State :=
  let p := (s.core c).part
  if p.occupied && p.launch == id then (s.setPart c {}).liftCap c else s
/-- A DTLOAD's table differs from the recorded one: 0x34, or with FALLBACK the gang starts again from its entry point, recording, its
speeds sampled as at any release (R15, R17, R243, R244). Every effect of the partial replay stands. A gang one of whose cores is not free by then
waits in its queue for its release (log 57). -/
def State.replayStale (s : State) (c : Nat) : State :=
  let id := (s.core c).part.launch
  match s.launch? id with
  | some l =>
    let l1 : Launch := { l with count := 0, first := 0, last := 0, faultRank := none, segs := [] }
    let s1 := s.clearGang id l
    if !l.packet.fallback then s.stopReplay c 0x34
    else if l.members.all fun m => s.coreKept id m.core then
      ((l.packet.gang (l.members.map (·.core))).foldl State.applyRaise s1).releaseGang id l1 (l.members.map fun m => (m.core, m.stage)) 1 true
    else
      let k := s1.ctx l.ctx
      ((l.members.foldl (fun s m => s.leaveCore id m.core) s1).setCtx l.ctx { k with queue := id :: k.queue }).setLaunch id
        { l1 with released := false, restart := true, members := [] }
  | none => s.stopReplay c 0x34

/-- The state after an effect of a record; a stall answers none. DESIGN CHOICE (log 80): a replaying member, which issues no bundle, is charged
from its first record on. -/
def State.afterRecord (s : State) (c n : Nat) (old : Strand) (e : Eff) : Option State :=
  let step (s1 : State) : State :=
    let p := s1.myPart
    (s1.setMyPart { p with charged := true, tape := { p.tape with next := p.tape.next + n } }).setMe (s1.me.unload old)
  match e with
  | .done s1 => some (step s1)
  | .trap f => some (s.stopReplay c f.code)
  | .trapIn s1 f => some (s1.stopReplay c f.code)
  | .miss k va => some (((s.setMe old).missScalar .scalar k va))
  | .wait => none
  | .sleep _ _ _ => none
/-- The entries of a loop's body from their groups (R242): n of them, each a group that captured a predicate; the records that they take. -/
def bodyOf (opd : TapeRec → XReg) (st : Strand) (ord : Nat) : Nat → List TapeRec → List SeqEntry × Nat
  | 0, _ => ([], 0)
  | n + 1, l =>
    match groupAt opd l with
    | none => ([], 0)
    | some g =>
      match g.instr, g.pred with
      | none, _ => ([], 0)
      | _, none => ([], 0)
      | some i, some _ =>
        let e := { (st.load i g).entry i with inLoop := true, ord := ord, pairHead := g.head.pair }
        let (es, k) := bodyOf opd st ord n (l.drop g.size)
        (e :: es, g.size + k)
/-- VSEQ or VREP with its recorded body, from the RBASE that its records hold (R117, R118); a count of 0 passes the body by. -/
def State.replayLoop (s : State) (c : Nat) (old : Strand) (g : RecGroup) (len step : Nat) (rep : Bool) (opd : TapeRec → XReg)
    (rest : List TapeRec) : Option State :=
  let st := s.me
  let count := (g.ops.headD {}).val.toNat
  let (es, k) := bodyOf opd st s.nextId (len + 1) rest
  if es.length ≠ len + 1 then some (s.stopReplay c 0x34)
  else if count = 0 then s.afterRecord c (g.size + k) old (.done s)
  else if !st.seqRoom (len + 1) || st.loop.isSome then none
  else
    let base := (es.head?.map (·.rbase)).getD st.rbase.toNat
    let lr : LoopReg := { rep := rep, count := count, step := step, len := len + 1, rbase := base }
    let st1 := { st with
      seq := st.seq ++ es, loop := some lr
      rbase := if rep then BitVec.ofNat 4 base else BitVec.ofNat 4 (base + count * step) }
    s.afterRecord c (g.size + k) old (.done (({ s with nextId := s.nextId + 1 } : State).setMe st1))
/-- An INSN record goes to its unit with its operands (R244), once earlier queued draws of SEED are made where it draws one (R46, R114). -/
def State.replayInsn (s : State) (c : Nat) (g : RecGroup) (i : Instr) (opd : TapeRec → XReg) (rest : List TapeRec) : Option State :=
  let old := s.me
  let s1 := s.setMe (old.load i g)
  let n := g.size
  if !s1.me.seedFree i then none else
  match i with
  | .cpy a b _ _ _ _ _ | .cpyg a b _ _ _ _ _ | .cpysc a b _ _ _ _ _ =>
    s.afterRecord c n old (if s1.copyFormats (s1.me.xptr b.val) (s1.me.xptr a.val) then copyPush i (some a) b g.desc false s1 else trapCode 0x13)
  | .cpys _ b _ _ _ _ =>
    s.afterRecord c n old (if s1.copyFormats (s1.me.xptr b.val) (s1.me.xptr b.val) then copyPush i none b g.desc false s1 else trapCode 0x13)
  | .cbwait _ _ =>
    let s2 := s.setMe (old.xput 1 (g.ops.headD {}))
    match rawCbwait 2 1 s2 with
    | .done s3 =>
      if s3.me.xr 2 = 1 then some (s.stopReplay c (old.regs.engerr.toNat / 2 ^ 56 % 64))
      else s.afterRecord c n old (.done s3)
    | e => s.afterRecord c n old e
  | .vseq _ len step => s1.replayLoop c old g len.toNat step.toNat false opd rest
  | .vrep _ len step => s1.replayLoop c old g len.toNat step.toNat true opd rest
  | .dtload a m =>
    match rawDtload a m s1 with
    | .done s2 => if (s2.core c).tableHash = g.head.value then s.afterRecord c n old (.done s2) else some (s.replayStale c)
    | .trap f => if f.code = 0x13 then some (s.replayStale c) else s.afterRecord c n old (.trap f)
    | e => s.afterRecord c n old e
  | i => s.afterRecord c n old (match rawOf i s1 with
    | .done s2 => .done (s2.useTlb c .loadStore s1.me.regs.asid (s1.me.lsSpans i))
    | e => e)
/-- A group of the acting strand's records whose head is an INSN is applied; DESIGN CHOICE (log 81): one whose word is no instruction stops the replay
with 0x34. -/
def State.replayGroup (s : State) (c : Nat) (g : RecGroup) (opd : TapeRec → XReg) (rest : List TapeRec) : Option State :=
  match g.instr with
  | some i => s.replayInsn c g i opd (rest.drop g.size)
  | none => some (s.stopReplay c 0x34)
/-- An INSN group, with its partner's where it heads a pair of sequencer entries: both enter the sequencer at once, as the bundle did (R28). -/
def State.replayPair (s : State) (c : Nat) (g : RecGroup) (opd : TapeRec → XReg) (rest : List TapeRec) : Option State :=
  match s.replayGroup c g opd rest, groupAt opd (rest.drop g.size) with
  | some s1, some h =>
    if g.head.pair && s1.myPart.tape.next == s.myPart.tape.next + g.size then
      let n := s.me.seq.length
      (s1.setMe { s1.me with seq := s1.me.seq.take n ++ markHead (s1.me.seq.drop n) }).replayGroup c h opd (rest.drop g.size)
    else some s1
  | r, _ => r
/-- The next records of the member on core c are applied (R244), on a fenced core none (R301); an END record ends its
task. -/
def State.replay (s : State) (c : Nat) : Option State :=
  let p := (s.core c).part
  let t := (p.strands.head?.map (·.1)).getD 0
  let st := s.strand c t
  if !p.occupied || p.tape.mode != 2 || st.status != .running || s.fenced c then none
  else
    match st.churnFault, st.seqFault, st.missFault with
    | some f, _, _ => some (s.stopReplay c f.code)
    | none, some f, _ => some (s.stopReplay c f.code)
    | none, none, some f => some (s.stopReplay c f.code)
    | none, none, none =>
      if st.miss.isSome || st.claim.isSome then none
      else
        let z := s.at_ c t
        let opd := p.tape.seg.operandOf fun i => Tab.get 0 i p.tape.args
        let rest := p.tape.seg.recs.drop p.tape.next
        match groupAt opd rest with
        | none => some (s.setStrand c t { st with status := .ended })
        | some g =>
          Option.map (fun t : State => t.backTo s) (match g.head.kind with
          | 1 => z.replayPair c g opd rest
          | 5 =>
            let w := g.head.word
            z.afterRecord c 1 st (rawYield (BitVec.ofNat 10 w) (w / 2 ^ 10 % 2 == 1) z)
          | 6 =>
            let n := g.head.value.toNat
            if !st.seqEmpty then none
            else if n = 0 then z.afterRecord c 1 st (rawVfree z)
            else
              let z1 := z.claim c t n
              if (z1.strand c t).nlanes < n then none else z.afterRecord c 1 st (.done z1)
          | _ => some (s.setStrand c t { st with status := .ended }))
/-- REPLAY_RECORD (R244). -/
def execReplayRecord (c : CoreId) (s : State) : Host.Outcome State Fault Refusal := stutter s (s.replay c.val)

end Sys2Proof.Machine
end

