-- ==== Sys2Proof/Machine/EvContext.lean ====
section
/-!
DEFINITION. Contexts switched out, restored and moved (R257 to R263, R338).
-/
namespace Sys2Proof.Machine

/-- Every strand is held at a YIELD or has ended, and one at least is held (R258). -/
def Part.allHeld (p : Part) : Bool :=
  (p.strands.any fun e => e.2.status == .held) && p.strands.all fun e => e.2.status != .running
/-- The cells of a core's TCM user part, and its empty words. -/
def tcmBase (c : Nat) : Nat := c * 0x20000
def inUser (c pa : Nat) : Bool := tcmBase c ≤ pa && pa < tcmBase c + 0x16000
def State.tcmCells (s : State) (c : Nat) : List Host.Cell := s.mem.filter fun e => inUser c e.1
def State.tcmEmpties (s : State) (c : Nat) : List Nat := s.empties.filter fun w => inUser c (4 * w)
/-- The release records of a core's TCM user part (R182, R197). -/
def State.tcmRecords (s : State) (c : Nat) : List RelRec := s.records.filter fun r => r.bytes.any (inUser c)
/-- A strand as it is saved: after a YIELD with KV = 0 its V registers are not defined (Table 14.4). -/
def State.savedStrand (s : State) (c t : Nat) : State := if (s.strand c t).stat.kv then s else s.freeV c t
/-- The holds are lifted: the strands run on (R258). -/
def Part.runOn (p : Part) : Part :=
  { p with strands := p.strands.map fun e => (e.1, if e.2.status == .held then { e.2 with status := .running } else e.2) }
/-- Lifts the holds where not every strand is held within 20 µs of the first (R258). -/
def State.holdExpires (s : State) (c : Nat) : Option State :=
  let p := (s.core c).part
  let since := p.strands.filter fun e => e.2.status == .held && e.2.heldAt + 40000 ≤ s.time
  if since.isEmpty || p.allHeld || s.pairFenced c then none
  else
    some (s.setPart c { p.runOn with marked := false, migrate := false })
/-- HOLD_TIMEOUT (R258). -/
def execHoldTimeout (c : CoreId) (s : State) : Host.Outcome State Fault Refusal := stutter s (s.holdExpires c.val)

/-! ## Restore -/

/-- The core is in service (R261): in the map, in no fenced or reset rectangle. -/
def State.inService (s : State) (c : Nat) : Bool := s.inMap c && !s.inFence c
/-- The limits that a part's barrier domains set on its place (R338). -/
def State.domainLimits (s : State) (im : Image) (c : Nat) : Bool :=
  s.domains.all fun e =>
    !(e.2.launch == some im.part.launch && e.2.member im.oldCore) ||
      (let lv := e.1 / 65536
       if e.2.exch then c == im.oldCore
       else if lv = BLevel.cluster.code then clusterOf c == clusterOf im.oldCore
       else if lv = BLevel.die.code then dieOf c == dieOf im.oldCore
       else true)
/-- The limits of R261 on a place, the core's freedom and its lanes apart. A part whose landing path was fenced goes to another core (R302). -/
def State.placeOk (s : State) (im : Image) (c : Nat) : Bool :=
  let fixed := match s.launch? im.part.launch with | some l => l.packet.listed | none => false
  im.part.nstr ≤ (s.core c).test.strands.length && (c == im.oldCore || im.part.rings.isEmpty || !im.kv) && s.domainLimits im c
    && (!fixed || c == im.oldCore || !s.inService im.oldCore || im.cut) && !(im.cut && c == im.oldCore)
/-- A strand of a save keeps its lanes: it was held at a YIELD with KV = 1 (R109). -/
def Strand.keepsLanes (st : Strand) : Bool := st.status == .held && st.stat.kv
/-- The octet can grant every strand of a KV = 1 save its LANES at the core's target speed (R261, R108); in a DUAL pair both octets can (R303). -/
def State.lanesFit (s : State) (im : Image) (c : Nat) : Bool :=
  let need := (im.part.strands.filter fun e => e.2.keepsLanes).foldl (fun n e => n + e.2.nlanes) 0
  let fits (q : Nat) : Bool := need ≤ (s.eligible (octetOf q) (s.core q).curve.target).length
  !im.kv || (fits c && (im.part.partner.isNone || fits (partnerOf c)))
/-- The core is free for the save, and for a DUAL pair its partner too (R303). -/
def State.takesSave (s : State) (im : Image) (c : Nat) : Bool :=
  s.isFree im.part.nstr c && (im.part.partner.isNone || s.isFree im.part.nstr (partnerOf c))
/-- The core that a migrating part goes to (R292): the first of the free cores in the order of its launch's selection rule (R281) that
takes the restore (R261). -/
def State.migrateTo (s : State) (im : Image) : Option Nat :=
  match s.launch? im.part.launch with
  | none => none
  | some l =>
    let p := l.packet
    let ok (c : Nat) : Bool := c != im.oldCore && s.takesSave im c && s.placeOk im c && s.lanesFit im c && p.qualifies (s.core c)
    (sortKeys (((span 0 8192).filter ok).map fun c => (p.selKey (s.core c), c))).head?
/-- What an image keeps of XSTAT: LATE, MISS and the domain of the last phase (R191, R259). -/
def Exch.kept (x : Exch) : Exch := { late := x.late, miss := x.miss, dom := x.dom, die := x.die }
/-- A strand as an image holds it: its accesses so far are those of another core's strand from now on (R198). -/
def Strand.packed (st : Strand) (c t n : Nat) : Strand :=
  { st with claim := none, sfuAt := none, known := st.known.join [(agentOf c t, n)] }
/-- The part on core c as it is saved to an image, and the machine without it (R258, R260): the core serves its landing path; a DUAL partner's
charges join the context's account (R18). -/
def State.save (s : State) (c : Nat) : Image × State :=
  let p := (s.core c).part
  let s1 := p.strands.foldl (fun s e => if e.2.status == .held then s.savedStrand c e.1 else s) (s.joinKnown p.launch (p.knownAll c s.nextId))
  let q := (s1.core c).part
  let im : Image :=
    { part := { q with marked := false, strands := q.strands.map fun e => (e.1, e.2.packed c e.1 s.nextId) }, oldCore := c
      kv := q.strands.any fun e => e.2.keepsLanes, tcm := s.tcmCells c, empties := s.tcmEmpties c, records := s.tcmRecords c
      exch := (s.core c).exch.kept }
  let s2 := p.strands.foldl (fun s e => s.returnLanes c e.1) s1
  let s3 := { s2.setCore c { (s2.core c) with part := {} } with records := s2.records.filter fun r => !r.bytes.any (inUser c) }
  let s4 := ((match p.partner with | some k => (s3.account (s.core k).part).setPart k {} | none => s3).liftCaps c p.partner).rematch c
  (im, s4)
/-- A switch-out (R258), once the core cycle of the hold has been charged (R298). A part that is to migrate where no core qualifies stays: its
strands run on, and the next YIELD tries again (R292). From a fenced core, and of a pair with one, nothing is saved (R301). -/
def State.switchOut (s : State) (c : Nat) : Option State :=
  let p := (s.core c).part
  if !p.occupied || p.mirror || !p.marked || !p.allHeld || !s.drained c || p.charged || s.pairFenced c then none
  else
    let (im, s1) := s.save c
    if p.migrate && (s1.migrateTo im).isNone then some (s.setPart c p.runOn)
    else some { s1 with images := Tab.put s.nextId im s1.images, nextId := s.nextId + 1 }
/-- CONTEXT_SWITCH_OUT (R258): the scheduler's turn at core c. It acts on a curve notification first, which may mark the part (R292, log 76), else it
switches a part out. -/
def execContextSwitchOut (c : CoreId) (s : State) : Host.Outcome State Fault Refusal :=
  stutter s (match s.scheduled c.val with | some s1 => some s1 | none => s.switchOut c.val)

/-- A strand that runs again, without lanes yet and with its whole send allowance (R170). -/
def Strand.resumed (st : Strand) : Strand := { st with status := if st.status == .held then .running else st.status, lanes := [], sends := [], regSends := [] }
/-- Its lanes are granted: as many as before after KV = 1; else as by a VCLAIM (R109). The V registers are as the image holds them: with their
contents after KV = 1, else free values, and what the landing path has applied since (R259, R260). -/
def State.regrant (s : State) (c t : Nat) (old : Strand) : State :=
  if old.status != .held || old.nlanes = 0 then s
  else
    let s1 := s.claim c t old.nlanes
    s1.setStrand c t { s1.strand c t with v := old.v }
/-- The grants of a restored part's strands: those that keep their lanes first (R261). -/
def State.regrantAll (s : State) (c : Nat) (l : Tab Strand) : State :=
  ((l.filter fun e => e.2.keepsLanes) ++ l.filter fun e => !e.2.keepsLanes).foldl (fun s e => s.regrant c e.1 e.2) s
/-- A domain with member core `dest` in place of `old` (R338): in the masks of the current episode, and in those that apply from the next. -/
def Domain.moveMember (d : Domain) (old dest : Nat) : Domain :=
  let a := clusterOf old
  let b := clusterOf dest
  let gone : BitVec 32 := BitVec.ofNat 32 (2 ^ (old % 32))
  let come : BitVec 32 := BitVec.ofNat 32 (2 ^ (dest % 32))
  let later (k : Nat) : BitVec 32 := Tab.get (Tab.get 0 k d.masks) k d.pendingMasks
  let swap (w : Nat → BitVec 32) (k : Nat) : BitVec 32 :=
    if (w a).getLsbD (old % 32) then (if k = a then w k &&& ~~~gone else w k) ||| (if k = b then come else 0) else w k
  let now := swap (fun k => Tab.get 0 k d.masks)
  let next := swap later
  let masks := Tab.put b (now b) (Tab.put a (now a) d.masks)
  let put (t : Tab (BitVec 32)) (k : Nat) : Tab (BitVec 32) := if Tab.has k d.pendingMasks || next k != now k then Tab.put k (next k) t else t
  { d with masks := masks, pendingMasks := put (put d.pendingMasks a) b }
/-- A member's barrier memberships follow it to its new core (R338). -/
def State.moveMember (s : State) (launch old dest : Nat) : State :=
  let s1 : State := { s with domains := s.domains.map fun e => (e.1, if e.2.launch == some launch then e.2.moveMember old dest else e.2) }
  match s1.launch? launch with
  | some l =>
    s1.setLaunch launch { l with members := l.members.map fun m =>
      if m.core = old then { m with core := dest, partner := m.partner.map fun _ => partnerOf dest } else m }
  | none => s1
/-- Cells moved from one core's TCM dest another's. -/
def moveCells (from_ dest : Nat) (l : List Host.Cell) : List Host.Cell := l.map fun e => (e.1 - tcmBase from_ + tcmBase dest, e.2)
/-- A release record of a TCM's bytes, at the core that they have moved to. -/
def RelRec.move (r : RelRec) (from_ dest : Nat) : RelRec :=
  { r with bytes := r.bytes.map fun b => if inUser from_ b then b - tcmBase from_ + tcmBase dest else b }
/-- The TCM user part of a save image, written on core c with its full/empty bits and its release records (Table 14.4, R182). -/
def State.loadTcm (s : State) (im : Image) (c : Nat) : State :=
  let mem := s.mem.filter fun e => !inUser c e.1
  let cells := moveCells im.oldCore c im.tcm
  let emp := s.empties.filter fun w => !inUser c (4 * w)
  { s with
    mem := cells.foldl (fun m e => Tab.set 0#8 e.1 e.2 m) mem
    empties := im.empties.foldl (fun l w => insertNat (w + tcmBase c / 4 - tcmBase im.oldCore / 4) l) emp
    records := (s.records.filter fun r => !r.bytes.any (inUser c)) ++ im.records.map fun r => r.move im.oldCore c }
/-- A part with its strands under other numbers, and what it holds for them. -/
def Part.renumber (p : Part) (g : Nat → Nat) : Part :=
  let strand (st : Strand) : Strand := { st with churnHeld := st.churnHeld.map fun e => { e with strand := g e.strand } }
  { p with
    strands := p.strands.map fun e => (g e.1, strand e.2)
    rings := p.rings.map fun e => (e.1, { e.2 with owner := g e.2.owner }) }
/-- The part as it stands at a restore on core c: its strands under the core's usable numbers (R261), charged from their next issue on (R298). -/
def State.landedPart (s : State) (im : Image) (c : Nat) : Part :=
  let p := im.part.renumber (s.newNumber im c)
  { p with
    migrate := false, charged := false, partner := im.part.partner.map fun _ => partnerOf c
    strands := p.strands.map fun e => (e.1, e.2.resumed) }
/-- No SFU request of the part is outstanding (R134). -/
def State.sfuLanded (s : State) (im : Image) : Bool :=
  !(s.octet (octetOf im.oldCore)).sfu.any fun q => q.core == im.oldCore && q.isOf im.part
/-- A restore of image i on core c (R261); refused where c does not take it. Where no core of the map could, the task ends with
0x3A. DESIGN CHOICE (log 88): no rule says which decode table the context finds there (R85, Table 14.4); the core's own stays. -/
def State.restore (s : State) (i c : Nat) : Option State :=
  match s.image? i with
  | none => none
  | some im =>
    if im.restored.isSome then none
    else if !((span 0 8192).any fun q => s.inMap q && s.placeOk im q) then some (s.endImage i (some 0x3A))
    else if !s.sfuLanded im || !s.takesSave im c || !s.placeOk im c || !s.lanesFit im c then none
    else if im.part.migrate && s.migrateTo im != some c then none
    else
      let part := s.landedPart im c
      let s0 := (s.loadTcm im c).setCore c { (s.core c) with part := part, exch := im.exch, last := 3 }
      let s1 := match part.partner with
        | some q => s0.placeMember q { resident := true, mirror := true, ctx := part.ctx, launch := part.launch, rank := part.rank, partner := some c }
        | none => s0
      let s2 := s1.regrantAll c (im.part.renumber (s.newNumber im c)).strands
      let s3 := (((c :: part.partner.toList).foldl State.capLanes (s2.drain c)).rematch c).flushAll c
      if c = im.oldCore then some { s3 with images := Tab.erase i s3.images }
      else
        let window := if im.cut || s.inFence im.oldCore then s.time else s.time + us64
        some ((s3.moveMember im.part.launch im.oldCore c).putImage i { im with restored := some c, until_ := window, tcm := [], empties := [], records := [] })
/-- CONTEXT_RESTORE (R261, R262, R338). -/
def execContextRestore (img : Nat) (c : CoreId) (s : State) : Host.Outcome State Fault Refusal := stutter s (s.restore img c.val)

/-- A forwarding window ends (R263): on the part's core every empty register becomes full, and CAPGEN increases. -/
def State.windowEnds (s : State) (i : Nat) : Option State :=
  match s.image? i with
  | none => none
  | some im =>
    match im.restored with
    | none => none
    | some c =>
      if im.closed || s.time < im.until_ then none
      else
        let p := im.part
        let bump (st : Strand) : Strand := let f := st.fillAll; { f with regs := { f.regs with capgen := f.regs.capgen + 1 } }
        let mine (q : Part) : Bool := q.launch == p.launch && q.rank == p.rank
        let h := s.findPart mine c 8
        let s1 := p.strands.foldl (fun s e => s.onHome h (s.numberAt mine c (s.newNumber im c e.1) 8) bump) s
        some (s1.putImage i { im with closed := true })
/-- FORWARDING_WINDOW_END (R263). -/
def execForwardingWindowEnd (img : Nat) (s : State) : Host.Outcome State Fault Refusal := stutter s (s.windowEnds img)

end Sys2Proof.Machine
end

