-- ==== Sys2Proof/Machine/EvTsc.lean ====
section
/-!
DEFINITION. The translation service (R265 to R269): answers to the walker queue, retries, and shootdowns.
-/
namespace Sys2Proof.Machine

/-- Bits [hi:lo] of an entry. -/
def ebits (b : BitVec 128) (hi lo : Nat) : Nat := b.toNat / 2 ^ lo % 2 ^ (hi + 1 - lo)
/-- The entry that the TSC delivers (Table 14.7); none where it is malformed (R268). DESIGN CHOICE (log 90): R265 tags an entry with the requester's ASID and
Table 14.7 gives the entry one of its own; where the two differ, the model keeps the entry's own. -/
def entryOf (b : BitVec 128) : Option TlbEntry :=
  let size := ebits b 63 62
  let va := ebits b 53 16 * 0x10000
  let pa := ebits b 117 80 * 0x10000
  if ebits b 127 127 = 0 || size = 3 || ebits b 121 118 ≠ 0 || ebits b 79 64 ≠ 0 || ebits b 61 54 ≠ 0
      || va % pageBytes size ≠ 0 || pa % pageBytes size ≠ 0 then none
  else
    some { asid := BitVec.ofNat 16 (ebits b 15 0), glob := b.getLsbD 126, r := b.getLsbD 125, w := b.getLsbD 124, x := b.getLsbD 123
           a := b.getLsbD 122, pa := pa, va := va, size := size }
/-- Entries of each TLB (Table 14.6). -/
def tlbSize : TlbKind → Nat
  | .loadStore => 64 | .matrix => 32 | .engine => 128 | .fetch => 32
/-- An entry written into a TLB, the first of it (Table 14.6). A full TLB gives up its last entry, the least recently used or the
first that came in; the copy engine's, the first from the last on that second chance does not pass over. -/
def tlbInsert (t : TlbKind) (e : TlbEntry) (l : List TlbEntry) : List TlbEntry :=
  let rest := l.filter fun x => !(x.asid == e.asid && x.va == e.va && x.size == e.size)
  if rest.length < tlbSize t then e :: rest
  else
    match t with
    | .engine => e :: (passOver rest.length rest.reverse).reverse
    | _ => e :: rest.dropLast
def Core.fill (k : Core) (t : TlbKind) (e : TlbEntry) : Core := k.setTlb t (tlbInsert t e (k.tlb t))

/-- What an answer without an entry raises at a requester (R268): EVA is the address that was being translated. -/
def missFaultOf (q : MissReq) (code : Nat) : FaultInfo :=
  { code := if code = 0x11 && q.kind == .fetch then 0x09 else code, acc := if q.kind == .fetch then 4 else 0, eva := q.va }
/-- A requester's wait ends (R266): with the entry, or with the fault that it takes at its access. A requester whose task has ended meanwhile
waits no more, and nothing is left to take the fault. -/
def State.endMiss (s : State) (q : MissReq) (f : Option FaultInfo) : State :=
  let st := s.strand q.core q.strand
  let k := s.core q.core
  match q.who with
  | .scalar | .fetch => if st.miss == some q then s.setStrand q.core q.strand { st with miss := none, missFault := f } else s
  | .sequencer => if st.seqMiss == some q then s.setStrand q.core q.strand { st with seqMiss := none, seqMissFault := f } else s
  | .churn => if k.churnMiss == some q then s.setCore q.core { k with churnMiss := none, churnMissFault := f } else s
  | .engine => if k.engMiss == some q then s.setCore q.core { k with engMiss := none, engMissFault := f } else s
  | .prefetch => s
def MissReq.samePage (a b : MissReq) : Bool := a.asid == b.asid && a.va / 0x10000 == b.va / 0x10000
/-- The TSC's answer to the oldest request and those merged with it; unavailable answers every request (R266, R268). -/
def State.answerMiss (s : State) (cl : Nat) (a : TscAnswer) : Option State :=
  let k := s.cluster cl
  match k.walker with
  | [] => none
  | q :: _ =>
    let mine := k.walker.filter q.samePage
    let rest : State := s.setCluster cl { k with walker := k.walker.filter fun r => !q.samePage r }
    let fail (s : State) (l : List MissReq) (code : Nat) : State := l.foldl (fun s r => s.endMiss r (some (missFaultOf r code))) s
    let rest := rest.setCluster cl { rest.cluster cl with tscDown := a == .unavailable }
    match a with
    | .entry b =>
      match entryOf b with
      | some e => some (mine.foldl (fun s r => (s.setCore r.core ((s.core r.core).fill r.kind e)).endMiss r none) rest)
      | none => some (fail rest mine 0x1A)
    | .noMapping => some (fail rest mine 0x11)
    | .uncorrectable => some (fail rest mine 0x1E)
    | .unavailable => some (fail (s.setCluster cl { k with walker := [], tscDown := true }) k.walker 0x1B)
/-- TSC_REPLY (R268). -/
def execTscReply (cl : Fin 256) (ans : TscAnswer) (s : State) : Host.Outcome State Fault Refusal := stutter s (s.answerMiss cl.val ans)

/-- A request that found the walker queue full finds a place (R266). -/
def State.retryWalk (s : State) (c : Nat) (k : TlbKind) (t : Nat) : Option State :=
  let cl := s.cluster (clusterOf c)
  match cl.overflow.find? fun q => q.core == c && q.kind == k && q.strand == t with
  | none => none
  | some q =>
    let places := (cl.walker.map fun r => (r.asid, r.va / 0x10000)).eraseDups.length
    if places < 64 || cl.walker.any q.samePage then
      some (s.setCluster (clusterOf c) { cl with walker := cl.walker ++ [q], overflow := cl.overflow.erase q })
    else none
/-- WALKER_QUEUE_RETRY (R266). -/
def execWalkerQueueRetry (c : CoreId) (k : TlbKind) (t : StrandId) (s : State) : Host.Outcome State Fault Refusal :=
  stutter s (s.retryWalk c.val k t.val)

/-- An entry that a shootdown selects (R269): of the ASID, and its page meets the addresses lo to hi. -/
def TlbEntry.shot (e : TlbEntry) (asid : BitVec 16) (lo hi : Nat) : Bool :=
  (e.glob || e.asid == asid) && e.va ≤ hi && lo ≤ e.va + (pageBytes e.size - 1)
def Core.shoot (k : Core) (asid : BitVec 16) (lo hi : Nat) : Core :=
  let f (l : List TlbEntry) : List TlbEntry := l.filter fun e => !e.shot asid lo hi
  { k with tlbLS := f k.tlbLS, tlbMX := f k.tlbMX, tlbCE := f k.tlbCE, tlbIF := f k.tlbIF }
/-- An access of the core that a selected entry translated is not performed yet, whether or not a TLB still holds the entry; one that waits for a
full word among them. -/
def Core.stillUses (k : Core) (asid : BitVec 16) (lo hi : Nat) : Bool :=
  k.part.strands.any fun x => (x.2.out.any fun a => !a.performed && a.via.any fun e => e.shot asid lo hi)
    || x.2.asleep.any fun z => !z.released && z.via.any fun e => e.shot asid lo hi
/-- A shootdown completes (R269). -/
def State.shootdown (s : State) (asid : BitVec 16) (lo hi : Nat) : Option State :=
  if s.cores.any fun e => e.2.stillUses asid lo hi then none
  else some { s with cores := s.cores.map fun e => (e.1, e.2.shoot asid lo hi) }
/-- SHOOTDOWN (R269). -/
def execShootdown (asid : BitVec 16) (lo hi : VAddr) (s : State) : Host.Outcome State Fault Refusal :=
  stutter s (s.shootdown asid lo.toNat hi.toNat)

end Sys2Proof.Machine
end

