-- ==== Sys2Proof/Machine/EvReliab.lean ====
section
/-!
DEFINITION. Containment rectangles (R300 to R302), redundant pairs (R206, R304), in-field test (R306 to R308) and soft-error
counters (R305).
-/
namespace Sys2Proof.Machine

/-! ## Containment -/

def State.rect? (s : State) (r : Nat) : Option Rect := (s.rects.find? fun e => e.1 == r).map (·.2)
def State.setRect (s : State) (r : Nat) (x : Rect) : State := { s with rects := Tab.put r x s.rects }
/-- The cores of a rectangle. -/
def Rect.cores (r : Rect) : List Nat := (span r.y0 r.h).flatMap fun y => (span r.x0 r.w).map fun x => coreAt r.d x y
/-- The supervisor's fence command (R300): a rectangle of R10, at most 16 active, no core in two. -/
def State.fence (s : State) (d x0 y0 w h : Nat) : Option State :=
  let r : Rect := { d := d, x0 := x0, y0 := y0, w := w, h := h, state := .fencing, since := s.time }
  let legal := d < 4 && 1 ≤ w && 1 ≤ h && x0 + w ≤ 64 && y0 + h ≤ 32
  if !legal || 16 ≤ (s.rects.filter fun e => !e.2.dual).length || r.cores.any fun c => s.rects.any fun e => e.2.has c then none
  else some { s.setRect s.nextId r with nextId := s.nextId + 1 }
/-- CONTAINMENT_FENCE (R300). -/
def execContainmentFence (d x0 y0 w h : Nat) (s : State) : Host.Outcome State Fault Refusal := stutter s (s.fence d x0 y0 w h)

/-- The effective address of word `k` of those that a sleeping LDS or LDE waits for, the word's number `w` (R90). -/
def Strand.sleepEva (st : Strand) (i : Instr) (w k : Nat) : Nat :=
  match i with
  | .lds _ b m off | .lde _ b m off =>
    let p := st.xptr b.val
    match m with
    | .C => 4 * w % 0x20000 / 4 * 128 + 4 * w / 0x20000 % 32 * 4
    | .L => 4 * w % 0x20000
    | .N => 4 * w
    | .G => gEa p off (accsize (fmtof p)) / 4 * 4 + 4 * k
  | _ => 4 * w
/-- Some byte lies in a TCM of the rectangle. -/
def Rect.holds (r : Rect) (bytes : List Nat) : Bool := bytes.any fun b => match tcmCore b with | some q => r.has q | none => false
/-- An outside strand that sleeps on a word of the rectangle takes 0x16 between bundles (Table 14.9). -/
def State.withdraw (r : Rect) (s : State) (c t : Nat) : State :=
  let st := s.strand c t
  match st.asleep with
  | some z =>
    if r.has (s.selfCore c) || z.kind != .full then s
    else
      match z.words.zipIdx.find? fun w => r.holds [4 * w.1] with
      | some (w, k) =>
        (s.setStrand c t { st with asleep := none }).takeFault c t
          { code := 0x16, acc := accOf z.control, eva := st.sleepEva z.control w k } false true false false st.pc
      | none => s
  | none => s
/-- What becomes of a strand's outstanding accesses at the instant of fencing (R301): those of a fenced agent are never performed;
those into the rectangle end with 0x16, and so does an atomic performed there whose reply had not left, which `left` says of its number; `inside`
says whether the strand's own core is in the rectangle. -/
def fenceStrand (r : Rect) (left : Nat → Bool) (inside : Bool) (st : Strand) : Strand :=
  if inside then { st with out := st.out.filter (·.performed) }
  else
    let ends (a : Access) : Bool := Rect.holds r a.bytes && (!a.performed || (a.op.isAtomic && !left a.id))
    { st with out := st.out.map fun a => if ends a then { a with err := some { code := 0x16, acc := a.op.acc, eva := a.ea } } else a }
/-- The numbers by which releases name the accesses of the rectangle's agents that are not performed yet. -/
def State.lostBy (s : State) (r : Rect) : List Nat :=
  s.cores.flatMap fun k => if r.has (s.selfCore k.1) then k.2.part.strands.flatMap fun e => e.2.openIds else []
/-- The numbers by which releases name a send. -/
def Flit.names (f : Flit) : List Nat := f.id :: f.ord.toList
/-- A save whose landing path lies in the rectangle is cut off from arrivals, and a forwarding window of one that has moved ends (R302). -/
def Image.cutBy (r : Rect) (now : Nat) (im : Image) : Image :=
  if !r.has im.oldCore then im
  else if im.restored.isNone then { im with cut := true }
  else { im with until_ := Nat.min im.until_ now }
/-- Every edge port refuses (R301): accesses, flits on their way out, waiters, barrier domains, landing paths. Whether the reply of an atomic
that was performed in the rectangle had left is a free value (log 58). -/
def State.fenced! (s : State) (id : Nat) : Option State :=
  match s.rect? id with
  | none => none
  | some r =>
    if r.state != .fencing then none
    else
      let s1 := s.setRect id { r with state := .fenced, since := s.time }
      let gone := s.flits.filter fun f => f.state.pending && r.has f.src && (f.kind == 4 || !r.has f.dst)
      let fence (k : Nat × Core) : Nat × Core :=
        (k.1, { k.2 with part := { k.2.part with strands := k.2.part.strands.map fun e =>
          (e.1, fenceStrand r (fun a => (Config.freeBits (s.freeCtr + a)).getLsbD 0) (r.has (s.selfCore k.1)) e.2) } })
      let s2 : State := { s1 with
        lost := s1.lost ++ s.lostBy r ++ gone.flatMap Flit.names
        flits := s1.flits.filter fun f => !gone.any (·.id == f.id)
        images := s1.images.map fun e => (e.1, e.2.cutBy r s.time)
        freeCtr := s1.freeCtr + s1.nextId
        cores := s1.cores.map fence }
      let s3 := (s2.cores.map (·.1)).foldl (fun s c => [0, 1, 2, 3].foldl (fun s t => State.withdraw r s c t) s) s2
      some ((s3.domains.filter fun e => e.2.members.any r.has).foldl (fun s e => s.breakDomain e.1) s3)
/-- CONTAINMENT_FENCED (R301). -/
def execContainmentFenced (r : Nat) (s : State) : Host.Outcome State Fault Refusal := stutter s (s.fenced! r)

/-- The user part of a core's TCM is written to zero with every word full (R302). -/
def State.zeroTcm (s : State) (c : Nat) : State :=
  { s with
    mem := s.mem.filter fun e => !inUser c e.1
    empties := s.empties.filter fun w => !inUser c (4 * w)
    badWords := s.badWords.filter fun w => !inUser c (4 * w)
    records := s.records.filter fun r => !r.bytes.any (inUser c) }
/-- A core resets (R302): its registers and units; its curve, its TLBs and its counters stay. -/
def Core.reset_ (k : Core) : Core :=
  { k with
    part := {}, last := 3, churnQ := [], churnRun := none, engQ := [], engRun := none, dtab := none
    churnMiss := none, churnMissFault := none, engMiss := none, engMissFault := none
    exch := {}, seqNo := [], effects := [], curve := { k.curve with floor := false } }
/-- The task of the member on core c ends by the reset: reported with 0x3D, where a cause is given (R302, R304), and a DUAL partner is free. Where
only that partner lies in the rectangle, the pair's task ends on the primary. -/
def State.resetTask (s : State) (c : Nat) (cause : Option Nat) : State :=
  let p := (s.core c).part
  if !p.occupied then s
  else if p.mirror then
    match p.partner, cause with
    | some q, some code =>
      let m := (s.core q).part
      let s0 := if m.charged then s.setPart c ((s.core c).accrue 1) else s
      if m.occupied && m.partner == some c then (s0.account (s0.core c).part).setPart q { m.endTask (some code) false with partner := none } else s
    | _, _ => s
  else
    let s1 := (s.closeAccount c).breakDomains p.launch c
    let s2 := match p.partner with | some q => s1.setPart q { (s1.core q).part with done := true } | none => s1
    match cause with
    | some code => s2.report p.launch p.rank (some code) false
    | none => s2
/-- The matching caps around core c and a DUAL pair's partner q are worked out anew (Table 1.4). -/
def State.rematchAll (s : State) (c : Nat) (q : Option Nat) : State := (c :: q.toList).foldl State.rematch s
/-- Core c of a rectangle resets, its task and the shared resources that it held with it (R302). -/
def State.resetCore (cause : Option Nat) (s : State) (c : Nat) : State :=
  let s1 := ((s.resetTask c cause).freeLanesOf c).zeroTcm c
  let o := s1.octet (octetOf c)
  let s2 := (s1.setOctet (octetOf c) { o with sfu := o.sfu.filter (·.core != c) }).setCore c ((s1.core c).reset_)
  let s3 : State := { s2 with
    flits := s2.flits.filter (·.src != c)
    windows := s2.windows.filter fun w => w.unit != c && w.unit != 20000 + c && w.unit != 30000 + c
    lost := s2.lost ++ ((s.core c).part.strands.flatMap fun e => e.2.openIds)
      ++ (s.flits.filter fun f => f.src == c && f.state.pending).flatMap Flit.names }
  let q := (s.core c).part.partner
  (s3.liftCaps c q).rematchAll c q
/-- 20 µs of reset are over: the rectangle's cores run the pattern (Table 18.1). -/
def State.containTest (s : State) (id : Nat) : Option State :=
  match s.rect? id with
  | none => none
  | some r =>
    if r.state != .reset || s.time < r.since + 40000 then none
    else some (s.setRect id { r with state := .test, since := s.time })
/-- CONTAINMENT_TEST (R300). -/
def execContainmentTest (r : Nat) (s : State) : Host.Outcome State Fault Refusal := stutter s (s.containTest r)

/-! ## In-field test -/

def State.onTest (s : State) (c : Nat) (f : TestState → TestState) : State :=
  let k := s.core c
  s.setCore c { k with test := f k.test }
/-- A suspect-result record (Table 18.4). -/
def suspectEntry (launch c wstart wend : Nat) : Nat :=
  1 + c * 2 ^ 8 + launch % 2 ^ 32 * 2 ^ 32 + wstart % 2 ^ 64 * 2 ^ 64 + wend % 2 ^ 64 * 2 ^ 128 + 0x3E * 2 ^ 192
/-- The member's task, or an earlier run of it, ended on core c within the window from `start` to `now` (R307). -/
def Member.endedOn (m : Member) (c start now : Nat) : Bool :=
  ((m.core == c || m.partner == some c) && m.ended && start ≤ m.endTime && m.endTime ≤ now)
    || m.past.any fun e => e.1 == c && start ≤ e.2 && e.2 ≤ now
/-- A record is emitted for every launch whose member task on core c ended within the window (R307). -/
def State.suspects (s : State) (c start now : Nat) : State :=
  s.launches.foldl (fun z e => if e.2.members.any fun m => m.endedOn c start now then z.postEvent (suspectEntry e.1 c start now) else z) s
/-- A core fails its pattern (R307): it leaves the map, the domains that it is a member of are broken (R215), and suspect records are
emitted from its last pass on. -/
def State.failCore (s : State) (c : Nat) : State :=
  let s1 := s.onTest c fun t => { t with inMap := false, testing := false, heldOut := false }
  let s2 := (s1.domains.filter fun e => e.2.member c).foldl (fun s e => s.breakDomain e.1) s1
  s2.suspects c ((s.lastPass c).getD 0) s.time
/-- A core passes: its window restarts (R308). -/
def State.passCore (s : State) (c : Nat) : State :=
  s.onTest c fun t => { t with testing := false, heldOut := false, early := false, passed := true, lastPass := s.time }
/-- 200 µs of the pattern are over: passing cores are open again, failing ones are removed (R300, R307, R308). -/
def State.containTestEnd (s : State) (id : Nat) (failed : List Nat) : Option State :=
  match s.rect? id with
  | none => none
  | some r =>
    if r.state != .test || s.time < r.since + 400000 then none
    else
      let s1 : State := { s with rects := Tab.erase id s.rects }
      some (r.cores.foldl (fun s c => if failed.contains c then s.failCore c else s.passCore c) s1)
/-- CONTAINMENT_TEST_END (R308). -/
def execContainmentTestEnd (r : Nat) (failed : List Nat) (s : State) : Host.Outcome State Fault Refusal :=
  stutter s (s.containTestEnd r failed)

/-- The control complex tests only a core of the map without a resident context or a landing path (R306), and none while
suspect records wait in its store (R311). -/
def State.testStart (s : State) (c : Nat) : Option State :=
  let k := s.core c
  let landing := s.images.any fun e => e.2.oldCore == c && (e.2.restored.isNone || (!e.2.closed && s.time < e.2.until_))
  if !s.inMap c || k.part.occupied || landing || k.test.testing || !s.host.store.isEmpty || s.rects.any fun e => e.2.has c then none
  else
    let o := octetOf c
    let el := s.eligible o k.curve.target
    let s1 := s.setOctet o ((s.octet o).own ((el.take (grantOf 16 el.length)).map (·.2)) (some (4 * c)))
    some (s1.onTest c fun t => { t with testing := true, since := s.time })
/-- INFIELD_TEST_START (R306). -/
def execInfieldTestStart (c : CoreId) (s : State) : Host.Outcome State Fault Refusal := stutter s (s.testStart c.val)
/-- A test's end: its lanes return, and the TCM is written as a reset writes it (R306). -/
def State.testDone (s : State) (c : Nat) : State := (s.freeLanesOf c).zeroTcm c
/-- A launch of higher PRIO than the running test's waits for core c (R306): it is eligible, cannot be placed, and could take the core. -/
def State.testInWay (s : State) (c : Nat) : Bool :=
  s.launches.any fun e =>
    let p := e.2.packet
    s.eligibleLaunch e.1 e.2 && (s.core c).test.prio < p.prio && (s.pick e.2).isNone
      && (if p.listed then ((s.memberList e.2.ctx p).getD []).any fun m => m.1 == c || (p.dual && partnerOf m.1 == c)
          else p.qualifies (s.core c))
/-- A test that stands in the way of such a launch aborts: neither a pass nor a fail (R306). -/
def State.testAbort (s : State) (c : Nat) : Option State :=
  if (s.core c).test.testing && s.testInWay c then some ((s.testDone c).onTest c fun t => { t with testing := false }) else none
/-- INFIELD_TEST_ABORT (R306). -/
def execInfieldTestAbort (c : CoreId) (s : State) : Host.Outcome State Fault Refusal := stutter s (s.testAbort c.val)
/-- The pattern has run for 200 µs. -/
def State.patternOver (s : State) (c : Nat) : Bool := (s.core c).test.testing && (s.core c).test.since + 400000 ≤ s.time
/-- INFIELD_TEST_PASS (R308). -/
def execInfieldTestPass (c : CoreId) (s : State) : Host.Outcome State Fault Refusal :=
  stutter s (if s.patternOver c.val then some ((s.testDone c.val).passCore c.val) else none)
/-- INFIELD_TEST_FAIL (R307). -/
def execInfieldTestFail (c : CoreId) (s : State) : Host.Outcome State Fault Refusal :=
  stutter s (if s.patternOver c.val then some ((s.testDone c.val).failCore c.val) else none)
/-- A core without a pass for 24 hours is held out of the free cores until it passes (R306). -/
def State.passExpires (s : State) (c : Nat) : Option State :=
  let t := (s.core c).test
  if t.inMap && !t.heldOut && !s.inTerm c then some (s.onTest c fun t => { t with heldOut := true }) else none
/-- INFIELD_PASS_EXPIRY (R306). -/
def execInfieldPassExpiry (c : CoreId) (s : State) : Host.Outcome State Fault Refusal := stutter s (s.passExpires c.val)

/-! ## Soft errors -/

def sat32 (n : BitVec 32) : BitVec 32 := if n = BitVec.allOnes 32 then n else n + 1
/-- An hour of fabric time. -/
def hour : Nat := 7200000000000
/-- The times of the last 4,097 corrections, newest first; whether they all lie within an hour. -/
def noteSoft (now : Nat) (l : List Nat) : List Nat × Bool :=
  let l1 := (now :: l).take 4097
  (l1, l1.length == 4097 && now ≤ l1.getLastD 0 + hour)
/-- A corrected soft error is counted (R305); more than 4,096 within an hour bring a core's test forward, and of the octet's count those of
all its cores. -/
def State.softError (s : State) (c : Nat) (oct : Bool) : State :=
  if oct then
    let o := s.octet (octetOf c)
    let (l, hot) := noteSoft s.time o.softTimes
    let s1 := s.setOctet (octetOf c) { o with soft := sat32 o.soft, softTimes := l }
    if hot then (octetCores (octetOf c)).foldl (fun s k => s.onTest k fun t => { t with early := true }) s1 else s1
  else
    let k := s.core c
    let (l, hot) := noteSoft s.time k.test.softTimes
    s.setCore c { k with softCore := sat32 k.softCore, test := { k.test with softTimes := l, early := k.test.early || hot } }
/-- SOFT_ERROR_CORRECTED (R305). -/
def execSoftErrorCorrected (c : CoreId) (oct : Bool) (s : State) : Host.Outcome State Fault Refusal := .next (s.softError c.val oct)

/-! ## Redundant pairs -/

/-- A fresh pair for a task's re-run (R206): the lowest free core with a free partner, within the limits of the launch's
barrier domains (R338). -/
def State.freshPair (s : State) (l : Launch) (launch c : Nat) : Option Nat :=
  let im : Image := { part := { launch := launch }, oldCore := c, kv := false, tcm := [], empties := [] }
  (span 0 8192).find? fun q => s.placeable l.packet q && s.domainLimits im q
/-- The member's part as it stood at release, on a fresh pair (R206). -/
def State.rerun (s : State) (id : Nat) (l : Launch) (old : Part) (c q : Nat) : State :=
  let r : StrandRegs := ((old.strands.head?.map fun e => e.2.regs).getD {})
  let m := l.members.getD old.rank { core := c, stage := 0 }
  let share := (r.share.toNat, r.offset.toNat)
  let part := { s.partAt l id q old.rank m.stage l.members.length share r.gspeed.toNat r.rangep.toNat {} (some (partnerOf q)) with
    alias_ := some (old.alias_.getD c) }
  let s1 := (s.placeMember q part).placeMember (partnerOf q)
    { resident := true, mirror := true, ctx := l.ctx, launch := id, rank := old.rank, partner := some q }
  let s2 := s1.setCore q { (s1.core q) with seqNo := m.seqStart }
  let s3 := s2.moveMember id c q
  (s3.rematch q).rematch (partnerOf q)
/-- A pair's outgoing items differ, or one does not appear (R206, R304): both cores are fenced at once, as a rectangle of their own, which does not
count against the 16 of R300, whatever other rectangle a core of theirs lies in. A pair that is fenced so already is no further pair. -/
def State.dualFail (s : State) (c : Nat) : Option State :=
  let p := (s.core c).part
  match p.partner with
  | some _ =>
    if !p.occupied || p.mirror || s.rects.any (fun e => e.2.dual && e.2.has c) then none
    else
      let r : Rect :=
        { d := dieOf c, x0 := coreX c, y0 := coreY c / 2 * 2, w := 1, h := 2, state := .fencing, since := s.time, dual := true }
      State.fenced! { s.setRect s.nextId r with nextId := s.nextId + 1 } s.nextId
  | none => none
/-- DUAL_MISMATCH (R304). -/
def execDualMismatch (c : CoreId) (s : State) : Host.Outcome State Fault Refusal := stutter s (s.dualFail c.val)
/-- An outgoing item of the pair has waited at the router for 64 µs (R206): an access that is not performed, or a flit that is not taken. -/
def State.itemWaits (s : State) (c : Nat) : Bool :=
  ((s.core c).part.strands.any fun e => e.2.out.any fun a => !a.performed && a.since + us64 ≤ s.time)
    || s.flits.any fun f => f.src == c && f.state.pending && f.since + us64 ≤ s.time
/-- DUAL_PARTNER_TIMEOUT (R206). -/
def execDualPartnerTimeout (c : CoreId) (s : State) : Host.Outcome State Fault Refusal :=
  stutter s (if s.itemWaits c.val then s.dualFail c.val else none)

/-! ## Resets -/

/-- The reset ends the member's run on both cores of its pair (R302, R304), which R307 asks for. -/
def State.notePast (s : State) (id rank : Nat) (cores : List Nat) : State :=
  match s.launch? id with
  | some l => s.setLaunch id { l with members := l.members.mapIdx fun i m => if i = rank then { m with past := m.past ++ cores.map fun c => (c, s.time) } else m }
  | none => s
/-- A member's task that waits to be re-run goes to a fresh pair, once there is one, and the launch's status carries DUALRR (R206, R304, log 48). -/
def State.rerunNext (s : State) (id : Nat) : Option State :=
  match s.launch? id with
  | none => none
  | some l =>
    match l.reruns with
    | [] => none
    | r :: rest =>
      (s.freshPair l id r.core).map fun q =>
        let l1 := { l with reruns := rest, flags := l.flags ||| 0x40#8 }
        (s.setLaunch id l1).rerun id l1 r.old r.core q
/-- The failed pair of core c and partner q resets without a 0x3D (R304): its task is to be re-run on a fresh pair, at once where one is free, unless
more than 64 effects went to one unit, which ends it with 0x3C (R206, log 48), or its launch's TIMEOUT has ended it (R291). -/
def State.dualReset (s : State) (c q : Nat) (l : Launch) : State :=
  let p := (s.core c).part
  let many := (s.core c).effects.any fun e => 64 < e.2
  let s2 := s.closeAccount c
  let bare (s : State) (x : Nat) : State := s.setPart x { (s.core x).part with done := true }
  let clear (s : State) : State := State.resetCore none (State.resetCore none (bare (bare s c) q) c) q
  let arr (d : Domain) : Domain := { d with arrivals := d.arrivals.filter fun a => a.core != c }
  if l.flags.getLsbD 2 then clear (s2.report p.launch p.rank none false)
  else if many then clear ((s2.breakDomains p.launch c).report p.launch p.rank (some 0x3C) false)
  else
    let s3 : State := { s2.notePast p.launch p.rank [c, q] with domains := s2.domains.map fun e => (e.1, arr e.2) }
    let s4 := match s3.launch? p.launch with
      | some l1 => s3.setLaunch p.launch { l1 with reruns := l1.reruns ++ [{ old := p, core := c }] }
      | none => s3
    let s5 := clear s4
    (s5.rerunNext p.launch).getD s5
/-- The reset of a fenced rectangle, at the supervisor's command (R302); of a failed DUAL pair's, at the router's (R304). -/
def State.containReset (s : State) (id : Nat) : Option State :=
  match s.rect? id with
  | none => none
  | some r =>
    if r.state != .fenced then none
    else
      let s1 := s.setRect id { r with state := .reset, since := s.time }
      let primary := r.cores.find? fun c => (s.core c).part.occupied && !(s.core c).part.mirror && (s.core c).part.partner.isSome
      match r.dual, primary with
      | true, some c =>
        match s.launch? (s.core c).part.launch with
        | some l => some (s1.dualReset c (partnerOf c) l)
        | none => some (r.cores.foldl (State.resetCore none) s1)
      | true, none => some (r.cores.foldl (State.resetCore none) s1)
      | false, _ => some (r.cores.foldl (State.resetCore (some 0x3D)) s1)
/-- CONTAINMENT_RESET (R302). -/
def execContainmentReset (r : Nat) (s : State) : Host.Outcome State Fault Refusal := stutter s (s.containReset r)
/-- The launch engine's turn at a launch: a member that waits for a fresh pair is re-run (R206), else the launch is released (R278). -/
def State.releaseNext (s : State) (id : Nat) : Option State :=
  match s.rerunNext id with
  | some s1 => some s1
  | none => s.release id
/-- LAUNCH_RELEASE (R278). -/
def execLaunchRelease (id : Nat) (s : State) : Host.Outcome State Fault Refusal := stutter s (s.releaseNext id)
/-- The steps that containment takes of itself (Table 18.1, R304): FENCED within 1 µs, a failed pair's reset, TEST after 20 µs. -/
def State.containStep (s : State) (id : Nat) : Option State :=
  match s.rect? id with
  | none => none
  | some r =>
    match r.state with
    | .fencing => if r.since + 2000 ≤ s.time then s.fenced! id else none
    | .fenced => if r.dual then s.containReset id else none
    | .reset => s.containTest id
    | .test => none

end Sys2Proof.Machine
end

