-- ==== Sys2Proof/Machine/Verify.lean ====
section
/-!
DEFINITION. What a start verifies of an image (R317): SHA3-384, RSASSA-PSS with SHA-384 for a 3072-bit key, and SLH-DSA-SHAKE-192s. The rule
names the algorithms and gives none of their steps: those are PRESUMED, from FIPS 202, FIPS 180-4, RFC 8017 and FIPS 205 (log 71). Byte
strings are lists of numbers below 256.
-/
namespace Sys2Proof.Machine

/-- A byte string as a number, the first byte most significant. -/
def fromBE (l : List Nat) : Nat := l.foldl (fun a b => 256 * a + b) 0
/-- The n bytes of a number, the most significant first. -/
def toBE (n v : Nat) : List Nat := ((List.range n).map fun k => v / 256 ^ k % 256).reverse
def fromLE (l : List Nat) : Nat := l.foldr (fun b a => b + 256 * a) 0
def toLE (n v : Nat) : List Nat := (List.range n).map fun k => v / 256 ^ k % 256
/-- The consecutive pieces of n bytes of a string, at most `fuel` of them. -/
def pieces (n : Nat) : Nat → List Nat → List (List Nat)
  | 0, _ => []
  | k + 1, l => if l.isEmpty then [] else l.take n :: pieces n k (l.drop n)

/-! ## SHA-3 and SHAKE (FIPS 202) -/

def rotl64 (v n : Nat) : Nat := (v <<< n ||| v >>> (64 - n)) % 2 ^ 64
/-- One step of the linear feedback register that makes the round constants. -/
def keccakLfsr (r : Nat) : Nat := let x := 2 * r; if 256 ≤ x then x ^^^ 0x171 else x
/-- The 7 bits of a round's constant, at 2^j − 1, and the register after them. -/
def keccakConst : Nat → Nat → Nat × Nat
  | 0, r => (0, r)
  | j + 1, r =>
    let p := keccakConst j r
    (p.1 + (p.2 % 2) <<< (2 ^ j - 1), keccakLfsr p.2)
/-- The rotation offsets of the lanes, at x + 5y. -/
def keccakRot : List Nat :=
  [0, 1, 62, 28, 27, 36, 44, 6, 55, 20, 3, 10, 43, 25, 39, 41, 45, 15, 21, 8, 18, 2, 61, 56, 14]
/-- A round: theta, rho and pi, chi, and iota with the constant `rc`. Lanes stand at x + 5y. -/
def keccakRound (a : List Nat) (rc : Nat) : List Nat :=
  let at_ (l : List Nat) (i : Nat) := l.getD i 0
  let c := (List.range 5).map fun x => at_ a x ^^^ at_ a (x + 5) ^^^ at_ a (x + 10) ^^^ at_ a (x + 15) ^^^ at_ a (x + 20)
  let d := (List.range 5).map fun x => at_ c ((x + 4) % 5) ^^^ rotl64 (at_ c ((x + 1) % 5)) 1
  let b := (List.range 25).map fun i =>
    let x := (i % 5 + 3 * (i / 5)) % 5
    let j := x + 5 * (i % 5)
    rotl64 (at_ a j ^^^ at_ d x) (at_ keccakRot j)
  (List.range 25).map fun i =>
    let y := i / 5 * 5
    let v := at_ b i ^^^ ((2 ^ 64 - 1 - at_ b (y + (i + 1) % 5)) &&& at_ b (y + (i + 2) % 5))
    if i = 0 then v ^^^ rc else v
def keccakRounds : Nat → Nat → List Nat → List Nat
  | 0, _, a => a
  | n + 1, r, a =>
    let c := keccakConst 7 r
    keccakRounds n c.2 (keccakRound a c.1)
def keccakF (a : List Nat) : List Nat := keccakRounds 24 1 a
/-- A block is added to the state and permuted. -/
def keccakAbsorb (a : List Nat) (block : List Nat) : List Nat :=
  let w := (pieces 8 25 block).map fromLE
  keccakF (a.mapIdx fun i v => v ^^^ w.getD i 0)
/-- The message padded to blocks of `rate` bytes, after the suffix `suf`. -/
def keccakPad (rate suf : Nat) (m : List Nat) : List Nat :=
  let n := rate - m.length % rate
  m ++ (if n = 1 then [suf + 0x80] else suf :: List.replicate (n - 2) 0 ++ [0x80])
def keccakSqueeze (rate : Nat) : Nat → List Nat → List Nat
  | 0, _ => []
  | n + 1, a => (a.flatMap (toLE 8)).take rate ++ keccakSqueeze rate n (keccakF a)
def sponge (rate suf out : Nat) (m : List Nat) : List Nat :=
  let p := keccakPad rate suf m
  let a := (pieces rate p.length p).foldl keccakAbsorb (List.replicate 25 0)
  (keccakSqueeze rate ((out + rate - 1) / rate) a).take out
def sha3_384 (m : List Nat) : List Nat := sponge 104 0x06 48 m
def shake256 (m : List Nat) (out : Nat) : List Nat := sponge 136 0x1F out m

/-! ## SHA-384 (FIPS 180-4) -/

/-- The largest r with r ^ e ≤ v and r < 2 ^ n + acc, from `acc` on by bits. -/
def rootFrom (e v : Nat) : Nat → Nat → Nat
  | 0, acc => acc
  | n + 1, acc => rootFrom e v n (if (acc + 2 ^ n) ^ e ≤ v then acc + 2 ^ n else acc)
/-- The first 64 bits of the fractional part of the e-th root of p. -/
def rootFrac (e p : Nat) : Nat := rootFrom e (p * 2 ^ (64 * e)) 72 0 % 2 ^ 64
/-- The first n primes above those in `l` (in falling order), by trial. -/
def nextPrimes : Nat → Nat → List Nat → List Nat
  | 0, _, l => l.reverse
  | fuel + 1, k, l => nextPrimes fuel (k + 1) (if l.all fun p => k % p != 0 then k :: l else l)
/-- The first eighty primes. -/
def primes80 : List Nat := nextPrimes 408 2 []
def sha512K : List Nat := primes80.map (rootFrac 3)
def sha384Init : List Nat := ((primes80.drop 8).take 8).map (rootFrac 2)
def rotr64 (v n : Nat) : Nat := (v >>> n ||| v <<< (64 - n)) % 2 ^ 64
/-- The message schedule's words, the latest first. -/
def sha512Sched : Nat → List Nat → List Nat
  | 0, w => w
  | n + 1, w =>
    let s1 (x : Nat) := rotr64 x 19 ^^^ rotr64 x 61 ^^^ x >>> 6
    let s0 (x : Nat) := rotr64 x 1 ^^^ rotr64 x 8 ^^^ x >>> 7
    sha512Sched n ((s1 (w.getD 1 0) + w.getD 6 0 + s0 (w.getD 14 0) + w.getD 15 0) % 2 ^ 64 :: w)
/-- A round with constant and schedule word added to `kw`. -/
def sha512Round (v : List Nat) (kw : Nat) : List Nat :=
  match v with
  | [a, b, c, d, e, f, g, h] =>
    let t1 := h + (rotr64 e 14 ^^^ rotr64 e 18 ^^^ rotr64 e 41) + ((e &&& f) ^^^ ((2 ^ 64 - 1 - e) &&& g)) + kw
    let t2 := (rotr64 a 28 ^^^ rotr64 a 34 ^^^ rotr64 a 39) + ((a &&& b) ^^^ (a &&& c) ^^^ (b &&& c))
    [(t1 + t2) % 2 ^ 64, a, b, c, (d + t1) % 2 ^ 64, e, f, g]
  | v => v
def sha512Block (h : List Nat) (block : List Nat) : List Nat :=
  let w := (sha512Sched 64 ((pieces 8 16 block).map fromBE).reverse).reverse
  List.zipWith (fun a b => (a + b) % 2 ^ 64) h ((List.zipWith (· + ·) sha512K w).foldl sha512Round h)
def sha384 (m : List Nat) : List Nat :=
  let z := (239 - m.length % 128) % 128
  let p := m ++ [0x80] ++ List.replicate z 0 ++ toBE 16 (8 * m.length)
  (((pieces 128 p.length p).foldl sha512Block sha384Init).flatMap (toBE 8)).take 48

/-! ## RSASSA-PSS (RFC 8017) -/

/-- b to the power e modulo n, by e's bits, of which there are at most `fuel`. -/
def powMod : Nat → Nat → Nat → Nat → Nat
  | 0, _, _, n => 1 % n
  | fuel + 1, b, e, n =>
    if e = 0 then 1 % n
    else
      let r := powMod fuel (b * b % n) (e / 2) n
      if e % 2 = 1 then b * r % n else r
/-- The mask generation function with SHA-384. -/
def mgf384 (seed : List Nat) (out : Nat) : List Nat :=
  ((List.range ((out + 47) / 48)).flatMap fun k => sha384 (seed ++ toBE 4 k)).take out
/-- The encoded message `em`, 384 bytes that hold 3,071 bits, is one of `m`; the salt is as long as the hash. -/
def pssEncoded (m em : List Nat) : Bool :=
  let masked := em.take 335
  let h := (em.drop 335).take 48
  let db := List.zipWith (· ^^^ ·) masked (mgf384 h 335)
  let db := match db with | b :: l => b % 128 :: l | [] => []
  em.getD 383 0 == 0xBC && em.getD 0 0 < 128 && db.take 287 == List.replicate 286 0 ++ [1]
    && h == sha384 (List.replicate 8 0 ++ sha384 m ++ db.drop 287)
/-- The signature `sig` of `m` verifies under the 3072-bit modulus and the exponent that `key` holds, each most significant byte first. -/
def rsaVerifies (key m sig : List Nat) : Bool :=
  let n := fromBE (key.take 384)
  let e := key.drop 384
  let s := fromBE sig
  2 ^ 3071 ≤ n && sig.length == 384 && s < n && pssEncoded m (toBE 384 (powMod (8 * e.length) s (fromBE e) n))

/-! ## SLH-DSA-SHAKE-192s (FIPS 205): n 24, h 63, d 7, h' 9, a 14, k 17, w 16 -/

/-- An address: layer, tree, type, key pair, and the two words after it. -/
def slhAdrs (layer tree type pair c h : Nat) : List Nat := toBE 4 layer ++ toBE 12 tree ++ toBE 4 type ++ toBE 4 pair ++ toBE 4 c ++ toBE 4 h
/-- F, H and T: the hash of a string under the public seed and an address. -/
def slhHash (seed adrs m : List Nat) : List Nat := shake256 (seed ++ adrs ++ m) 24
/-- The first `n` numbers of b bits of a string, the most significant first. -/
def base2b (m : List Nat) (b n : Nat) : List Nat :=
  let v := fromBE m / 2 ^ (8 * m.length - b * n)
  ((List.range n).map fun k => v / 2 ^ (b * k) % 2 ^ b).reverse
/-- The chain from step i on, of `n` steps; `adrs` gives the address of a step. -/
def slhChain (seed : List Nat) (adrs : Nat → List Nat) : Nat → Nat → List Nat → List Nat
  | 0, _, x => x
  | n + 1, i, x => slhChain seed adrs n (i + 1) (slhHash seed (adrs i) x)
/-- The root that a leaf's node and its authentication path give; `adrs h i` is the address of node i at height h. -/
def slhClimb (seed : List Nat) (adrs : Nat → Nat → List Nat) : List (List Nat) → Nat → Nat → List Nat → List Nat
  | [], _, _, node => node
  | s :: auth, h, i, node =>
    slhClimb seed adrs auth (h + 1) (i / 2) (slhHash seed (adrs (h + 1) (i / 2)) (if i % 2 = 0 then node ++ s else s ++ node))
/-- The WOTS+ public key that the 51 values `sig` give for the 24-byte message m. -/
def wotsKey (seed : List Nat) (layer tree pair : Nat) (sig : List (List Nat)) (m : List Nat) : List Nat :=
  let l := base2b m 4 48
  let sum := l.foldl (fun a x => a + (15 - x)) 0
  let l := l ++ base2b (toBE 2 (16 * sum)) 4 3
  let ends := (List.zip l sig).mapIdx fun i e => slhChain seed (fun j => slhAdrs layer tree 0 pair i j) (15 - e.1) e.1 e.2
  slhHash seed (slhAdrs layer tree 1 pair 0 0) ends.flatten
/-- The root of an XMSS tree that leaf `leaf`'s signature, 51 values and a path of 9, gives for m. -/
def xmssRoot (seed : List Nat) (layer tree leaf : Nat) (sig : List (List Nat)) (m : List Nat) : List Nat :=
  slhClimb seed (fun h i => slhAdrs layer tree 2 0 h i) (sig.drop 51) 0 leaf (wotsKey seed layer tree leaf (sig.take 51) m)
/-- The root of the hypertree from layer `layer` up. -/
def hyperRoot (seed : List Nat) : Nat → Nat → Nat → Nat → List (List Nat) → List Nat → List Nat
  | 0, _, _, _, _, m => m
  | n + 1, layer, tree, leaf, sig, m =>
    hyperRoot seed n (layer + 1) (tree / 512) (tree % 512) (sig.drop 60) (xmssRoot seed layer tree leaf (sig.take 60) m)
/-- The FORS public key that the 17 trees' signatures, a value and a path of 14 each, give for the indices `l`. -/
def forsRoots (seed : List Nat) (tree leaf : Nat) : List Nat → Nat → List (List Nat) → List Nat
  | [], _, _ => []
  | x :: l, i, sig =>
    let i0 := i * 2 ^ 14 + x
    let node := slhHash seed (slhAdrs 0 tree 3 leaf 0 i0) (sig.headD [])
    slhClimb seed (fun h k => slhAdrs 0 tree 3 leaf h k) ((sig.take 15).drop 1) 0 i0 node ++ forsRoots seed tree leaf l (i + 1) (sig.drop 15)
/-- The signature `sig` of `m` with an empty context verifies under the key: public seed and root. -/
def slhVerifies (key m sig : List Nat) : Bool :=
  let seed := key.take 24
  let root := key.drop 24
  let v := pieces 24 676 sig
  let digest := shake256 (v.headD [] ++ key ++ [0, 0] ++ m) 39
  let tree := fromBE ((digest.drop 30).take 7) % 2 ^ 54
  let leaf := fromBE (digest.drop 37) % 512
  let fors := slhHash seed (slhAdrs 0 tree 4 leaf 0 0) (forsRoots seed tree leaf (base2b (digest.take 30) 14 17) 0 ((v.drop 1).take 255))
  key.length == 48 && sig.length == 16224 && hyperRoot seed 7 0 tree leaf (v.drop 256) fors == root

/-! ## An image -/

def byteNums (l : List Byte) : List Nat := l.map (·.toNat)
/-- The hash of the two keys of the header (R317). -/
def imageKeyHash (i : BootImage) : BitVec 384 := BitVec.ofNat 384 (fromBE (sha3_384 (byteNums (i.rsaKey ++ i.slhKey))))
/-- What the signatures sign: header and body (log 71). -/
def imageBytes (i : BootImage) : List Nat := byteNums (i.rsaKey ++ i.slhKey ++ i.body)
/-- The hash by which a retained copy is told from the image requested (R316). -/
def imageHash (i : BootImage) : List Nat := sha3_384 (imageBytes i ++ byteNums (i.rsaSig ++ i.slhSig))
/-- The image verifies under both keys (R317). -/
def imageSigned (i : BootImage) : Bool :=
  rsaVerifies (byteNums i.rsaKey) (imageBytes i) (byteNums i.rsaSig) && slhVerifies (byteNums i.slhKey) (imageBytes i) (byteNums i.slhSig)

end Sys2Proof.Machine
end

