-- ==== Sys2Proof/Machine/EvBoot.lean ====
section
/-!
DEFINITION. Control complexes (R314, R315) and start-up (R316, R317).
-/
namespace Sys2Proof.Machine

/-- A takeover entry (Table 19.3). -/
def takeoverEntry (k : Control) (reason : Nat) : Nat := 3 + b2n k.activeB * 2 ^ 8 + k.version.toNat * 2 ^ 32 + reason * 2 ^ 64
/-- The roles swap; the complex that was active is then the standby, ready or not. -/
def Control.swap (k : Control) (ready : Bool) : Control :=
  { k with activeB := !k.activeB, version := k.standbyVersion, standbyVersion := k.version, standby := ready, imported := false }
def State.takeover (s : State) (ready : Bool) (reason : Nat) : State :=
  let k := s.control.swap ready
  ({ s with control := k } : State).postEvent (takeoverEntry k reason)

/-- The image's keys have the root hash in mask ROM, and it verifies under both (R317). -/
def Control.verifies (k : Control) (i : BootImage) : Bool := imageKeyHash i == k.rom && imageSigned i
/-- LIVE_UPDATE (R314, R317): the standby boots a new image; it is ready where the image verifies, and it may take over where it can
read the state table's version. -/
def execLiveUpdate (image : BootImage) (readable : Bool) (version : BitVec 32) (s : State) : Host.Outcome State Fault Refusal :=
  let ok := s.control.verifies image
  .next { s with control := { s.control with
    standby := ok, standbyVersion := if ok then version else s.control.standbyVersion, imported := ok && readable } }
/-- ROLE_SWAP (R314): gangs are released whole, so every step is a packet boundary. -/
def execRoleSwap (s : State) : Host.Outcome State Fault Refusal :=
  stutter s (if s.control.imported && s.control.standby then some (s.takeover true 1) else none)
/-- FAILOVER (R315): the standby takes over; without one the device stops releasing. -/
def execFailover (s : State) : Host.Outcome State Fault Refusal :=
  .next (if s.control.standby then s.takeover false 2 else { s with control := { s.control with stopped := true, fail := 5 } })

/-- The steps of Table 19.4: how a start of image `i` ends. FAIL and the step at which it stopped; 0 and 7 for a start that runs through. -/
def startEnd (rom : BitVec 384) (i : BootImage) (d : StartData) (train measure sweep : Bool) : Nat × Nat :=
  if imageKeyHash i != rom then (2, 1) else if !imageSigned i then (1, 1) else if train && !d.trainOk then (3, 3)
  else if measure && !d.measureOk then (4, 4) else if sweep && !d.sweepOk then (4, 5) else (0, 7)
/-- A core after a start: its curve is as measured, at its present temperature where this start measured it, and what it has passed; everything
else is as at reset. -/
def Core.started (k : Core) (inMap measured : Bool) (pass : Option Nat) : Core :=
  { curve := { cvf := k.curve.cvf, cvl := k.curve.cvl, cfreq := curvef k.curve.cvf 550, cleak := leakAt (interp k.curve.cvl 550) k.curve.tj
               tj := k.curve.tj, tjAt := if measured then k.curve.tj else k.curve.tjAt }
    test := { inMap := inMap, usable := k.test.usable, passed := pass.isSome, lastPass := pass.getD 0 } }
/-- Core c's last pass is under 24 h old. -/
def State.freshPass (s : State) (c : Nat) : Bool := (s.lastPass c).any fun p => s.time < p + day
/-- The host port after a start (R310, R311): a warm start clears nothing of it; after a cold start its registers read their reset values. -/
def HostPort.started (h : HostPort) (cold : Bool) : HostPort := if cold then { eqbase := h.eqbase, bar2 := h.bar2 } else h
/-- A launch after a warm start: what it was is kept for suspect records (R307); one that was at work will not complete normally (log 67). -/
def Launch.past (l : Launch) : Launch := if l.complete then l else { l with complete := true, err := true }
/-- The stored curve table is under 24 h old, and every core's junction is within 10 °C of its measurement (R316). -/
def State.curvesFresh (s : State) : Bool :=
  (s.control.curveTime.any fun p => s.time < p + day) && s.cores.all fun e => !e.2.test.inMap || (e.2.curve.tj - e.2.curve.tjAt).natAbs ≤ 10
/-- Every core of the map, and core 8192, which stands for those of which nothing is recorded, has passed within 24 h (R316). -/
def State.sweepFresh (s : State) : Bool := (s.cores.all fun e => s.freshPass e.1 || !e.2.test.inMap) && s.freshPass 8192
/-- The copy of the image that LP6 retains is the one requested (R316). -/
def Control.retained (k : Control) (i : BootImage) : Option BootImage := k.image.filter fun x => imageHash x == imageHash i
/-- What a start skips (Table 19.4): the load, training, the measurement, and for a core the sweep. -/
structure StartSkip where
  load : Bool := false
  train : Bool := false
  measure : Bool := false
  sweep : Bool := false
/-- BOOTSTAT.SKIP (Table 19.5). -/
def StartSkip.bits (k : StartSkip) : BitVec 4 := BitVec.ofNat 4 (b2n k.load + 2 * b2n k.train + 4 * b2n k.measure + 8 * b2n k.sweep)
/-- BOOTSTAT's report, signed by the device identity key (R317). -/
def Control.attested (k : Control) (key : BitVec 256) : Control :=
  { k with identity := some key, report := some { stat := k.bootstat, sig := Config.attest key k.bootstat } }
/-- The control complexes after a start that runs through. -/
def Control.started (k : Control) (i : BootImage) (d : StartData) (cold : Bool) (skip : StartSkip) (now : Nat) (rest : Bool) : Control :=
  Control.attested
    { version := d.version, standbyVersion := d.version, standby := true, ms := d.ms, skip := skip.bits, cold := cold, step := 7
      peer := d.peer, tapeArea := k.tapeArea, source := if skip.load then k.source else some d.source, rom := k.rom, image := some i
      curveTime := if skip.measure then k.curveTime else some now, swept := if rest then some now else k.swept } d.identity
/-- The state after a start that runs through (R316): the machine as at reset, with its contexts as the supervisor creates them
(log 5), its measured curves, and the logical core map; the lanes' points as measured before a warm start. Fabric time runs on over a warm start
(log 67). A core that fails the sweep is not in the map, and suspect records are emitted for it (R307). -/
def State.started (s : State) (i : BootImage) (d : StartData) (cold : Bool) (skip : StartSkip) (fresh : Nat → Bool) (mem : Memory) : State :=
  let now := if cold then 0 else s.time
  let fails (c : Nat) : Bool := (cold || s.inMap c) && !fresh c && d.failed.contains c
  let core (e : Nat × Core) : Nat × Core :=
    let ok := (cold || e.2.test.inMap) && !fails e.1
    (e.1, e.2.started ok (!skip.measure) (if fresh e.1 then s.lastPass e.1 else if ok then some now else none))
  let missing := d.failed.filter fun c => !Tab.has c s.cores
  let rest := !(s.control.swept.any fun p => s.time < p + day && !cold)
  let s1 : State := { State.reset with
    mem := mem, hostMem := s.hostMem, time := now, lastTick := now, lastBudget := now
    cores := (if rest then missing else []).foldl (fun t c => Tab.put c (Core.started {} false (!skip.measure) none) t) (s.cores.map core)
    octets := if cold then [] else s.octets.map fun e => (e.1, { lanes := e.2.lanes.map fun l => (l.1, { l.2 with owner := none }) })
    ctxs := s.ctxs.map fun e => (e.1, { e.2 with queue := [], tapes := [] })
    launches := if cold then [] else (s.launches.filter (·.2.released)).map fun e => (e.1, e.2.past)
    host := s.host.started cold
    control := s.control.started i d cold skip now rest
    ports := s.ports, portsDown := now, agenda := s.agenda, freeCtr := s.freeCtr, nextId := s.nextId, nextLaunch := s.nextLaunch }
  (d.failed.eraseDups.filter fails).foldl (fun z c => z.suspects c ((s.lastPass c).getD 0) now) s1
/-- A start that a step has ended (R316): the next one is cold. -/
def State.startFailed (s : State) (d : StartData) (cold : Bool) (skip : StartSkip) (e : Nat × Nat) : State :=
  { s with control := { version := s.control.version, ms := d.ms, skip := skip.bits, cold := cold, fail := BitVec.ofNat 4 e.1, step := BitVec.ofNat 3 e.2
                        stopped := true, rom := s.control.rom } }
/-- A cold start (R316): every step runs. -/
def State.coldStart (s : State) (d : StartData) : State :=
  match startEnd s.control.rom d.image d true true true with
  | (0, _) => s.started d.image d true {} (fun _ => false) []
  | e => s.startFailed d true {} e
/-- COLD_START (R316). -/
def execColdStart (d : StartData) (s : State) : Host.Outcome State Fault Refusal := .next (s.coldStart d)
/-- The last start has failed at a step, and so the next one is cold (R316). -/
def Control.startFailed (k : Control) : Bool := 1 ≤ k.fail.toNat && k.fail.toNat ≤ 4
/-- What a warm start skips (Table 19.4): what the step would give is still valid. -/
def State.warmSkip (s : State) (d : StartData) : StartSkip :=
  { load := (s.control.retained d.image).isSome, train := s.control.identity == some d.identity, measure := s.curvesFresh, sweep := s.sweepFresh }
/-- A warm start (R316), which verifies the retained copy where it need not load one; after a start that failed it is cold. -/
def State.warmStart (s : State) (d : StartData) : State :=
  if s.control.startFailed then s.coldStart d
  else
    let skip := s.warmSkip d
    let i := (s.control.retained d.image).getD d.image
    match startEnd s.control.rom i d (!skip.train) (!skip.measure) (!skip.sweep) with
    | (0, _) => s.started i d false skip s.freshPass (if skip.train then s.mem else [])
    | e => s.startFailed d false skip e
/-- WARM_START (R316). -/
def execWarmStart (d : StartData) (s : State) : Host.Outcome State Fault Refusal := .next (s.warmStart d)

end Sys2Proof.Machine
end

