-- ==== Sys2Proof/Machine/Auto.lean ====
section
/-!
DEFINITION. The order of the machine's own happenings (log 27): the table's events that the state alone enables, the first
enabled one of a fixed list. Events that bring data from outside are not among them; they stand on the agenda.
-/
namespace Sys2Proof.Machine

/-- A happening of the machine's own: what an event of the table does, where the state enables it. -/
abbrev Happening := State → Option State

/-- An event that the state enables. -/
def happens (p : State → Bool) (f : State → State) : Happening := fun s => if p s then some (f s) else none
/-- The accesses of a strand, its sequencer's head, and its wake-ups, in the order in which they are considered. -/
def Strand.events (st : Strand) (c t : Nat) : List Happening :=
  st.out.flatMap (fun a => [fun s => s.performNow c t a.id, fun s => s.atomicNow c t a.id, fun s => s.reply c t a.id])
    ++ (if st.seq.isEmpty then [] else [fun s => s.driveXmit c t, fun s => s.acceptSfu c t, fun s => s.startEntry c t])
    ++ (if st.asleep.isNone then [] else
        [fun s => s.wake c t .recv, fun s => s.fullWake c t, fun s => s.retryWait c t, fun s => s.wake c t .completion,
         fun s => s.wake c t .event, fun s => s.wake c t .task])
/-- A lane cap is applied when its time has come (R110). -/
def State.lanesDue (s : State) (c : Nat) : Option State :=
  match (s.core c).curve.laneDue with
  | some d => if d ≤ s.time then some (((s.capLanes c).onCurve c fun k => { k with laneDue := none }).rematch c) else none
  | none => none
/-- The end of a member's task whose strands have all ended; what the monitor ends is no happening of the machine's own. -/
def State.memberEnds (s : State) (c : Nat) : Option State := if (s.core c).part.allEnded then s.taskEnd c else none
/-- The events of a core: exchange, strands, Churn, copy engine, the member's task, its curves, its in-field test. -/
def Core.events (k : Core) (c : Nat) : List Happening :=
  (if k.exch.active then [fun s => s.startPhase c, fun s => s.sampleXsel c] else [])
    ++ k.part.strands.flatMap (fun e => e.2.events c e.1)
    ++ (if k.churnRun.isNone && k.churnQ.isEmpty then [] else [fun s => s.retireChurn c, fun s => s.startChurn c, fun s => s.starve c])
    ++ (if k.engRun.isNone && k.engQ.isEmpty then [] else
        [fun s => s.arriveCopy c, fun s => s.pushTile c, fun s => s.roomTimeout c, fun s => s.startCopy c])
    ++ (if k.part.resident then
        [fun s => s.replay c, fun s => s.memberEnds c, fun s => s.switchOut c, fun s => s.holdExpires c] else [])
    ++ [fun s => s.curveDue c, fun s => s.lanesDue c, fun s => s.scheduled c]
    ++ (if k.test.testing then [fun s => s.testAbort c] else [])
    ++ [fun s => s.passExpires c]
/-- The events of a flit. -/
def Flit.events (f : Flit) : List Happening :=
  [fun s => s.acceptMessage f.id, fun s => s.landRegister f.id, fun s => s.deliverPost f.id, fun s => s.acknowledge f.id,
   fun s => s.refuse f.id, fun s => s.resend f.id]
/-- Every event that the state could enable, in the order of log 27: cores in order, then what lies between them. -/
def State.happenings (s : State) : List Happening :=
  s.cores.flatMap (fun e => e.2.events e.1)
    ++ s.octets.map (fun e s => s.sfuResult e.1)
    ++ s.flits.flatMap Flit.events
    ++ s.nacked.map (fun id => happens (fun s => s.nacked.contains id) fun s => { s with nacked := s.nacked.filter (· != id) })
    ++ s.domains.map (fun e s => s.releaseEpisode e.1)
    ++ s.clusters.flatMap (fun e => e.2.overflow.map fun q s => s.retryWalk q.core q.kind q.strand)
    ++ s.rails.map (fun e s => s.settleRail e.1)
    ++ s.rects.map (fun e s => s.containStep e.1)
    ++ [State.powerTick, State.budgetTick 0 0 0 0, State.writeEvent]
    ++ s.images.map (fun e s => s.windowEnds e.1)
    ++ s.launches.flatMap (fun e =>
        (fun s => s.launchTimeout e.1) :: (span 0 4).map (fun d s => s.steal e.1 d))
    ++ s.launches.map (fun e s => s.releaseNext e.1)
/-- The machine's own next event, taken, where one is enabled. -/
def State.ownEvent (s : State) : Option State := s.happenings.findSome? fun h => h s

/-! ## Whose turn it is -/

/-- The strand may be given a turn: something happens at its bundle boundary, or it may issue (R47). -/
def State.wantsTurn (s : State) (c t : Nat) : Bool :=
  let p := (s.core c).part
  let st := s.strand c t
  p.occupied && !p.mirror && p.tape.mode != 2 && !(s.core c).test.testing && !s.inFence c
    && ((s.boundary c t).isSome || ((s.at_ c t).canIssue && !st.stat.slave))
/-- The strands of a core in the order in which they are considered: the one after the last that issued comes first (R47). -/
def roundFrom (last : Nat) : List Nat := [(last + 1) % 4, (last + 2) % 4, (last + 3) % 4, last % 4]
/-- The bundle at the strand's pc could issue now, or its turn ends in a fault or a miss; the strand is ready (R47). -/
def State.turnReady (s : State) (c t : Nat) : Bool :=
  s.wantsTurn c t && ((s.convoyBoundary c t).isSome ||
    match s.fetchBundle c t (s.strand c t).pc with
    | .bundle b =>
      if (s.followers c t).isEmpty then (s.at_ c t).readyFor b else s.convoyReady c t b || (s.convoyMiss c t b).isSome
    | _ => true)
/-- The strand of core c that issues next: the first ready one of the round (R47). -/
def State.nextStrand (s : State) (c : Nat) : Option Nat := (roundFrom (s.core c).last).find? (s.turnReady c)
/-! ## Exchange phases -/

/-- What an exchange phase of core c does in its present cycle (R185, R188, R272). -/
def Core.phaseEvents (k : Core) (c : Nat) : List Happening :=
  [fun s => s.startPhase c, fun s => s.sampleXsel c]
    ++ k.part.strands.flatMap fun e => if e.2.seq.isEmpty then [] else [fun s => s.driveXmit c e.1, fun s => s.acceptSfu c e.1, fun s => s.startEntry c e.1]
/-- Cores in an exchange phase, or waiting for the exchange cycle 0 that is fixed for them. -/
def State.phaseCores (s : State) : Tab Core := s.cores.filter fun e => e.2.exch.active
def State.phaseEvent (s : State) : Option State := s.phaseCores.findSome? fun e => (e.2.phaseEvents e.1).findSome? fun h => h s
/-- A core in a phase whose strand is ready, with the strand: on the exchange clock it issues in this cycle (R47). -/
def State.phaseTurn (s : State) : Option (Nat × Nat) := s.phaseCores.findSome? fun e => (s.nextStrand e.1).map fun t => (e.1, t)
/-- The first core from `n` on that has a ready strand, with that strand. -/
def State.nextTurn (s : State) (n : Nat) : Option (Nat × Nat) :=
  (s.cores.filter fun e => n ≤ e.1).findSome? fun e => (s.nextStrand e.1).map fun t => (e.1, t)

end Sys2Proof.Machine
end

