-- ==== Sys2Proof/Machine/Dispatch.lean ====
section
/-!
DEFINITION. Dispatch: what each instruction word and each event of the table does. An instruction word acts on the strand that
the state names as acting; it is that strand's lone bundle.
-/
namespace Sys2Proof.Machine

/-- The meaning of every constructor. -/
def exec (i : Instr) (s : State) : Host.Outcome State Fault Refusal :=
  match i with
  | .nop => Sys2Proof.Machine.execNop s
  | .bra off => Sys2Proof.Machine.execBra off s
  | .call off => Sys2Proof.Machine.execCall off s
  | .ret => Sys2Proof.Machine.execRet s
  | .jmpr a => Sys2Proof.Machine.execJmpr a s
  | .callr a => Sys2Proof.Machine.execCallr a s
  | .beq d a off => Sys2Proof.Machine.execBeq d a off s
  | .bne d a off => Sys2Proof.Machine.execBne d a off s
  | .blt d a off => Sys2Proof.Machine.execBlt d a off s
  | .bge d a off => Sys2Proof.Machine.execBge d a off s
  | .bltn d a off => Sys2Proof.Machine.execBltn d a off s
  | .bgen d a off => Sys2Proof.Machine.execBgen d a off s
  | .beqi d i_ off => Sys2Proof.Machine.execBeqi d i_ off s
  | .bnei d i_ off => Sys2Proof.Machine.execBnei d i_ off s
  | .bz d off => Sys2Proof.Machine.execBz d off s
  | .bnz d off => Sys2Proof.Machine.execBnz d off s
  | .yield dl kv => Sys2Proof.Machine.execYield dl kv s
  | .gets d sel => Sys2Proof.Machine.execGets d sel s
  | .sets sel a => Sys2Proof.Machine.execSets sel a s
  | .swaps d sel a => Sys2Proof.Machine.execSwaps d sel a s
  | .trap n => Sys2Proof.Machine.execTrap n s
  | .eret => Sys2Proof.Machine.execEret s
  | .uevret => Sys2Proof.Machine.execUevret s
  | .evwait d => Sys2Proof.Machine.execEvwait d s
  | .evmask d a => Sys2Proof.Machine.execEvmask d a s
  | .spill cls d c => Sys2Proof.Machine.execSpill cls d c s
  | .fill cls d c => Sys2Proof.Machine.execFill cls d c s
  | .mkrcap d a cls wm => Sys2Proof.Machine.execMkrcap d a cls wm s
  | .rvoke => Sys2Proof.Machine.execRvoke s
  | .iflush a b => Sys2Proof.Machine.execIflush a b s
  | .ld d b m off => Sys2Proof.Machine.execLd d b m off s
  | .lds d b m off => Sys2Proof.Machine.execLds d b m off s
  | .lda d b m off => Sys2Proof.Machine.execLda d b m off s
  | .lde d b m off => Sys2Proof.Machine.execLde d b m off s
  | .st d b m off => Sys2Proof.Machine.execSt d b m off s
  | .stf d b m off => Sys2Proof.Machine.execStf d b m off s
  | .stl d b m off => Sys2Proof.Machine.execStl d b m off s
  | .ldp d b m off => Sys2Proof.Machine.execLdp d b m off s
  | .stp d b m off => Sys2Proof.Machine.execStp d b m off s
  | .pfch b m off => Sys2Proof.Machine.execPfch b m off s
  | .clfe a b m => Sys2Proof.Machine.execClfe a b m s
  | .aadd d a b w o s_ m => Sys2Proof.Machine.execAadd d a b w o s_ m s
  | .aand d a b w o s_ m => Sys2Proof.Machine.execAand d a b w o s_ m s
  | .aor d a b w o s_ m => Sys2Proof.Machine.execAor d a b w o s_ m s
  | .axor d a b w o s_ m => Sys2Proof.Machine.execAxor d a b w o s_ m s
  | .amin d a b w o s_ m => Sys2Proof.Machine.execAmin d a b w o s_ m s
  | .amax d a b w o s_ m => Sys2Proof.Machine.execAmax d a b w o s_ m s
  | .aswp d a b w o s_ m => Sys2Proof.Machine.execAswp d a b w o s_ m s
  | .acas d a b w o s_ m => Sys2Proof.Machine.execAcas d a b w o s_ m s
  | .accf a b f s_ m => Sys2Proof.Machine.execAccf a b f s_ m s
  | .cellrd d a clr f s_ m => Sys2Proof.Machine.execCellrd d a clr f s_ m s
  | .fence k s_ => Sys2Proof.Machine.execFence k s_ s
  | .promote a s_ m => Sys2Proof.Machine.execPromote a s_ m s
  | .bar k lv => Sys2Proof.Machine.execBar k lv s
  | .bari k lv => Sys2Proof.Machine.execBari k lv s
  | .barw k lv => Sys2Proof.Machine.execBarw k lv s
  | .bset d k lv => Sys2Proof.Machine.execBset d k lv s
  | .send d a => Sys2Proof.Machine.execSend d a s
  | .rsend a b => Sys2Proof.Machine.execRsend a b s
  | .rsendv a b pg => Sys2Proof.Machine.execRsendv a b pg s
  | .recv d => Sys2Proof.Machine.execRecv d s
  | .rpeek d => Sys2Proof.Machine.execRpeek d s
  | .rack => Sys2Proof.Machine.execRack s
  | .post d a => Sys2Proof.Machine.execPost d a s
  | .take d wait => Sys2Proof.Machine.execTake d wait s
  | .next d => Sys2Proof.Machine.execNext d s
  | .mcast d a => Sys2Proof.Machine.execMcast d a s
  | .msgmov a st m => Sys2Proof.Machine.execMsgmov a st m s
  | .xphase k => Sys2Proof.Machine.execXphase k s
  | .xmit slot l g => Sys2Proof.Machine.execXmit slot l g s
  | .xsel slot l e => Sys2Proof.Machine.execXsel slot l e s
  | .xend => Sys2Proof.Machine.execXend s
  | .cpy a b c clfe ev sm dm => Sys2Proof.Machine.execCpy a b c clfe ev sm dm s
  | .cpys g b c clfe ev sm => Sys2Proof.Machine.execCpys g b c clfe ev sm s
  | .cpyg a b c clfe ev sm dm => Sys2Proof.Machine.execCpyg a b c clfe ev sm dm s
  | .cpysc a b c clfe ev sm dm => Sys2Proof.Machine.execCpysc a b c clfe ev sm dm s
  | .cpyq d => Sys2Proof.Machine.execCpyq d s
  | .ringdef g b c m => Sys2Proof.Machine.execRingdef g b c m s
  | .ringst d g => Sys2Proof.Machine.execRingst d g s
  | .tguard a i_ => Sys2Proof.Machine.execTguard a i_ s
  | .tslot a i_ => Sys2Proof.Machine.execTslot a i_ s
  | .cbinit a b => Sys2Proof.Machine.execCbinit a b s
  | .cbwait d a => Sys2Proof.Machine.execCbwait d a s
  | .cbtest d a => Sys2Proof.Machine.execCbtest d a s
  | .vld d a pg m => Sys2Proof.Machine.execVld d a pg m s
  | .vlds d a b pg m => Sys2Proof.Machine.execVlds d a b pg m s
  | .vldg d a b pg m => Sys2Proof.Machine.execVldg d a b pg m s
  | .vst d a pg m => Sys2Proof.Machine.execVst d a pg m s
  | .vsts d a b pg m => Sys2Proof.Machine.execVsts d a b pg m s
  | .vstg d a b pg m => Sys2Proof.Machine.execVstg d a b pg m s
  | .vldb d a pg m => Sys2Proof.Machine.execVldb d a pg m s
  | .vldsy d a pg m => Sys2Proof.Machine.execVldsy d a pg m s
  | .vclaim d n => Sys2Proof.Machine.execVclaim d n s
  | .vfree => Sys2Proof.Machine.execVfree s
  | .vseq a len step => Sys2Proof.Machine.execVseq a len step s
  | .vrep a len stride => Sys2Proof.Machine.execVrep a len stride s
  | .pset d a w => Sys2Proof.Machine.execPset d a w s
  | .pseti d c w => Sys2Proof.Machine.execPseti d c w s
  | .pget d a => Sys2Proof.Machine.execPget d a s
  | .rbset v => Sys2Proof.Machine.execRbset v s
  | .rbget d => Sys2Proof.Machine.execRbget d s
  | .dtload a m => Sys2Proof.Machine.execDtload a m s
  | .add d a b w => Sys2Proof.Machine.execAdd d a b w s
  | .addi d a i_ => Sys2Proof.Machine.execAddi d a i_ s
  | .sub d a b w => Sys2Proof.Machine.execSub d a b w s
  | .mul d a b w => Sys2Proof.Machine.execMul d a b w s
  | .mulh d a b w => Sys2Proof.Machine.execMulh d a b w s
  | .mulhn d a b w => Sys2Proof.Machine.execMulhn d a b w s
  | .div d a b w => Sys2Proof.Machine.execDiv d a b w s
  | .divn d a b w => Sys2Proof.Machine.execDivn d a b w s
  | .rem d a b w => Sys2Proof.Machine.execRem d a b w s
  | .remn d a b w => Sys2Proof.Machine.execRemn d a b w s
  | .and d a b => Sys2Proof.Machine.execAnd d a b s
  | .andi d a i_ => Sys2Proof.Machine.execAndi d a i_ s
  | .or d a b => Sys2Proof.Machine.execOr d a b s
  | .ori d a i_ => Sys2Proof.Machine.execOri d a i_ s
  | .xor d a b => Sys2Proof.Machine.execXor d a b s
  | .xori d a i_ => Sys2Proof.Machine.execXori d a i_ s
  | .shl d a b w => Sys2Proof.Machine.execShl d a b w s
  | .shli d a s_ => Sys2Proof.Machine.execShli d a s_ s
  | .shr d a b w => Sys2Proof.Machine.execShr d a b w s
  | .shri d a s_ => Sys2Proof.Machine.execShri d a s_ s
  | .sra d a b w => Sys2Proof.Machine.execSra d a b w s
  | .srai d a s_ => Sys2Proof.Machine.execSrai d a s_ s
  | .slt d a b => Sys2Proof.Machine.execSlt d a b s
  | .sltn d a b => Sys2Proof.Machine.execSltn d a b s
  | .slti d a i_ => Sys2Proof.Machine.execSlti d a i_ s
  | .min d a b => Sys2Proof.Machine.execMin d a b s
  | .max d a b => Sys2Proof.Machine.execMax d a b s
  | .movi d i_ => Sys2Proof.Machine.execMovi d i_ s
  | .movhi d i_ => Sys2Proof.Machine.execMovhi d i_ s
  | .clz d a => Sys2Proof.Machine.execClz d a s
  | .popc d a => Sys2Proof.Machine.execPopc d a s
  | .padd d a b => Sys2Proof.Machine.execPadd d a b s
  | .paddi d a i_ => Sys2Proof.Machine.execPaddi d a i_ s
  | .ptag d a f e => Sys2Proof.Machine.execPtag d a f e s
  | .pstrip d a => Sys2Proof.Machine.execPstrip d a s
  | .sel d a b => Sys2Proof.Machine.execSel d a b s
  | .fadd d a b t sr => Sys2Proof.Machine.execFadd d a b t sr s
  | .fmul d a b t sr => Sys2Proof.Machine.execFmul d a b t sr s
  | .fma d a b t sr => Sys2Proof.Machine.execFma d a b t sr s
  | .fcvt d a dt st sr => Sys2Proof.Machine.execFcvt d a dt st sr s
  | .fcmp d a b t c => Sys2Proof.Machine.execFcmp d a b t c s
  | .vadd d a b pg t sat => Sys2Proof.Machine.execVadd d a b pg t sat s
  | .vsub d a b pg t sat => Sys2Proof.Machine.execVsub d a b pg t sat s
  | .vmul d a b pg t => Sys2Proof.Machine.execVmul d a b pg t s
  | .vmulh d a b pg t => Sys2Proof.Machine.execVmulh d a b pg t s
  | .vand d a b pg t => Sys2Proof.Machine.execVand d a b pg t s
  | .vor d a b pg t => Sys2Proof.Machine.execVor d a b pg t s
  | .vxor d a b pg t => Sys2Proof.Machine.execVxor d a b pg t s
  | .vshl d a b pg t => Sys2Proof.Machine.execVshl d a b pg t s
  | .vshr d a b pg t => Sys2Proof.Machine.execVshr d a b pg t s
  | .vsra d a b pg t => Sys2Proof.Machine.execVsra d a b pg t s
  | .vmin d a b pg t => Sys2Proof.Machine.execVmin d a b pg t s
  | .vmax d a b pg t => Sys2Proof.Machine.execVmax d a b pg t s
  | .vcmp d a b pg t lt => Sys2Proof.Machine.execVcmp d a b pg t lt s
  | .vsel d a b pg t => Sys2Proof.Machine.execVsel d a b pg t s
  | .vbcst d a pg t => Sys2Proof.Machine.execVbcst d a pg t s
  | .vext d a b pg t => Sys2Proof.Machine.execVext d a b pg t s
  | .vperm d a b pg t => Sys2Proof.Machine.execVperm d a b pg t s
  | .vslide d a b pg t up => Sys2Proof.Machine.execVslide d a b pg t up s
  | .viota d pg t => Sys2Proof.Machine.execViota d pg t s
  | .vfadd d a b pg t sr => Sys2Proof.Machine.execVfadd d a b pg t sr s
  | .vfsub d a b pg t sr => Sys2Proof.Machine.execVfsub d a b pg t sr s
  | .vfmul d a b pg t sr => Sys2Proof.Machine.execVfmul d a b pg t sr s
  | .vfma d a b pg t sr => Sys2Proof.Machine.execVfma d a b pg t sr s
  | .vfms d a b pg t sr => Sys2Proof.Machine.execVfms d a b pg t sr s
  | .vfmin d a b pg t => Sys2Proof.Machine.execVfmin d a b pg t s
  | .vfmax d a b pg t => Sys2Proof.Machine.execVfmax d a b pg t s
  | .vfabs d a pg t => Sys2Proof.Machine.execVfabs d a pg t s
  | .vfcmp d a b pg t lt => Sys2Proof.Machine.execVfcmp d a b pg t lt s
  | .vfcvt d a pg dt st sr => Sys2Proof.Machine.execVfcvt d a pg dt st sr s
  | .vfrnd d a pg t mode => Sys2Proof.Machine.execVfrnd d a pg t mode s
  | .vaddx d a b pg t => Sys2Proof.Machine.execVaddx d a b pg t s
  | .vsubx d a b pg t => Sys2Proof.Machine.execVsubx d a b pg t s
  | .vmulx d a b pg t => Sys2Proof.Machine.execVmulx d a b pg t s
  | .dwadd d a b pg => Sys2Proof.Machine.execDwadd d a b pg s
  | .dwsub d a b pg => Sys2Proof.Machine.execDwsub d a b pg s
  | .dwmul d a b pg => Sys2Proof.Machine.execDwmul d a b pg s
  | .dwnorm d a pg => Sys2Proof.Machine.execDwnorm d a pg s
  | .vsum d a pg t => Sys2Proof.Machine.execVsum d a pg t s
  | .vsumc d a pg => Sys2Proof.Machine.execVsumc d a pg s
  | .vredmax d a pg t => Sys2Proof.Machine.execVredmax d a pg t s
  | .vscale d a b pg t sr => Sys2Proof.Machine.execVscale d a b pg t sr s
  | .vsfu d a pg t f => Sys2Proof.Machine.execVsfu d a pg t f s
  | .mzero c => Sys2Proof.Machine.execMzero c s
  | .mma c ga gb clr => Sys2Proof.Machine.execMma c ga gb clr s
  | .mmas c ga gb clr => Sys2Proof.Machine.execMmas c ga gb clr s
  | .msemi s_ => Sys2Proof.Machine.execMsemi s_ s
  | .mprog a m => Sys2Proof.Machine.execMprog a m s
  | .mrun c ga gb clr => Sys2Proof.Machine.execMrun c ga gb clr s
  | .mstz a c m f => Sys2Proof.Machine.execMstz a c m f s
  | .mldz c a m => Sys2Proof.Machine.execMldz c a m s
  | .mmovzv a c row => Sys2Proof.Machine.execMmovzv a c row s
  | .msync => Sys2Proof.Machine.execMsync s
  | .mstat a => Sys2Proof.Machine.execMstat a s
  | .rbaseWrite c t v => Sys2Proof.Machine.execRbaseWrite c t v s
  | .pailheadWrite c t v => Sys2Proof.Machine.execPailheadWrite c t v s
  | .pailGeometryWrite c t size v => Sys2Proof.Machine.execPailGeometryWrite c t size v s
  | .xsrcentWrite c t v => Sys2Proof.Machine.execXsrcentWrite c t v s
  | .mscopeWrite c t v => Sys2Proof.Machine.execMscopeWrite c t v s
  | .engerrWrite c t v => Sys2Proof.Machine.execEngerrWrite c t v s
  | .stateRegisterWrite c t sel v => Sys2Proof.Machine.execStateRegisterWrite c t sel v s
  | .faultEntry c t unc => Sys2Proof.Machine.execFaultEntry c t unc s
  | .userEventDelivery c t => Sys2Proof.Machine.execUserEventDelivery c t s
  | .sequencerEntryStart c t => Sys2Proof.Machine.execSequencerEntryStart c t s
  | .sfuRequestAccept c t => Sys2Proof.Machine.execSfuRequestAccept c t s
  | .sfuResult o => Sys2Proof.Machine.execSfuResult o s
  | .churnEntryStart c => Sys2Proof.Machine.execChurnEntryStart c s
  | .churnEntryRetire c => Sys2Proof.Machine.execChurnEntryRetire c s
  | .ringStarved c => Sys2Proof.Machine.execRingStarved c s
  | .copyCommandStart c => Sys2Proof.Machine.execCopyCommandStart c s
  | .cpysTilePush c => Sys2Proof.Machine.execCpysTilePush c s
  | .ringRoomTimeout c => Sys2Proof.Machine.execRingRoomTimeout c s
  | .completionArrival c => Sys2Proof.Machine.execCompletionArrival c s
  | .recvWake c t => Sys2Proof.Machine.execRecvWake c t s
  | .fullWaitWake c t => Sys2Proof.Machine.execFullWaitWake c t s
  | .waitRequestRetry c t => Sys2Proof.Machine.execWaitRequestRetry c t s
  | .cbwaitWake c t => Sys2Proof.Machine.execCbwaitWake c t s
  | .evwaitWake c t => Sys2Proof.Machine.execEvwaitWake c t s
  | .takeWaitWake c t => Sys2Proof.Machine.execTakeWaitWake c t s
  | .barrierRelease lv inst k => Sys2Proof.Machine.execBarrierRelease lv inst k s
  | .atomicAtUnit c t id => Sys2Proof.Machine.execAtomicAtUnit c t id s
  | .messageAccept id => Sys2Proof.Machine.execMessageAccept id s
  | .messageResend id => Sys2Proof.Machine.execMessageResend id s
  | .sendAcknowledge id => Sys2Proof.Machine.execSendAcknowledge id s
  | .sendRefusal id => Sys2Proof.Machine.execSendRefusal id s
  | .registerArrival id => Sys2Proof.Machine.execRegisterArrival id s
  | .reassemblyTimeout id => Sys2Proof.Machine.execReassemblyTimeout id s
  | .postDelivery id => Sys2Proof.Machine.execPostDelivery id s
  | .exchangePhaseStart c => Sys2Proof.Machine.execExchangePhaseStart c s
  | .xmitDrive c t => Sys2Proof.Machine.execXmitDrive c t s
  | .xselSample c => Sys2Proof.Machine.execXselSample c s
  | .remeasurement c cvf cvl => Sys2Proof.Machine.execRemeasurement c cvf cvl s
  | .curveUpdateTimeout c => Sys2Proof.Machine.execCurveUpdateTimeout c s
  | .laneRemeasurement o lane pts => Sys2Proof.Machine.execLaneRemeasurement o lane pts s
  | .laneCapApply c => Sys2Proof.Machine.execLaneCapApply c s
  | .powerControlTick => Sys2Proof.Machine.execPowerControlTick s
  | .railSettle q => Sys2Proof.Machine.execRailSettle q s
  | .budgetTick bw st est cls => Sys2Proof.Machine.execBudgetTick bw st est cls s
  | .junctionSample c tj => Sys2Proof.Machine.execJunctionSample c tj s
  | .submissionCommit req v => Sys2Proof.Machine.execSubmissionCommit req v s
  | .substatWrite v => Sys2Proof.Machine.execSubstatWrite v s
  | .eqheadWrite v => Sys2Proof.Machine.execEqheadWrite v s
  | .bar0RegisterWrite req off v => Sys2Proof.Machine.execBar0RegisterWrite req off v s
  | .hostBar2Access pa op => Sys2Proof.Machine.execHostBar2Access pa op s
  | .submissionTake rd => Sys2Proof.Machine.execSubmissionTake rd s
  | .launchRelease id => Sys2Proof.Machine.execLaunchRelease id s
  | .replayRecord c => Sys2Proof.Machine.execReplayRecord c s
  | .taskEnd c => Sys2Proof.Machine.execTaskEnd c s
  | .eventQueueWrite => Sys2Proof.Machine.execEventQueueWrite s
  | .launchTimeout id => Sys2Proof.Machine.execLaunchTimeout id s
  | .stealReport id die => Sys2Proof.Machine.execStealReport id die s
  | .contextSwitchOut c => Sys2Proof.Machine.execContextSwitchOut c s
  | .holdTimeout c => Sys2Proof.Machine.execHoldTimeout c s
  | .contextRestore img c => Sys2Proof.Machine.execContextRestore img c s
  | .forwardingWindowEnd img => Sys2Proof.Machine.execForwardingWindowEnd img s
  | .walkerQueueRetry c k t => Sys2Proof.Machine.execWalkerQueueRetry c k t s
  | .tscReply cl ans => Sys2Proof.Machine.execTscReply cl ans s
  | .shootdown asid lo hi => Sys2Proof.Machine.execShootdown asid lo hi s
  | .containmentFence d x0 y0 w h => Sys2Proof.Machine.execContainmentFence d x0 y0 w h s
  | .containmentFenced r => Sys2Proof.Machine.execContainmentFenced r s
  | .containmentReset r => Sys2Proof.Machine.execContainmentReset r s
  | .containmentTest r => Sys2Proof.Machine.execContainmentTest r s
  | .containmentTestEnd r failed => Sys2Proof.Machine.execContainmentTestEnd r failed s
  | .dualMismatch c => Sys2Proof.Machine.execDualMismatch c s
  | .dualPartnerTimeout c => Sys2Proof.Machine.execDualPartnerTimeout c s
  | .infieldTestStart c => Sys2Proof.Machine.execInfieldTestStart c s
  | .infieldTestAbort c => Sys2Proof.Machine.execInfieldTestAbort c s
  | .infieldTestPass c => Sys2Proof.Machine.execInfieldTestPass c s
  | .infieldTestFail c => Sys2Proof.Machine.execInfieldTestFail c s
  | .infieldPassExpiry c => Sys2Proof.Machine.execInfieldPassExpiry c s
  | .softErrorCorrected c oct => Sys2Proof.Machine.execSoftErrorCorrected c oct s
  | .peerRequest p pa op => Sys2Proof.Machine.execPeerRequest p pa op s
  | .linkPortDown p => Sys2Proof.Machine.execLinkPortDown p s
  | .peerNoPortTimeout c t id => Sys2Proof.Machine.execPeerNoPortTimeout c t id s
  | .liveUpdate verified readable version => Sys2Proof.Machine.execLiveUpdate verified readable version s
  | .roleSwap => Sys2Proof.Machine.execRoleSwap s
  | .failover => Sys2Proof.Machine.execFailover s
  | .coldStart d => Sys2Proof.Machine.execColdStart d s
  | .warmStart d => Sys2Proof.Machine.execWarmStart d s
  | .accessPerformed c t id => Sys2Proof.Machine.execAccessPerformed c t id s
  | .accessReply c t id => Sys2Proof.Machine.execAccessReply c t id s
  | .nackResend id => Sys2Proof.Machine.execNackResend id s
  | .detectedLinkError id => Sys2Proof.Machine.execDetectedLinkError id s
  | .linkPortUp p => Sys2Proof.Machine.execLinkPortUp p s

end Sys2Proof.Machine
end

