-- ==== Sys2Proof/Machine/Turn.lean ====
section
/-!
DEFINITION. A strand's turn: what happens at its bundle boundary (R253), or the fetch and the issue of its next bundle (R27, R28,
R47); and what the machine does of its own accord where no turn is asked for (log 1).
-/
namespace Sys2Proof.Machine

/-- A row of the table that is an event and no instruction word: it has no encoding. -/
def isEvent (i : Instr) : Bool :=
  match i with
  | .nop => false
  | i => encode i == 0

/-- The fetch has no translation yet, or the fault that the TSC answered for it (R266, R268). -/
def State.fetchMiss (s : State) (va : Nat) : State :=
  match s.me.missFault with
  | some f => if f.acc = 4 then s.trapMe f false s.me.pc else s.missScalar .fetch .fetch va
  | none => s.missScalar .fetch .fetch va
/-- The acting strand leads a convoy (R287): it issues for itself and its followers, once all are ready; a member that lacks a translation asks
for it and holds the convoy. -/
def State.issueConvoy (s : State) (b : Bundle) : State :=
  let c := s.curCore
  let t := s.curStrand
  if s.convoyReady c t b then (let s1 := issueBundle b s
    (s1.convoyFollow (s.followers c t) t s.me.pc b (s1.strand c t).asleep.isSome).at_ c t)
  else
    match s.convoyMiss c t b with
    | some (k, kind, va) => ((s.at_ k t).missScalar .scalar kind va).at_ c t
    | none => s
/-- A decoded bundle of the acting strand. A word that issues alone is `exec` of it. -/
def State.issue (s : State) (b : Bundle) : Host.Outcome State Fault Refusal :=
  if (s.followers s.curCore s.curStrand).isEmpty then
    match b with
    | .lone i => exec i s
    | .pair i j => .next (issuePair i j s)
  else .next (s.issueConvoy b)
/-- The fetch of the acting strand's bundle has used its page's translation (R265); the next fetch's choice among old and new words is
another one (R67). -/
def State.fetched (s : State) : State :=
  let k := s.streamCore s.curCore s.curStrand
  ({ s with freeCtr := s.freeCtr + b2n !s.codeLog.isEmpty } : State).useTlb k .fetch (s.strand k s.curStrand).regs.asid [(s.me.pc.toNat, 4)]
/-- The acting strand issues its next bundle, where it can: a follower issues with its leader (R287), a member that replays a
tape issues nothing of its own (R244), a core under test runs nothing (R306). -/
def State.run (s : State) : Host.Outcome State Fault Refusal :=
  let c := s.curCore
  let t := s.curStrand
  let k := s.myCore
  if !k.part.resident || k.part.mirror || k.part.tape.mode == 2 || k.test.testing || s.me.stat.slave || !s.canIssue then .next s
  else
    match s.fetchBundle c t s.me.pc with
    | .miss va => .next (s.fetchMiss va)
    | .fault f word => .next (s.fetched.trapMe f word s.me.pc)
    | .bundle b => s.fetched.issue b
/-- Strand (c, t) has its turn, and with it the convoy that it leads. -/
def State.turn (s : State) (c t : Nat) : Host.Outcome State Fault Refusal :=
  match (s.at_ c t).convoyBoundary c t with
  | some s1 => .next s1
  | none => (s.at_ c t).run

/-- n fabric cycles pass. While a core is in an exchange phase they pass one by one, and each only when the phase's cores have done what that
cycle holds for them (R47, R272), a bundle's issue before what the sequencers do: an entry's leaving is seen in the next cycle. A step does one
thing of it, and the rest of the turn stays on the agenda. -/
def State.tick (s : State) (n : Nat) : Host.Outcome State Fault Refusal :=
  if n = 0 || s.phaseCores.isEmpty then .next (s.pass n)
  else
    let again (s : State) (n : Nat) : State := if n = 0 then s else { s with agenda := .tick n :: s.agenda }
    match s.phaseTurn with
    | some (c, t) => (again s n).turn c t
    | none =>
      match s.phaseEvent with
      | some s1 => .next (again s1 n)
      | none => .next ((again s (n - 1)).pass 1)
/-- A turn of the agenda, already taken from it. A word on the agenda is no event: words come from memory. -/
def State.takeTurn (s : State) (m : Turn) : Host.Outcome State Fault Refusal :=
  match m with
  | .tick n => s.tick n
  | .issue c t => s.turn c t
  | .event i => if isEvent i then exec i s else .next s
/-- With no turn asked for: a bundle of an exchange phase's present cycle, else an event that the state enables, else a strand that is ready,
core by core, else one fabric cycle. -/
def State.ownTurn (s : State) : Host.Outcome State Fault Refusal :=
  match s.phaseTurn with
  | some (c, t) => s.turn c t
  | none =>
    match s.ownEvent with
    | some s1 => .next s1
    | none =>
      match s.nextTurn s.nextCore with
      | some (c, t) => ({ s with nextCore := c + 1 } : State).turn c t
      | none => .next { s.pass 1 with nextCore := 0 }

/-- What a step has changed wakes who waits for it (R270). -/
def State.afterStep (s : State) (o : Host.Outcome State Fault Refusal) : Host.Outcome State Fault Refusal :=
  match o with
  | .next t => .next (t.wakeSync s.empties).wakeChanged
  | o => o

/-! ## Placing an instruction -/

/-- The word with L = 1, as a lone bundle. -/
def loneWord (w : Nat) : Nat := w % 2 ^ 31 + 2 ^ 31
/-- Where `State.placed` puts code: virtual page 0, at the first bytes of the HBM window (log 5). -/
def placedAt : Nat := 0x1000000000
def placedPage : TlbEntry :=
  { asid := 0, glob := true, r := true, w := false, x := true, a := false, pa := placedAt, va := 0, size := 0 }
/-- What stands for the launch of a program (log 5): strand 0 of core 0 is resident and running with its pc at virtual address
0, where a page of code is mapped, and has bundles to spend before its watchdog. -/
def Strand.placed (st : Strand) : Strand :=
  { st with
    status := .running, asleep := none, miss := none, pc := 0, ycnt := 0, ybound := 0xFFFFFFFF, out := [], churnHeld := []
    seqFault := none, churnFault := none, arrivals := [], refusals := [], claim := none, seqMiss := none, missFault := none
    yieldDue := false, supDue := false, restUntil := 0, landing := []
    regs := { st.regs with evpend := 0 }
    stat := { st.stat with slave := false } }
def Core.placed (k : Core) : Core :=
  { k with
    part := ({ k.part with resident := true, mirror := false, partner := none, done := false, tape := { k.part.tape with mode := 0 } } : Part).setStrand 0
      (Tab.get {} 0 k.part.strands).placed
    tlbIF := placedPage :: k.tlbIF
    exch := { k.exch with active := false, waiting := false }
    divider := none
    test := { k.test with testing := false } }
/-- The word stands where the next step fetches. -/
def State.placed (s : State) (w : Nat) : State :=
  let s1 := s.setCore 0 (s.core 0).placed
  let s2 : State := { s1.flushAll 0 with badWords := s1.badWords.filter (· != placedAt / 4), rects := [], agenda := [.issue 0 0], curCore := 0, curStrand := 0 }
  s2.writeN placedAt 4 (loneWord w)

end Sys2Proof.Machine
end

