-- ==== Sys2Proof/Machine/Pair.lean ====
section
/-!
DEFINITION. DUAL pairs (R206, R303): both cores of a pair run its part. The partner's run is the same step in the partner's world: the state with
the partner's registers, units and TCM in the places of the primary's, so that what reaches the pair reaches both cores, under the primary's
number. What leaves the pair is compared, and the primary's goes out. DEDUCED (log 30): the two cores go in step, and whatever the two worlds
show outside of the pair that differs is a mismatch.
-/
namespace Sys2Proof.Machine

/-- A member of a DUAL launch. -/
structure PairId where
  launch : Nat
  rank : Nat
  deriving DecidableEq, Repr

def Part.pairId (p : Part) : PairId := { launch := p.launch, rank := p.rank }
/-- A DUAL member's own part, at work. -/
def Part.leadsPair (p : Part) : Bool := p.occupied && !p.mirror && p.partner.isSome
/-- The DUAL members that are resident or saved. -/
def State.pairs (s : State) : List PairId :=
  ((s.cores.filter fun e => e.2.part.leadsPair).map fun e => e.2.part.pairId)
    ++ (s.images.filter fun e => e.2.restored.isNone && e.2.part.partner.isSome).map fun e => e.2.part.pairId
/-- Where a pair is, by its primary. -/
def State.pairAt (s : State) (id : PairId) : Home := s.memberAt id.launch id.rank
/-- The partner of the pair whose primary is core c. -/
def State.pairMate (s : State) (c : Nat) : Nat := (s.core c).part.partner.getD c

/-! ## The partner's world -/

/-- A byte lies in core c's TCM. -/
def inTcm (c pa : Nat) : Bool := pa / 0x20000 == c
def moveByte (src dst pa : Nat) : Nat := pa - src * 0x20000 + dst * 0x20000
/-- The state with core `dst`'s TCM, its full/empty bits, its errors and its release records as core `src` has them in `u`. -/
def State.takeTcm (s u : State) (src dst : Nat) : State :=
  let word (w : Nat) : Nat := moveByte src dst (4 * w) / 4
  { s with
    mem := (u.mem.filter fun e => inTcm src e.1).foldl (fun m e => Tab.set 0#8 (moveByte src dst e.1) e.2 m) (s.mem.filter fun e => !inTcm dst e.1)
    empties := ((u.empties.filter fun w => inTcm src (4 * w)).map word).foldl (fun l w => insertNat w l) (s.empties.filter fun w => !inTcm dst (4 * w))
    badWords := (s.badWords.filter fun w => !inTcm dst (4 * w)) ++ (u.badWords.filter fun w => inTcm src (4 * w)).map word
    records := (s.records.filter fun r => !r.bytes.any (inTcm dst)) ++ (u.records.filter fun r => r.bytes.any (inTcm src)).map fun r =>
      { r with bytes := r.bytes.map fun b => if inTcm src b then moveByte src dst b else b } }
/-- The requests of core c in an octet's queue, in their places, with others' contents. -/
def swapSfu (c : Nat) : List SfuReq → List SfuReq → List SfuReq
  | [], _ => []
  | r :: l, mine =>
    if r.core = c then
      match mine with
      | x :: rest => x :: swapSfu c l rest
      | [] => swapSfu c l []
    else r :: swapSfu c l mine
/-- The partner q's registers and units in the place of core c's; the clock, the permits and the test state stay core c's, which both go by. -/
def State.pairWorld (s : State) (c q : Nat) : State :=
  let k := s.core c
  let t := Tab.get {} q s.twins
  let s1 := s.setCore c { t.core with
    curve := k.curve, rateMtx := k.rateMtx, rateVec := k.rateVec, rateSfu := k.rateSfu, rateMem := k.rateMem, permits := k.permits
    softCore := k.softCore, test := k.test, activity := k.activity, spent := k.spent, twinOf := some q }
  let s2 : State := { s1 with octets := s1.octets.map fun e => if e.1 = octetOf c then (e.1, { e.2 with sfu := swapSfu c e.2.sfu t.sfu }) else e }
  s2.takeTcm s q c
/-- The partner's world of a pair. -/
def State.twinWorld (s : State) (id : PairId) : State :=
  match s.pairAt id with
  | .resident c => s.pairWorld c (s.pairMate c)
  | .image i => match s.twinImages.find? fun e => e.1 == i with | some (_, im) => s.putImage i im | none => s
  | _ => s

/-! ## Compare -/

/-- Accesses of core c that leave it: all but those to its own TCM. -/
def State.leaving (s : State) (c : Nat) : List (AccOp × List Nat × Nat) :=
  (s.core c).part.strands.flatMap fun e => (e.2.out.filter fun a => !a.bytes.all (inTcm c)).map fun a => (a.op, a.bytes, a.data)
/-- What a state shows outside of a pair that has the cores `cs`; the contexts' accounts and the count of free values are no traffic. -/
def State.outside (s : State) (id : PairId) (cs : List Nat) : State :=
  let mine (b : Nat) : Bool := cs.any fun c => inTcm c b
  { s with
    cores := s.cores.filter fun e => !cs.contains e.1, images := s.images.filter fun e => e.2.part.pairId != id
    mem := s.mem.filter fun e => !mine e.1, empties := s.empties.filter fun w => !mine (4 * w), badWords := s.badWords.filter fun w => !mine (4 * w)
    records := s.records.filter fun r => !r.bytes.any mine, codeLog := [], meter := {}, twins := [], twinImages := [], freeCtr := 0
    ctxs := s.ctxs.map fun e => (e.1, { e.2 with acct := 0, acctNj := 0 })
    octets := s.octets.map fun e => (e.1, { e.2 with sfu := e.2.sfu.filter fun r => !cs.contains r.core }) }
/-- The cores of a pair. -/
def State.pairCores (s : State) (id : PairId) : List Nat :=
  match s.pairAt id with
  | .resident c => [c, s.pairMate c]
  | _ => []
/-- Of a step from `s`, the primary's outcome `t` and the partner's `u` agree on all that leaves the pair (R206). -/
def State.agree (s t u : State) (id : PairId) : Bool :=
  let cs := s.pairCores id ++ t.pairCores id
  decide (t.pairAt id = u.pairAt id) && decide (t.outside id cs = u.outside id cs) && decide (cs.map t.leaving = cs.map u.leaving)
/-- The partner core's energy as its own world has charged it (R293, R294, R303). -/
def Core.keepEnergy (k u : Core) : Core :=
  if !(k.part.mirror && u.part.mirror) then k
  else { k with activity := u.activity, spent := u.spent, part := { k.part with acctNj := u.part.acctNj, njFrac := u.part.njFrac } }
/-- `t` with what the partner's world `u` holds of a pair kept as the partner's own. -/
def State.keepTwin (t u : State) (id : PairId) : State :=
  match t.pairAt id with
  | .resident c =>
    let q := t.pairMate c
    { (t.setCore q ((t.core q).keepEnergy (u.core q))).takeTcm u c q with twins := Tab.put q { core := { u.core c with twinOf := some q }, sfu := (u.octet (octetOf c)).sfu.filter fun r => r.core == c } t.twins }
  | .image i => match u.image? i with | some im => { t with twinImages := Tab.put i im t.twinImages } | none => t
  | _ => t
/-- A pair that has no partner's registers yet has been released (R278): the partner starts as the primary does, with its translations (log 30), on
its own TCM. -/
def State.bearTwin (s : State) (id : PairId) : State :=
  match s.pairAt id with
  | .resident c =>
    let q := s.pairMate c
    if Tab.has q s.twins then s
    else { s with twins := Tab.put q { core := { s.core c with twinOf := some q } } s.twins }
  | _ => s
/-- Partners' registers are kept for pairs at work alone. -/
def State.dropTwins (s : State) : State :=
  if s.twins.isEmpty && s.twinImages.isEmpty then s
  else
    { s with
      twins := s.twins.filter fun e => (s.core e.1).part.occupied && (s.core e.1).part.mirror
      twinImages := s.twinImages.filter fun e => match s.image? e.1 with | some im => im.restored.isNone | none => false }

/-! ## The step of a machine with pairs -/

/-- What the step does first: the agenda's next turn, or one of its own (log 1). -/
def State.act (s : State) : Host.Outcome State Fault Refusal :=
  match s.agenda with
  | m :: rest => ({ s with agenda := rest } : State).takeTurn m
  | [] => s.ownTurn
/-- The step that the machine makes of the primaries alone. -/
def State.loneStep (s : State) : Host.Outcome State Fault Refusal := s.afterStep s.act
/-- The partner's outcome of the same step. -/
def State.twinStep (s : State) (id : PairId) : State :=
  match (s.twinWorld id).loneStep with
  | .next u => u
  | _ => s
/-- A pair whose items differ is fenced before they leave (R206, R304). -/
def State.failPair (s : State) (id : PairId) : Option State :=
  match s.pairAt id with
  | .resident c => s.dualFail c
  | _ => none
/-- Every pair at work has its partner's registers. -/
def State.bearTwins (s : State) : State := s.pairs.foldl State.bearTwin s
/-- The outcome `t` of a step from `s`, with the partners' of its pairs. -/
def State.withPairs (s t : State) : State :=
  let z := s.bearTwins
  match s.pairs.findSome? fun id => if s.agree t (z.twinStep id) id then none else ({ s with agenda := t.agenda } : State).failPair id with
  | some f => f
  | none => (s.pairs.foldl (fun t id => t.keepTwin (z.twinStep id) id) t).dropTwins.bearTwins
/-- What follows the turn `o` of a step from `s`: the wake-ups that it brings, and the partners' part. -/
def State.closeStep (s : State) (o : Host.Outcome State Fault Refusal) : Host.Outcome State Fault Refusal :=
  match s.afterStep o with
  | .next t => .next (s.withPairs t)
  | o => o
/-- One step, of the primaries and of their partners. -/
def State.fullStep (s : State) : Host.Outcome State Fault Refusal := s.closeStep s.act

end Sys2Proof.Machine
end

