-- ==== Sys2Proof/Machine/Step.lean ====
section
/-!
DEFINITION. One step of the machine, and the placing of an instruction where the next step fetches it.
-/
namespace Sys2Proof.Machine

/-- One step (log 1): the agenda's next turn, or the machine's own, the wake-ups that it brings, and what it does on the partners of DUAL pairs. -/
def step (s : State) : Host.Outcome State Fault Refusal := s.fullStep

/-- The instruction whose bits are w, stored so that the next step fetches and runs it (log 5). Every row with an encoding is
one word of 32 bits. -/
def State.withFetchWord (s : State) (nbits w : Nat) : State := s.placed (w % 2 ^ nbits)

end Sys2Proof.Machine
end

