-- ==== Sys2Proof/Laws/Tab.lean ====
section
/-!
SUPPORT. Laws of the tables by number: what a read finds after a write, and that writes keep the rising order.
-/
namespace Sys2Proof.Tab

variable {α : Type}

@[simp] theorem get_nil (d : α) (k : Nat) : get d k [] = d := rfl

theorem get_erase_self (d : α) (k : Nat) (t : Tab α) : get d k (erase k t) = d := by
  induction t with
  | nil => rfl
  | cons e t ih =>
    obtain ⟨i, v⟩ := e
    by_cases h : i = k <;> simp [erase, get, h, ih]

theorem get_erase_ne (d : α) {j k : Nat} (h : j ≠ k) (t : Tab α) : get d j (erase k t) = get d j t := by
  induction t with
  | nil => rfl
  | cons e t ih =>
    obtain ⟨i, v⟩ := e
    by_cases hk : i = k
    · have : ¬ k = j := fun e => h e.symm
      simp [erase, get, hk, ih, this]
    · simp [erase, get, hk, ih]

theorem get_place_self (d : α) (k : Nat) (v : α) (t : Tab α) (h : ∀ e ∈ t, e.1 ≠ k) : get d k (place k v t) = v := by
  induction t with
  | nil => simp [place, get]
  | cons e t ih =>
    obtain ⟨i, w⟩ := e
    have hi : i ≠ k := h (i, w) (by simp)
    have ht := ih fun e he => h e (by simp [he])
    by_cases hk : k < i <;> simp [place, get, hk, hi, ht]

theorem get_place_ne (d : α) {j k : Nat} (h : j ≠ k) (v : α) (t : Tab α) : get d j (place k v t) = get d j t := by
  induction t with
  | nil => simp [place, get, Ne.symm h]
  | cons e t ih =>
    obtain ⟨i, w⟩ := e
    by_cases hk : k < i <;> simp [place, get, hk, ih, Ne.symm h]

theorem erase_keys (k : Nat) (t : Tab α) : ∀ e ∈ erase k t, e.1 ≠ k := by
  induction t with
  | nil => simp [erase]
  | cons e t ih =>
    obtain ⟨i, w⟩ := e
    by_cases hk : i = k
    · simpa [erase, hk] using ih
    · intro e he
      simp only [erase, hk, if_false, List.mem_cons] at he
      rcases he with rfl | he
      · exact hk
      · exact ih e he

/-- A read finds what was written. -/
@[simp] theorem get_put_self (d : α) (k : Nat) (v : α) (t : Tab α) : get d k (put k v t) = v :=
  get_place_self d k v _ (erase_keys k t)

/-- A write leaves every other key alone. -/
theorem get_put_ne (d : α) {j k : Nat} (h : j ≠ k) (v : α) (t : Tab α) : get d j (put k v t) = get d j t := by
  rw [put, get_place_ne d h, get_erase_ne d h]

theorem get_put (d : α) (j k : Nat) (v : α) (t : Tab α) : get d j (put k v t) = if j = k then v else get d j t := by
  by_cases h : j = k
  · subst h; simp
  · rw [if_neg h, get_put_ne d h]

/-- Reading after a canonical write. -/
theorem get_set [DecidableEq α] (d : α) (j k : Nat) (v : α) (t : Tab α) :
    get d j (set d k v t) = if j = k then v else get d j t := by
  unfold set
  by_cases hv : v = d
  · rw [if_pos hv]
    by_cases h : j = k
    · subst h; rw [get_erase_self, if_pos rfl, hv]
    · rw [if_neg h, get_erase_ne d h]
  · rw [if_neg hv, get_put]

/-- Every key of the table is above `m`. -/
def above (m : Nat) (t : Tab α) : Prop := ∀ e ∈ t, m < e.1

theorem sorted_cons {i : Nat} {v : α} {t : Tab α} : sorted ((i, v) :: t) = true ↔ above i t ∧ sorted t = true := by
  induction t generalizing i v with
  | nil => simp [sorted, above]
  | cons e t ih =>
    obtain ⟨j, w⟩ := e
    have hj := @ih j w
    simp only [sorted, Bool.and_eq_true, decide_eq_true_eq]
    constructor
    · rintro ⟨hij, hs⟩
      refine ⟨?_, hs⟩
      intro e he
      rcases List.mem_cons.1 he with rfl | he
      · exact hij
      · exact Nat.lt_trans hij ((hj.1 hs).1 e he)
    · rintro ⟨ha, hs⟩
      exact ⟨ha (j, w) (by simp), hs⟩

theorem erase_above {m k : Nat} {t : Tab α} (h : above m t) : above m (erase k t) := by
  induction t with
  | nil => simpa [erase] using h
  | cons e t ih =>
    obtain ⟨i, v⟩ := e
    have ht := ih fun e he => h e (by simp [he])
    by_cases hk : i = k
    · simpa [erase, hk] using ht
    · intro e he
      simp only [erase, hk, if_false, List.mem_cons] at he
      rcases he with rfl | he
      · exact h (i, v) (by simp)
      · exact ht e he

theorem sorted_erase (k : Nat) {t : Tab α} (h : sorted t = true) : sorted (erase k t) = true := by
  induction t with
  | nil => rfl
  | cons e t ih =>
    obtain ⟨i, v⟩ := e
    obtain ⟨ha, hs⟩ := sorted_cons.1 h
    by_cases hk : i = k
    · simpa [erase, hk] using ih hs
    · simp only [erase, hk, if_false]
      exact sorted_cons.2 ⟨erase_above ha, ih hs⟩

theorem place_above {m k : Nat} {v : α} {t : Tab α} (hk : m < k) (h : above m t) : above m (place k v t) := by
  induction t with
  | nil => intro e he; simp only [place, List.mem_singleton] at he; subst he; exact hk
  | cons e t ih =>
    obtain ⟨i, w⟩ := e
    have ht := ih fun e he => h e (by simp [he])
    have hi : m < i := h (i, w) (by simp)
    by_cases hki : k < i
    · simp only [place, hki, if_true]
      intro e he
      rcases List.mem_cons.1 he with rfl | he
      · exact hk
      · exact h e he
    · simp only [place, hki, if_false]
      intro e he
      rcases List.mem_cons.1 he with rfl | he
      · exact hi
      · exact ht e he

theorem sorted_place (k : Nat) (v : α) {t : Tab α} (hk : ∀ e ∈ t, e.1 ≠ k) (h : sorted t = true) :
    sorted (place k v t) = true := by
  induction t with
  | nil => rfl
  | cons e t ih =>
    obtain ⟨i, w⟩ := e
    obtain ⟨ha, hs⟩ := sorted_cons.1 h
    have hi : i ≠ k := hk (i, w) (by simp)
    have ht := ih (fun e he => hk e (by simp [he])) hs
    by_cases hki : k < i
    · simp only [place, hki, if_true]
      refine sorted_cons.2 ⟨?_, h⟩
      intro e he
      rcases List.mem_cons.1 he with rfl | he
      · exact hki
      · exact Nat.lt_trans hki (ha e he)
    · simp only [place, hki, if_false]
      exact sorted_cons.2 ⟨place_above (by omega) ha, ht⟩

/-- A write keeps the keys rising. -/
theorem sorted_put (k : Nat) (v : α) {t : Tab α} (h : sorted t = true) : sorted (put k v t) = true :=
  sorted_place k v (erase_keys k t) (sorted_erase k h)

theorem sorted_set [DecidableEq α] (d : α) (k : Nat) (v : α) {t : Tab α} (h : sorted t = true) : sorted (set d k v t) = true := by
  unfold set
  by_cases hv : v = d
  · rw [if_pos hv]; exact sorted_erase k h
  · rw [if_neg hv]; exact sorted_put k v h

theorem mem_erase {k : Nat} {t : Tab α} {e : Nat × α} (h : e ∈ erase k t) : e ∈ t := by
  induction t with
  | nil => simp [erase] at h
  | cons x t ih =>
    obtain ⟨i, v⟩ := x
    by_cases hk : i = k
    · simp only [erase, hk, if_true] at h; exact List.mem_cons_of_mem _ (ih h)
    · simp only [erase, hk, if_false, List.mem_cons] at h
      rcases h with rfl | h
      · simp
      · exact List.mem_cons_of_mem _ (ih h)

theorem mem_place {k : Nat} {v : α} {t : Tab α} {e : Nat × α} (h : e ∈ place k v t) : e = (k, v) ∨ e ∈ t := by
  induction t with
  | nil => simp only [place, List.mem_singleton] at h; exact .inl h
  | cons x t ih =>
    obtain ⟨i, w⟩ := x
    by_cases hk : k < i
    · simp only [place, hk, if_true] at h
      rcases List.mem_cons.1 h with h | h
      · exact .inl h
      · exact .inr h
    · simp only [place, hk, if_false] at h
      rcases List.mem_cons.1 h with h | h
      · exact .inr (h ▸ List.mem_cons_self ..)
      · rcases ih h with h | h
        · exact .inl h
        · exact .inr (List.mem_cons_of_mem _ h)

/-- A canonical write lists no entry that reads as an unlisted one. -/
theorem set_entries [DecidableEq α] (d : α) (k : Nat) (v : α) {t : Tab α} (h : ∀ e ∈ t, e.2 ≠ d) :
    ∀ e ∈ set d k v t, e.2 ≠ d := by
  intro e he
  unfold set at he
  by_cases hv : v = d
  · rw [if_pos hv] at he; exact h e (mem_erase he)
  · rw [if_neg hv] at he
    rcases mem_place he with rfl | he
    · exact hv
    · exact h e (mem_erase he)

theorem sorted_filter (p : Nat × α → Bool) {t : Tab α} (h : sorted t = true) : sorted (t.filter p) = true := by
  induction t with
  | nil => rfl
  | cons e t ih =>
    obtain ⟨i, v⟩ := e
    obtain ⟨ha, hs⟩ := sorted_cons.1 h
    by_cases hp : p (i, v) = true
    · rw [List.filter_cons_of_pos hp]
      exact sorted_cons.2 ⟨fun e he => ha e (List.mem_filter.1 he).1, ih hs⟩
    · rw [List.filter_cons_of_neg hp]; exact ih hs

end Sys2Proof.Tab
end

