-- ==== Sys2Proof/Laws/State.lean ====
section
/-!
SUPPORT. Small laws of the state: what each update leaves alone, one lemma for each field, and what reading a core, a strand or a
register finds after an update.
-/
namespace Sys2Proof.Machine

/-! ## Fields that an update leaves alone -/

/-! ### setCore -/

@[simp] theorem State.setCore_mem (s : State) (c : Nat) (k : Core) : (s.setCore c k).mem = s.mem := rfl
@[simp] theorem State.setCore_hostMem (s : State) (c : Nat) (k : Core) : (s.setCore c k).hostMem = s.hostMem := rfl
@[simp] theorem State.setCore_empties (s : State) (c : Nat) (k : Core) : (s.setCore c k).empties = s.empties := rfl
@[simp] theorem State.setCore_badWords (s : State) (c : Nat) (k : Core) : (s.setCore c k).badWords = s.badWords := rfl
@[simp] theorem State.setCore_records (s : State) (c : Nat) (k : Core) : (s.setCore c k).records = s.records := rfl
@[simp] theorem State.setCore_octets (s : State) (c : Nat) (k : Core) : (s.setCore c k).octets = s.octets := rfl
@[simp] theorem State.setCore_rails (s : State) (c : Nat) (k : Core) : (s.setCore c k).rails = s.rails := rfl
@[simp] theorem State.setCore_clusters (s : State) (c : Nat) (k : Core) : (s.setCore c k).clusters = s.clusters := rfl
@[simp] theorem State.setCore_domains (s : State) (c : Nat) (k : Core) : (s.setCore c k).domains = s.domains := rfl
@[simp] theorem State.setCore_ctxs (s : State) (c : Nat) (k : Core) : (s.setCore c k).ctxs = s.ctxs := rfl
@[simp] theorem State.setCore_launches (s : State) (c : Nat) (k : Core) : (s.setCore c k).launches = s.launches := rfl
@[simp] theorem State.setCore_images (s : State) (c : Nat) (k : Core) : (s.setCore c k).images = s.images := rfl
@[simp] theorem State.setCore_twins (s : State) (c : Nat) (k : Core) : (s.setCore c k).twins = s.twins := rfl
@[simp] theorem State.setCore_twinImages (s : State) (c : Nat) (k : Core) : (s.setCore c k).twinImages = s.twinImages := rfl
@[simp] theorem State.setCore_rects (s : State) (c : Nat) (k : Core) : (s.setCore c k).rects = s.rects := rfl
@[simp] theorem State.setCore_flits (s : State) (c : Nat) (k : Core) : (s.setCore c k).flits = s.flits := rfl
@[simp] theorem State.setCore_windows (s : State) (c : Nat) (k : Core) : (s.setCore c k).windows = s.windows := rfl
@[simp] theorem State.setCore_host (s : State) (c : Nat) (k : Core) : (s.setCore c k).host = s.host := rfl
@[simp] theorem State.setCore_control (s : State) (c : Nat) (k : Core) : (s.setCore c k).control = s.control := rfl
@[simp] theorem State.setCore_ports (s : State) (c : Nat) (k : Core) : (s.setCore c k).ports = s.ports := rfl
@[simp] theorem State.setCore_portsDown (s : State) (c : Nat) (k : Core) : (s.setCore c k).portsDown = s.portsDown := rfl
@[simp] theorem State.setCore_budgetMem (s : State) (c : Nat) (k : Core) : (s.setCore c k).budgetMem = s.budgetMem := rfl
@[simp] theorem State.setCore_budgetArray (s : State) (c : Nat) (k : Core) : (s.setCore c k).budgetArray = s.budgetArray := rfl
@[simp] theorem State.setCore_time (s : State) (c : Nat) (k : Core) : (s.setCore c k).time = s.time := rfl
@[simp] theorem State.setCore_lastTick (s : State) (c : Nat) (k : Core) : (s.setCore c k).lastTick = s.lastTick := rfl
@[simp] theorem State.setCore_lastBudget (s : State) (c : Nat) (k : Core) : (s.setCore c k).lastBudget = s.lastBudget := rfl
@[simp] theorem State.setCore_meter (s : State) (c : Nat) (k : Core) : (s.setCore c k).meter = s.meter := rfl
@[simp] theorem State.setCore_curCore (s : State) (c : Nat) (k : Core) : (s.setCore c k).curCore = s.curCore := rfl
@[simp] theorem State.setCore_curStrand (s : State) (c : Nat) (k : Core) : (s.setCore c k).curStrand = s.curStrand := rfl
@[simp] theorem State.setCore_agenda (s : State) (c : Nat) (k : Core) : (s.setCore c k).agenda = s.agenda := rfl
@[simp] theorem State.setCore_nextCore (s : State) (c : Nat) (k : Core) : (s.setCore c k).nextCore = s.nextCore := rfl
@[simp] theorem State.setCore_freeCtr (s : State) (c : Nat) (k : Core) : (s.setCore c k).freeCtr = s.freeCtr := rfl
@[simp] theorem State.setCore_nextId (s : State) (c : Nat) (k : Core) : (s.setCore c k).nextId = s.nextId := rfl
@[simp] theorem State.setCore_nextLaunch (s : State) (c : Nat) (k : Core) : (s.setCore c k).nextLaunch = s.nextLaunch := rfl
@[simp] theorem State.setCore_lost (s : State) (c : Nat) (k : Core) : (s.setCore c k).lost = s.lost := rfl
@[simp] theorem State.setCore_nacked (s : State) (c : Nat) (k : Core) : (s.setCore c k).nacked = s.nacked := rfl
@[simp] theorem State.setCore_codeLog (s : State) (c : Nat) (k : Core) : (s.setCore c k).codeLog = s.codeLog := rfl

/-! ### setPart -/

@[simp] theorem State.setPart_mem (s : State) (c : Nat) (p : Part) : (s.setPart c p).mem = s.mem := rfl
@[simp] theorem State.setPart_hostMem (s : State) (c : Nat) (p : Part) : (s.setPart c p).hostMem = s.hostMem := rfl
@[simp] theorem State.setPart_empties (s : State) (c : Nat) (p : Part) : (s.setPart c p).empties = s.empties := rfl
@[simp] theorem State.setPart_badWords (s : State) (c : Nat) (p : Part) : (s.setPart c p).badWords = s.badWords := rfl
@[simp] theorem State.setPart_records (s : State) (c : Nat) (p : Part) : (s.setPart c p).records = s.records := rfl
@[simp] theorem State.setPart_octets (s : State) (c : Nat) (p : Part) : (s.setPart c p).octets = s.octets := rfl
@[simp] theorem State.setPart_rails (s : State) (c : Nat) (p : Part) : (s.setPart c p).rails = s.rails := rfl
@[simp] theorem State.setPart_clusters (s : State) (c : Nat) (p : Part) : (s.setPart c p).clusters = s.clusters := rfl
@[simp] theorem State.setPart_domains (s : State) (c : Nat) (p : Part) : (s.setPart c p).domains = s.domains := rfl
@[simp] theorem State.setPart_ctxs (s : State) (c : Nat) (p : Part) : (s.setPart c p).ctxs = s.ctxs := rfl
@[simp] theorem State.setPart_launches (s : State) (c : Nat) (p : Part) : (s.setPart c p).launches = s.launches := rfl
@[simp] theorem State.setPart_images (s : State) (c : Nat) (p : Part) : (s.setPart c p).images = s.images := rfl
@[simp] theorem State.setPart_twins (s : State) (c : Nat) (p : Part) : (s.setPart c p).twins = s.twins := rfl
@[simp] theorem State.setPart_twinImages (s : State) (c : Nat) (p : Part) : (s.setPart c p).twinImages = s.twinImages := rfl
@[simp] theorem State.setPart_rects (s : State) (c : Nat) (p : Part) : (s.setPart c p).rects = s.rects := rfl
@[simp] theorem State.setPart_flits (s : State) (c : Nat) (p : Part) : (s.setPart c p).flits = s.flits := rfl
@[simp] theorem State.setPart_windows (s : State) (c : Nat) (p : Part) : (s.setPart c p).windows = s.windows := rfl
@[simp] theorem State.setPart_host (s : State) (c : Nat) (p : Part) : (s.setPart c p).host = s.host := rfl
@[simp] theorem State.setPart_control (s : State) (c : Nat) (p : Part) : (s.setPart c p).control = s.control := rfl
@[simp] theorem State.setPart_ports (s : State) (c : Nat) (p : Part) : (s.setPart c p).ports = s.ports := rfl
@[simp] theorem State.setPart_portsDown (s : State) (c : Nat) (p : Part) : (s.setPart c p).portsDown = s.portsDown := rfl
@[simp] theorem State.setPart_budgetMem (s : State) (c : Nat) (p : Part) : (s.setPart c p).budgetMem = s.budgetMem := rfl
@[simp] theorem State.setPart_budgetArray (s : State) (c : Nat) (p : Part) : (s.setPart c p).budgetArray = s.budgetArray := rfl
@[simp] theorem State.setPart_time (s : State) (c : Nat) (p : Part) : (s.setPart c p).time = s.time := rfl
@[simp] theorem State.setPart_lastTick (s : State) (c : Nat) (p : Part) : (s.setPart c p).lastTick = s.lastTick := rfl
@[simp] theorem State.setPart_lastBudget (s : State) (c : Nat) (p : Part) : (s.setPart c p).lastBudget = s.lastBudget := rfl
@[simp] theorem State.setPart_meter (s : State) (c : Nat) (p : Part) : (s.setPart c p).meter = s.meter := rfl
@[simp] theorem State.setPart_curCore (s : State) (c : Nat) (p : Part) : (s.setPart c p).curCore = s.curCore := rfl
@[simp] theorem State.setPart_curStrand (s : State) (c : Nat) (p : Part) : (s.setPart c p).curStrand = s.curStrand := rfl
@[simp] theorem State.setPart_agenda (s : State) (c : Nat) (p : Part) : (s.setPart c p).agenda = s.agenda := rfl
@[simp] theorem State.setPart_nextCore (s : State) (c : Nat) (p : Part) : (s.setPart c p).nextCore = s.nextCore := rfl
@[simp] theorem State.setPart_freeCtr (s : State) (c : Nat) (p : Part) : (s.setPart c p).freeCtr = s.freeCtr := rfl
@[simp] theorem State.setPart_nextId (s : State) (c : Nat) (p : Part) : (s.setPart c p).nextId = s.nextId := rfl
@[simp] theorem State.setPart_nextLaunch (s : State) (c : Nat) (p : Part) : (s.setPart c p).nextLaunch = s.nextLaunch := rfl
@[simp] theorem State.setPart_lost (s : State) (c : Nat) (p : Part) : (s.setPart c p).lost = s.lost := rfl
@[simp] theorem State.setPart_nacked (s : State) (c : Nat) (p : Part) : (s.setPart c p).nacked = s.nacked := rfl
@[simp] theorem State.setPart_codeLog (s : State) (c : Nat) (p : Part) : (s.setPart c p).codeLog = s.codeLog := rfl

/-! ### setStrand -/

@[simp] theorem State.setStrand_mem (s : State) (c t : Nat) (st : Strand) : (s.setStrand c t st).mem = s.mem := rfl
@[simp] theorem State.setStrand_hostMem (s : State) (c t : Nat) (st : Strand) : (s.setStrand c t st).hostMem = s.hostMem := rfl
@[simp] theorem State.setStrand_empties (s : State) (c t : Nat) (st : Strand) : (s.setStrand c t st).empties = s.empties := rfl
@[simp] theorem State.setStrand_badWords (s : State) (c t : Nat) (st : Strand) : (s.setStrand c t st).badWords = s.badWords := rfl
@[simp] theorem State.setStrand_records (s : State) (c t : Nat) (st : Strand) : (s.setStrand c t st).records = s.records := rfl
@[simp] theorem State.setStrand_octets (s : State) (c t : Nat) (st : Strand) : (s.setStrand c t st).octets = s.octets := rfl
@[simp] theorem State.setStrand_rails (s : State) (c t : Nat) (st : Strand) : (s.setStrand c t st).rails = s.rails := rfl
@[simp] theorem State.setStrand_clusters (s : State) (c t : Nat) (st : Strand) : (s.setStrand c t st).clusters = s.clusters := rfl
@[simp] theorem State.setStrand_domains (s : State) (c t : Nat) (st : Strand) : (s.setStrand c t st).domains = s.domains := rfl
@[simp] theorem State.setStrand_ctxs (s : State) (c t : Nat) (st : Strand) : (s.setStrand c t st).ctxs = s.ctxs := rfl
@[simp] theorem State.setStrand_launches (s : State) (c t : Nat) (st : Strand) : (s.setStrand c t st).launches = s.launches := rfl
@[simp] theorem State.setStrand_images (s : State) (c t : Nat) (st : Strand) : (s.setStrand c t st).images = s.images := rfl
@[simp] theorem State.setStrand_twins (s : State) (c t : Nat) (st : Strand) : (s.setStrand c t st).twins = s.twins := rfl
@[simp] theorem State.setStrand_twinImages (s : State) (c t : Nat) (st : Strand) : (s.setStrand c t st).twinImages = s.twinImages := rfl
@[simp] theorem State.setStrand_rects (s : State) (c t : Nat) (st : Strand) : (s.setStrand c t st).rects = s.rects := rfl
@[simp] theorem State.setStrand_flits (s : State) (c t : Nat) (st : Strand) : (s.setStrand c t st).flits = s.flits := rfl
@[simp] theorem State.setStrand_windows (s : State) (c t : Nat) (st : Strand) : (s.setStrand c t st).windows = s.windows := rfl
@[simp] theorem State.setStrand_host (s : State) (c t : Nat) (st : Strand) : (s.setStrand c t st).host = s.host := rfl
@[simp] theorem State.setStrand_control (s : State) (c t : Nat) (st : Strand) : (s.setStrand c t st).control = s.control := rfl
@[simp] theorem State.setStrand_ports (s : State) (c t : Nat) (st : Strand) : (s.setStrand c t st).ports = s.ports := rfl
@[simp] theorem State.setStrand_portsDown (s : State) (c t : Nat) (st : Strand) : (s.setStrand c t st).portsDown = s.portsDown := rfl
@[simp] theorem State.setStrand_budgetMem (s : State) (c t : Nat) (st : Strand) : (s.setStrand c t st).budgetMem = s.budgetMem := rfl
@[simp] theorem State.setStrand_budgetArray (s : State) (c t : Nat) (st : Strand) : (s.setStrand c t st).budgetArray = s.budgetArray := rfl
@[simp] theorem State.setStrand_time (s : State) (c t : Nat) (st : Strand) : (s.setStrand c t st).time = s.time := rfl
@[simp] theorem State.setStrand_lastTick (s : State) (c t : Nat) (st : Strand) : (s.setStrand c t st).lastTick = s.lastTick := rfl
@[simp] theorem State.setStrand_lastBudget (s : State) (c t : Nat) (st : Strand) : (s.setStrand c t st).lastBudget = s.lastBudget := rfl
@[simp] theorem State.setStrand_meter (s : State) (c t : Nat) (st : Strand) : (s.setStrand c t st).meter = s.meter := rfl
@[simp] theorem State.setStrand_curCore (s : State) (c t : Nat) (st : Strand) : (s.setStrand c t st).curCore = s.curCore := rfl
@[simp] theorem State.setStrand_curStrand (s : State) (c t : Nat) (st : Strand) : (s.setStrand c t st).curStrand = s.curStrand := rfl
@[simp] theorem State.setStrand_agenda (s : State) (c t : Nat) (st : Strand) : (s.setStrand c t st).agenda = s.agenda := rfl
@[simp] theorem State.setStrand_nextCore (s : State) (c t : Nat) (st : Strand) : (s.setStrand c t st).nextCore = s.nextCore := rfl
@[simp] theorem State.setStrand_freeCtr (s : State) (c t : Nat) (st : Strand) : (s.setStrand c t st).freeCtr = s.freeCtr := rfl
@[simp] theorem State.setStrand_nextId (s : State) (c t : Nat) (st : Strand) : (s.setStrand c t st).nextId = s.nextId := rfl
@[simp] theorem State.setStrand_nextLaunch (s : State) (c t : Nat) (st : Strand) : (s.setStrand c t st).nextLaunch = s.nextLaunch := rfl
@[simp] theorem State.setStrand_lost (s : State) (c t : Nat) (st : Strand) : (s.setStrand c t st).lost = s.lost := rfl
@[simp] theorem State.setStrand_nacked (s : State) (c t : Nat) (st : Strand) : (s.setStrand c t st).nacked = s.nacked := rfl
@[simp] theorem State.setStrand_codeLog (s : State) (c t : Nat) (st : Strand) : (s.setStrand c t st).codeLog = s.codeLog := rfl

/-! ### setMe -/

@[simp] theorem State.setMe_mem (s : State) (st : Strand) : (s.setMe st).mem = s.mem := rfl
@[simp] theorem State.setMe_hostMem (s : State) (st : Strand) : (s.setMe st).hostMem = s.hostMem := rfl
@[simp] theorem State.setMe_empties (s : State) (st : Strand) : (s.setMe st).empties = s.empties := rfl
@[simp] theorem State.setMe_badWords (s : State) (st : Strand) : (s.setMe st).badWords = s.badWords := rfl
@[simp] theorem State.setMe_records (s : State) (st : Strand) : (s.setMe st).records = s.records := rfl
@[simp] theorem State.setMe_octets (s : State) (st : Strand) : (s.setMe st).octets = s.octets := rfl
@[simp] theorem State.setMe_rails (s : State) (st : Strand) : (s.setMe st).rails = s.rails := rfl
@[simp] theorem State.setMe_clusters (s : State) (st : Strand) : (s.setMe st).clusters = s.clusters := rfl
@[simp] theorem State.setMe_domains (s : State) (st : Strand) : (s.setMe st).domains = s.domains := rfl
@[simp] theorem State.setMe_ctxs (s : State) (st : Strand) : (s.setMe st).ctxs = s.ctxs := rfl
@[simp] theorem State.setMe_launches (s : State) (st : Strand) : (s.setMe st).launches = s.launches := rfl
@[simp] theorem State.setMe_images (s : State) (st : Strand) : (s.setMe st).images = s.images := rfl
@[simp] theorem State.setMe_twins (s : State) (st : Strand) : (s.setMe st).twins = s.twins := rfl
@[simp] theorem State.setMe_twinImages (s : State) (st : Strand) : (s.setMe st).twinImages = s.twinImages := rfl
@[simp] theorem State.setMe_rects (s : State) (st : Strand) : (s.setMe st).rects = s.rects := rfl
@[simp] theorem State.setMe_flits (s : State) (st : Strand) : (s.setMe st).flits = s.flits := rfl
@[simp] theorem State.setMe_windows (s : State) (st : Strand) : (s.setMe st).windows = s.windows := rfl
@[simp] theorem State.setMe_host (s : State) (st : Strand) : (s.setMe st).host = s.host := rfl
@[simp] theorem State.setMe_control (s : State) (st : Strand) : (s.setMe st).control = s.control := rfl
@[simp] theorem State.setMe_ports (s : State) (st : Strand) : (s.setMe st).ports = s.ports := rfl
@[simp] theorem State.setMe_portsDown (s : State) (st : Strand) : (s.setMe st).portsDown = s.portsDown := rfl
@[simp] theorem State.setMe_budgetMem (s : State) (st : Strand) : (s.setMe st).budgetMem = s.budgetMem := rfl
@[simp] theorem State.setMe_budgetArray (s : State) (st : Strand) : (s.setMe st).budgetArray = s.budgetArray := rfl
@[simp] theorem State.setMe_time (s : State) (st : Strand) : (s.setMe st).time = s.time := rfl
@[simp] theorem State.setMe_lastTick (s : State) (st : Strand) : (s.setMe st).lastTick = s.lastTick := rfl
@[simp] theorem State.setMe_lastBudget (s : State) (st : Strand) : (s.setMe st).lastBudget = s.lastBudget := rfl
@[simp] theorem State.setMe_meter (s : State) (st : Strand) : (s.setMe st).meter = s.meter := rfl
@[simp] theorem State.setMe_curCore (s : State) (st : Strand) : (s.setMe st).curCore = s.curCore := rfl
@[simp] theorem State.setMe_curStrand (s : State) (st : Strand) : (s.setMe st).curStrand = s.curStrand := rfl
@[simp] theorem State.setMe_agenda (s : State) (st : Strand) : (s.setMe st).agenda = s.agenda := rfl
@[simp] theorem State.setMe_nextCore (s : State) (st : Strand) : (s.setMe st).nextCore = s.nextCore := rfl
@[simp] theorem State.setMe_freeCtr (s : State) (st : Strand) : (s.setMe st).freeCtr = s.freeCtr := rfl
@[simp] theorem State.setMe_nextId (s : State) (st : Strand) : (s.setMe st).nextId = s.nextId := rfl
@[simp] theorem State.setMe_nextLaunch (s : State) (st : Strand) : (s.setMe st).nextLaunch = s.nextLaunch := rfl
@[simp] theorem State.setMe_lost (s : State) (st : Strand) : (s.setMe st).lost = s.lost := rfl
@[simp] theorem State.setMe_nacked (s : State) (st : Strand) : (s.setMe st).nacked = s.nacked := rfl
@[simp] theorem State.setMe_codeLog (s : State) (st : Strand) : (s.setMe st).codeLog = s.codeLog := rfl

/-! ### setMyCore -/

@[simp] theorem State.setMyCore_mem (s : State) (k : Core) : (s.setMyCore k).mem = s.mem := rfl
@[simp] theorem State.setMyCore_hostMem (s : State) (k : Core) : (s.setMyCore k).hostMem = s.hostMem := rfl
@[simp] theorem State.setMyCore_empties (s : State) (k : Core) : (s.setMyCore k).empties = s.empties := rfl
@[simp] theorem State.setMyCore_badWords (s : State) (k : Core) : (s.setMyCore k).badWords = s.badWords := rfl
@[simp] theorem State.setMyCore_records (s : State) (k : Core) : (s.setMyCore k).records = s.records := rfl
@[simp] theorem State.setMyCore_octets (s : State) (k : Core) : (s.setMyCore k).octets = s.octets := rfl
@[simp] theorem State.setMyCore_rails (s : State) (k : Core) : (s.setMyCore k).rails = s.rails := rfl
@[simp] theorem State.setMyCore_clusters (s : State) (k : Core) : (s.setMyCore k).clusters = s.clusters := rfl
@[simp] theorem State.setMyCore_domains (s : State) (k : Core) : (s.setMyCore k).domains = s.domains := rfl
@[simp] theorem State.setMyCore_ctxs (s : State) (k : Core) : (s.setMyCore k).ctxs = s.ctxs := rfl
@[simp] theorem State.setMyCore_launches (s : State) (k : Core) : (s.setMyCore k).launches = s.launches := rfl
@[simp] theorem State.setMyCore_images (s : State) (k : Core) : (s.setMyCore k).images = s.images := rfl
@[simp] theorem State.setMyCore_twins (s : State) (k : Core) : (s.setMyCore k).twins = s.twins := rfl
@[simp] theorem State.setMyCore_twinImages (s : State) (k : Core) : (s.setMyCore k).twinImages = s.twinImages := rfl
@[simp] theorem State.setMyCore_rects (s : State) (k : Core) : (s.setMyCore k).rects = s.rects := rfl
@[simp] theorem State.setMyCore_flits (s : State) (k : Core) : (s.setMyCore k).flits = s.flits := rfl
@[simp] theorem State.setMyCore_windows (s : State) (k : Core) : (s.setMyCore k).windows = s.windows := rfl
@[simp] theorem State.setMyCore_host (s : State) (k : Core) : (s.setMyCore k).host = s.host := rfl
@[simp] theorem State.setMyCore_control (s : State) (k : Core) : (s.setMyCore k).control = s.control := rfl
@[simp] theorem State.setMyCore_ports (s : State) (k : Core) : (s.setMyCore k).ports = s.ports := rfl
@[simp] theorem State.setMyCore_portsDown (s : State) (k : Core) : (s.setMyCore k).portsDown = s.portsDown := rfl
@[simp] theorem State.setMyCore_budgetMem (s : State) (k : Core) : (s.setMyCore k).budgetMem = s.budgetMem := rfl
@[simp] theorem State.setMyCore_budgetArray (s : State) (k : Core) : (s.setMyCore k).budgetArray = s.budgetArray := rfl
@[simp] theorem State.setMyCore_time (s : State) (k : Core) : (s.setMyCore k).time = s.time := rfl
@[simp] theorem State.setMyCore_lastTick (s : State) (k : Core) : (s.setMyCore k).lastTick = s.lastTick := rfl
@[simp] theorem State.setMyCore_lastBudget (s : State) (k : Core) : (s.setMyCore k).lastBudget = s.lastBudget := rfl
@[simp] theorem State.setMyCore_meter (s : State) (k : Core) : (s.setMyCore k).meter = s.meter := rfl
@[simp] theorem State.setMyCore_curCore (s : State) (k : Core) : (s.setMyCore k).curCore = s.curCore := rfl
@[simp] theorem State.setMyCore_curStrand (s : State) (k : Core) : (s.setMyCore k).curStrand = s.curStrand := rfl
@[simp] theorem State.setMyCore_agenda (s : State) (k : Core) : (s.setMyCore k).agenda = s.agenda := rfl
@[simp] theorem State.setMyCore_nextCore (s : State) (k : Core) : (s.setMyCore k).nextCore = s.nextCore := rfl
@[simp] theorem State.setMyCore_freeCtr (s : State) (k : Core) : (s.setMyCore k).freeCtr = s.freeCtr := rfl
@[simp] theorem State.setMyCore_nextId (s : State) (k : Core) : (s.setMyCore k).nextId = s.nextId := rfl
@[simp] theorem State.setMyCore_nextLaunch (s : State) (k : Core) : (s.setMyCore k).nextLaunch = s.nextLaunch := rfl
@[simp] theorem State.setMyCore_lost (s : State) (k : Core) : (s.setMyCore k).lost = s.lost := rfl
@[simp] theorem State.setMyCore_nacked (s : State) (k : Core) : (s.setMyCore k).nacked = s.nacked := rfl
@[simp] theorem State.setMyCore_codeLog (s : State) (k : Core) : (s.setMyCore k).codeLog = s.codeLog := rfl

/-! ### setMyPart -/

@[simp] theorem State.setMyPart_mem (s : State) (p : Part) : (s.setMyPart p).mem = s.mem := rfl
@[simp] theorem State.setMyPart_hostMem (s : State) (p : Part) : (s.setMyPart p).hostMem = s.hostMem := rfl
@[simp] theorem State.setMyPart_empties (s : State) (p : Part) : (s.setMyPart p).empties = s.empties := rfl
@[simp] theorem State.setMyPart_badWords (s : State) (p : Part) : (s.setMyPart p).badWords = s.badWords := rfl
@[simp] theorem State.setMyPart_records (s : State) (p : Part) : (s.setMyPart p).records = s.records := rfl
@[simp] theorem State.setMyPart_octets (s : State) (p : Part) : (s.setMyPart p).octets = s.octets := rfl
@[simp] theorem State.setMyPart_rails (s : State) (p : Part) : (s.setMyPart p).rails = s.rails := rfl
@[simp] theorem State.setMyPart_clusters (s : State) (p : Part) : (s.setMyPart p).clusters = s.clusters := rfl
@[simp] theorem State.setMyPart_domains (s : State) (p : Part) : (s.setMyPart p).domains = s.domains := rfl
@[simp] theorem State.setMyPart_ctxs (s : State) (p : Part) : (s.setMyPart p).ctxs = s.ctxs := rfl
@[simp] theorem State.setMyPart_launches (s : State) (p : Part) : (s.setMyPart p).launches = s.launches := rfl
@[simp] theorem State.setMyPart_images (s : State) (p : Part) : (s.setMyPart p).images = s.images := rfl
@[simp] theorem State.setMyPart_twins (s : State) (p : Part) : (s.setMyPart p).twins = s.twins := rfl
@[simp] theorem State.setMyPart_twinImages (s : State) (p : Part) : (s.setMyPart p).twinImages = s.twinImages := rfl
@[simp] theorem State.setMyPart_rects (s : State) (p : Part) : (s.setMyPart p).rects = s.rects := rfl
@[simp] theorem State.setMyPart_flits (s : State) (p : Part) : (s.setMyPart p).flits = s.flits := rfl
@[simp] theorem State.setMyPart_windows (s : State) (p : Part) : (s.setMyPart p).windows = s.windows := rfl
@[simp] theorem State.setMyPart_host (s : State) (p : Part) : (s.setMyPart p).host = s.host := rfl
@[simp] theorem State.setMyPart_control (s : State) (p : Part) : (s.setMyPart p).control = s.control := rfl
@[simp] theorem State.setMyPart_ports (s : State) (p : Part) : (s.setMyPart p).ports = s.ports := rfl
@[simp] theorem State.setMyPart_portsDown (s : State) (p : Part) : (s.setMyPart p).portsDown = s.portsDown := rfl
@[simp] theorem State.setMyPart_budgetMem (s : State) (p : Part) : (s.setMyPart p).budgetMem = s.budgetMem := rfl
@[simp] theorem State.setMyPart_budgetArray (s : State) (p : Part) : (s.setMyPart p).budgetArray = s.budgetArray := rfl
@[simp] theorem State.setMyPart_time (s : State) (p : Part) : (s.setMyPart p).time = s.time := rfl
@[simp] theorem State.setMyPart_lastTick (s : State) (p : Part) : (s.setMyPart p).lastTick = s.lastTick := rfl
@[simp] theorem State.setMyPart_lastBudget (s : State) (p : Part) : (s.setMyPart p).lastBudget = s.lastBudget := rfl
@[simp] theorem State.setMyPart_meter (s : State) (p : Part) : (s.setMyPart p).meter = s.meter := rfl
@[simp] theorem State.setMyPart_curCore (s : State) (p : Part) : (s.setMyPart p).curCore = s.curCore := rfl
@[simp] theorem State.setMyPart_curStrand (s : State) (p : Part) : (s.setMyPart p).curStrand = s.curStrand := rfl
@[simp] theorem State.setMyPart_agenda (s : State) (p : Part) : (s.setMyPart p).agenda = s.agenda := rfl
@[simp] theorem State.setMyPart_nextCore (s : State) (p : Part) : (s.setMyPart p).nextCore = s.nextCore := rfl
@[simp] theorem State.setMyPart_freeCtr (s : State) (p : Part) : (s.setMyPart p).freeCtr = s.freeCtr := rfl
@[simp] theorem State.setMyPart_nextId (s : State) (p : Part) : (s.setMyPart p).nextId = s.nextId := rfl
@[simp] theorem State.setMyPart_nextLaunch (s : State) (p : Part) : (s.setMyPart p).nextLaunch = s.nextLaunch := rfl
@[simp] theorem State.setMyPart_lost (s : State) (p : Part) : (s.setMyPart p).lost = s.lost := rfl
@[simp] theorem State.setMyPart_nacked (s : State) (p : Part) : (s.setMyPart p).nacked = s.nacked := rfl
@[simp] theorem State.setMyPart_codeLog (s : State) (p : Part) : (s.setMyPart p).codeLog = s.codeLog := rfl

/-! ### at_ -/

@[simp] theorem State.at_mem (s : State) (c t : Nat) : (s.at_ c t).mem = s.mem := rfl
@[simp] theorem State.at_hostMem (s : State) (c t : Nat) : (s.at_ c t).hostMem = s.hostMem := rfl
@[simp] theorem State.at_empties (s : State) (c t : Nat) : (s.at_ c t).empties = s.empties := rfl
@[simp] theorem State.at_badWords (s : State) (c t : Nat) : (s.at_ c t).badWords = s.badWords := rfl
@[simp] theorem State.at_records (s : State) (c t : Nat) : (s.at_ c t).records = s.records := rfl
@[simp] theorem State.at_cores (s : State) (c t : Nat) : (s.at_ c t).cores = s.cores := rfl
@[simp] theorem State.at_octets (s : State) (c t : Nat) : (s.at_ c t).octets = s.octets := rfl
@[simp] theorem State.at_rails (s : State) (c t : Nat) : (s.at_ c t).rails = s.rails := rfl
@[simp] theorem State.at_clusters (s : State) (c t : Nat) : (s.at_ c t).clusters = s.clusters := rfl
@[simp] theorem State.at_domains (s : State) (c t : Nat) : (s.at_ c t).domains = s.domains := rfl
@[simp] theorem State.at_ctxs (s : State) (c t : Nat) : (s.at_ c t).ctxs = s.ctxs := rfl
@[simp] theorem State.at_launches (s : State) (c t : Nat) : (s.at_ c t).launches = s.launches := rfl
@[simp] theorem State.at_images (s : State) (c t : Nat) : (s.at_ c t).images = s.images := rfl
@[simp] theorem State.at_twins (s : State) (c t : Nat) : (s.at_ c t).twins = s.twins := rfl
@[simp] theorem State.at_twinImages (s : State) (c t : Nat) : (s.at_ c t).twinImages = s.twinImages := rfl
@[simp] theorem State.at_rects (s : State) (c t : Nat) : (s.at_ c t).rects = s.rects := rfl
@[simp] theorem State.at_flits (s : State) (c t : Nat) : (s.at_ c t).flits = s.flits := rfl
@[simp] theorem State.at_windows (s : State) (c t : Nat) : (s.at_ c t).windows = s.windows := rfl
@[simp] theorem State.at_host (s : State) (c t : Nat) : (s.at_ c t).host = s.host := rfl
@[simp] theorem State.at_control (s : State) (c t : Nat) : (s.at_ c t).control = s.control := rfl
@[simp] theorem State.at_ports (s : State) (c t : Nat) : (s.at_ c t).ports = s.ports := rfl
@[simp] theorem State.at_portsDown (s : State) (c t : Nat) : (s.at_ c t).portsDown = s.portsDown := rfl
@[simp] theorem State.at_budgetMem (s : State) (c t : Nat) : (s.at_ c t).budgetMem = s.budgetMem := rfl
@[simp] theorem State.at_budgetArray (s : State) (c t : Nat) : (s.at_ c t).budgetArray = s.budgetArray := rfl
@[simp] theorem State.at_time (s : State) (c t : Nat) : (s.at_ c t).time = s.time := rfl
@[simp] theorem State.at_lastTick (s : State) (c t : Nat) : (s.at_ c t).lastTick = s.lastTick := rfl
@[simp] theorem State.at_lastBudget (s : State) (c t : Nat) : (s.at_ c t).lastBudget = s.lastBudget := rfl
@[simp] theorem State.at_meter (s : State) (c t : Nat) : (s.at_ c t).meter = s.meter := rfl
@[simp] theorem State.at_agenda (s : State) (c t : Nat) : (s.at_ c t).agenda = s.agenda := rfl
@[simp] theorem State.at_nextCore (s : State) (c t : Nat) : (s.at_ c t).nextCore = s.nextCore := rfl
@[simp] theorem State.at_freeCtr (s : State) (c t : Nat) : (s.at_ c t).freeCtr = s.freeCtr := rfl
@[simp] theorem State.at_nextId (s : State) (c t : Nat) : (s.at_ c t).nextId = s.nextId := rfl
@[simp] theorem State.at_nextLaunch (s : State) (c t : Nat) : (s.at_ c t).nextLaunch = s.nextLaunch := rfl
@[simp] theorem State.at_lost (s : State) (c t : Nat) : (s.at_ c t).lost = s.lost := rfl
@[simp] theorem State.at_nacked (s : State) (c t : Nat) : (s.at_ c t).nacked = s.nacked := rfl
@[simp] theorem State.at_codeLog (s : State) (c t : Nat) : (s.at_ c t).codeLog = s.codeLog := rfl
@[simp] theorem State.at_curCore (s : State) (c t : Nat) : (s.at_ c t).curCore = c := rfl
@[simp] theorem State.at_curStrand (s : State) (c t : Nat) : (s.at_ c t).curStrand = t := rfl

/-! ### setOctet -/

@[simp] theorem State.setOctet_mem (s : State) (o : Nat) (x : Octet) : (s.setOctet o x).mem = s.mem := rfl
@[simp] theorem State.setOctet_hostMem (s : State) (o : Nat) (x : Octet) : (s.setOctet o x).hostMem = s.hostMem := rfl
@[simp] theorem State.setOctet_empties (s : State) (o : Nat) (x : Octet) : (s.setOctet o x).empties = s.empties := rfl
@[simp] theorem State.setOctet_badWords (s : State) (o : Nat) (x : Octet) : (s.setOctet o x).badWords = s.badWords := rfl
@[simp] theorem State.setOctet_records (s : State) (o : Nat) (x : Octet) : (s.setOctet o x).records = s.records := rfl
@[simp] theorem State.setOctet_cores (s : State) (o : Nat) (x : Octet) : (s.setOctet o x).cores = s.cores := rfl
@[simp] theorem State.setOctet_rails (s : State) (o : Nat) (x : Octet) : (s.setOctet o x).rails = s.rails := rfl
@[simp] theorem State.setOctet_clusters (s : State) (o : Nat) (x : Octet) : (s.setOctet o x).clusters = s.clusters := rfl
@[simp] theorem State.setOctet_domains (s : State) (o : Nat) (x : Octet) : (s.setOctet o x).domains = s.domains := rfl
@[simp] theorem State.setOctet_ctxs (s : State) (o : Nat) (x : Octet) : (s.setOctet o x).ctxs = s.ctxs := rfl
@[simp] theorem State.setOctet_launches (s : State) (o : Nat) (x : Octet) : (s.setOctet o x).launches = s.launches := rfl
@[simp] theorem State.setOctet_images (s : State) (o : Nat) (x : Octet) : (s.setOctet o x).images = s.images := rfl
@[simp] theorem State.setOctet_twins (s : State) (o : Nat) (x : Octet) : (s.setOctet o x).twins = s.twins := rfl
@[simp] theorem State.setOctet_twinImages (s : State) (o : Nat) (x : Octet) : (s.setOctet o x).twinImages = s.twinImages := rfl
@[simp] theorem State.setOctet_rects (s : State) (o : Nat) (x : Octet) : (s.setOctet o x).rects = s.rects := rfl
@[simp] theorem State.setOctet_flits (s : State) (o : Nat) (x : Octet) : (s.setOctet o x).flits = s.flits := rfl
@[simp] theorem State.setOctet_windows (s : State) (o : Nat) (x : Octet) : (s.setOctet o x).windows = s.windows := rfl
@[simp] theorem State.setOctet_host (s : State) (o : Nat) (x : Octet) : (s.setOctet o x).host = s.host := rfl
@[simp] theorem State.setOctet_control (s : State) (o : Nat) (x : Octet) : (s.setOctet o x).control = s.control := rfl
@[simp] theorem State.setOctet_ports (s : State) (o : Nat) (x : Octet) : (s.setOctet o x).ports = s.ports := rfl
@[simp] theorem State.setOctet_portsDown (s : State) (o : Nat) (x : Octet) : (s.setOctet o x).portsDown = s.portsDown := rfl
@[simp] theorem State.setOctet_budgetMem (s : State) (o : Nat) (x : Octet) : (s.setOctet o x).budgetMem = s.budgetMem := rfl
@[simp] theorem State.setOctet_budgetArray (s : State) (o : Nat) (x : Octet) : (s.setOctet o x).budgetArray = s.budgetArray := rfl
@[simp] theorem State.setOctet_time (s : State) (o : Nat) (x : Octet) : (s.setOctet o x).time = s.time := rfl
@[simp] theorem State.setOctet_lastTick (s : State) (o : Nat) (x : Octet) : (s.setOctet o x).lastTick = s.lastTick := rfl
@[simp] theorem State.setOctet_lastBudget (s : State) (o : Nat) (x : Octet) : (s.setOctet o x).lastBudget = s.lastBudget := rfl
@[simp] theorem State.setOctet_meter (s : State) (o : Nat) (x : Octet) : (s.setOctet o x).meter = s.meter := rfl
@[simp] theorem State.setOctet_curCore (s : State) (o : Nat) (x : Octet) : (s.setOctet o x).curCore = s.curCore := rfl
@[simp] theorem State.setOctet_curStrand (s : State) (o : Nat) (x : Octet) : (s.setOctet o x).curStrand = s.curStrand := rfl
@[simp] theorem State.setOctet_agenda (s : State) (o : Nat) (x : Octet) : (s.setOctet o x).agenda = s.agenda := rfl
@[simp] theorem State.setOctet_nextCore (s : State) (o : Nat) (x : Octet) : (s.setOctet o x).nextCore = s.nextCore := rfl
@[simp] theorem State.setOctet_freeCtr (s : State) (o : Nat) (x : Octet) : (s.setOctet o x).freeCtr = s.freeCtr := rfl
@[simp] theorem State.setOctet_nextId (s : State) (o : Nat) (x : Octet) : (s.setOctet o x).nextId = s.nextId := rfl
@[simp] theorem State.setOctet_nextLaunch (s : State) (o : Nat) (x : Octet) : (s.setOctet o x).nextLaunch = s.nextLaunch := rfl
@[simp] theorem State.setOctet_lost (s : State) (o : Nat) (x : Octet) : (s.setOctet o x).lost = s.lost := rfl
@[simp] theorem State.setOctet_nacked (s : State) (o : Nat) (x : Octet) : (s.setOctet o x).nacked = s.nacked := rfl
@[simp] theorem State.setOctet_codeLog (s : State) (o : Nat) (x : Octet) : (s.setOctet o x).codeLog = s.codeLog := rfl

/-! ### setCluster -/

@[simp] theorem State.setCluster_mem (s : State) (k : Nat) (x : Cluster) : (s.setCluster k x).mem = s.mem := rfl
@[simp] theorem State.setCluster_hostMem (s : State) (k : Nat) (x : Cluster) : (s.setCluster k x).hostMem = s.hostMem := rfl
@[simp] theorem State.setCluster_empties (s : State) (k : Nat) (x : Cluster) : (s.setCluster k x).empties = s.empties := rfl
@[simp] theorem State.setCluster_badWords (s : State) (k : Nat) (x : Cluster) : (s.setCluster k x).badWords = s.badWords := rfl
@[simp] theorem State.setCluster_records (s : State) (k : Nat) (x : Cluster) : (s.setCluster k x).records = s.records := rfl
@[simp] theorem State.setCluster_cores (s : State) (k : Nat) (x : Cluster) : (s.setCluster k x).cores = s.cores := rfl
@[simp] theorem State.setCluster_octets (s : State) (k : Nat) (x : Cluster) : (s.setCluster k x).octets = s.octets := rfl
@[simp] theorem State.setCluster_rails (s : State) (k : Nat) (x : Cluster) : (s.setCluster k x).rails = s.rails := rfl
@[simp] theorem State.setCluster_domains (s : State) (k : Nat) (x : Cluster) : (s.setCluster k x).domains = s.domains := rfl
@[simp] theorem State.setCluster_ctxs (s : State) (k : Nat) (x : Cluster) : (s.setCluster k x).ctxs = s.ctxs := rfl
@[simp] theorem State.setCluster_launches (s : State) (k : Nat) (x : Cluster) : (s.setCluster k x).launches = s.launches := rfl
@[simp] theorem State.setCluster_images (s : State) (k : Nat) (x : Cluster) : (s.setCluster k x).images = s.images := rfl
@[simp] theorem State.setCluster_twins (s : State) (k : Nat) (x : Cluster) : (s.setCluster k x).twins = s.twins := rfl
@[simp] theorem State.setCluster_twinImages (s : State) (k : Nat) (x : Cluster) : (s.setCluster k x).twinImages = s.twinImages := rfl
@[simp] theorem State.setCluster_rects (s : State) (k : Nat) (x : Cluster) : (s.setCluster k x).rects = s.rects := rfl
@[simp] theorem State.setCluster_flits (s : State) (k : Nat) (x : Cluster) : (s.setCluster k x).flits = s.flits := rfl
@[simp] theorem State.setCluster_windows (s : State) (k : Nat) (x : Cluster) : (s.setCluster k x).windows = s.windows := rfl
@[simp] theorem State.setCluster_host (s : State) (k : Nat) (x : Cluster) : (s.setCluster k x).host = s.host := rfl
@[simp] theorem State.setCluster_control (s : State) (k : Nat) (x : Cluster) : (s.setCluster k x).control = s.control := rfl
@[simp] theorem State.setCluster_ports (s : State) (k : Nat) (x : Cluster) : (s.setCluster k x).ports = s.ports := rfl
@[simp] theorem State.setCluster_portsDown (s : State) (k : Nat) (x : Cluster) : (s.setCluster k x).portsDown = s.portsDown := rfl
@[simp] theorem State.setCluster_budgetMem (s : State) (k : Nat) (x : Cluster) : (s.setCluster k x).budgetMem = s.budgetMem := rfl
@[simp] theorem State.setCluster_budgetArray (s : State) (k : Nat) (x : Cluster) : (s.setCluster k x).budgetArray = s.budgetArray := rfl
@[simp] theorem State.setCluster_time (s : State) (k : Nat) (x : Cluster) : (s.setCluster k x).time = s.time := rfl
@[simp] theorem State.setCluster_lastTick (s : State) (k : Nat) (x : Cluster) : (s.setCluster k x).lastTick = s.lastTick := rfl
@[simp] theorem State.setCluster_lastBudget (s : State) (k : Nat) (x : Cluster) : (s.setCluster k x).lastBudget = s.lastBudget := rfl
@[simp] theorem State.setCluster_meter (s : State) (k : Nat) (x : Cluster) : (s.setCluster k x).meter = s.meter := rfl
@[simp] theorem State.setCluster_curCore (s : State) (k : Nat) (x : Cluster) : (s.setCluster k x).curCore = s.curCore := rfl
@[simp] theorem State.setCluster_curStrand (s : State) (k : Nat) (x : Cluster) : (s.setCluster k x).curStrand = s.curStrand := rfl
@[simp] theorem State.setCluster_agenda (s : State) (k : Nat) (x : Cluster) : (s.setCluster k x).agenda = s.agenda := rfl
@[simp] theorem State.setCluster_nextCore (s : State) (k : Nat) (x : Cluster) : (s.setCluster k x).nextCore = s.nextCore := rfl
@[simp] theorem State.setCluster_freeCtr (s : State) (k : Nat) (x : Cluster) : (s.setCluster k x).freeCtr = s.freeCtr := rfl
@[simp] theorem State.setCluster_nextId (s : State) (k : Nat) (x : Cluster) : (s.setCluster k x).nextId = s.nextId := rfl
@[simp] theorem State.setCluster_nextLaunch (s : State) (k : Nat) (x : Cluster) : (s.setCluster k x).nextLaunch = s.nextLaunch := rfl
@[simp] theorem State.setCluster_lost (s : State) (k : Nat) (x : Cluster) : (s.setCluster k x).lost = s.lost := rfl
@[simp] theorem State.setCluster_nacked (s : State) (k : Nat) (x : Cluster) : (s.setCluster k x).nacked = s.nacked := rfl
@[simp] theorem State.setCluster_codeLog (s : State) (k : Nat) (x : Cluster) : (s.setCluster k x).codeLog = s.codeLog := rfl

/-! ### setRail -/

@[simp] theorem State.setRail_mem (s : State) (q : Nat) (x : Rail) : (s.setRail q x).mem = s.mem := rfl
@[simp] theorem State.setRail_hostMem (s : State) (q : Nat) (x : Rail) : (s.setRail q x).hostMem = s.hostMem := rfl
@[simp] theorem State.setRail_empties (s : State) (q : Nat) (x : Rail) : (s.setRail q x).empties = s.empties := rfl
@[simp] theorem State.setRail_badWords (s : State) (q : Nat) (x : Rail) : (s.setRail q x).badWords = s.badWords := rfl
@[simp] theorem State.setRail_records (s : State) (q : Nat) (x : Rail) : (s.setRail q x).records = s.records := rfl
@[simp] theorem State.setRail_cores (s : State) (q : Nat) (x : Rail) : (s.setRail q x).cores = s.cores := rfl
@[simp] theorem State.setRail_octets (s : State) (q : Nat) (x : Rail) : (s.setRail q x).octets = s.octets := rfl
@[simp] theorem State.setRail_clusters (s : State) (q : Nat) (x : Rail) : (s.setRail q x).clusters = s.clusters := rfl
@[simp] theorem State.setRail_domains (s : State) (q : Nat) (x : Rail) : (s.setRail q x).domains = s.domains := rfl
@[simp] theorem State.setRail_ctxs (s : State) (q : Nat) (x : Rail) : (s.setRail q x).ctxs = s.ctxs := rfl
@[simp] theorem State.setRail_launches (s : State) (q : Nat) (x : Rail) : (s.setRail q x).launches = s.launches := rfl
@[simp] theorem State.setRail_images (s : State) (q : Nat) (x : Rail) : (s.setRail q x).images = s.images := rfl
@[simp] theorem State.setRail_twins (s : State) (q : Nat) (x : Rail) : (s.setRail q x).twins = s.twins := rfl
@[simp] theorem State.setRail_twinImages (s : State) (q : Nat) (x : Rail) : (s.setRail q x).twinImages = s.twinImages := rfl
@[simp] theorem State.setRail_rects (s : State) (q : Nat) (x : Rail) : (s.setRail q x).rects = s.rects := rfl
@[simp] theorem State.setRail_flits (s : State) (q : Nat) (x : Rail) : (s.setRail q x).flits = s.flits := rfl
@[simp] theorem State.setRail_windows (s : State) (q : Nat) (x : Rail) : (s.setRail q x).windows = s.windows := rfl
@[simp] theorem State.setRail_host (s : State) (q : Nat) (x : Rail) : (s.setRail q x).host = s.host := rfl
@[simp] theorem State.setRail_control (s : State) (q : Nat) (x : Rail) : (s.setRail q x).control = s.control := rfl
@[simp] theorem State.setRail_ports (s : State) (q : Nat) (x : Rail) : (s.setRail q x).ports = s.ports := rfl
@[simp] theorem State.setRail_portsDown (s : State) (q : Nat) (x : Rail) : (s.setRail q x).portsDown = s.portsDown := rfl
@[simp] theorem State.setRail_budgetMem (s : State) (q : Nat) (x : Rail) : (s.setRail q x).budgetMem = s.budgetMem := rfl
@[simp] theorem State.setRail_budgetArray (s : State) (q : Nat) (x : Rail) : (s.setRail q x).budgetArray = s.budgetArray := rfl
@[simp] theorem State.setRail_time (s : State) (q : Nat) (x : Rail) : (s.setRail q x).time = s.time := rfl
@[simp] theorem State.setRail_lastTick (s : State) (q : Nat) (x : Rail) : (s.setRail q x).lastTick = s.lastTick := rfl
@[simp] theorem State.setRail_lastBudget (s : State) (q : Nat) (x : Rail) : (s.setRail q x).lastBudget = s.lastBudget := rfl
@[simp] theorem State.setRail_meter (s : State) (q : Nat) (x : Rail) : (s.setRail q x).meter = s.meter := rfl
@[simp] theorem State.setRail_curCore (s : State) (q : Nat) (x : Rail) : (s.setRail q x).curCore = s.curCore := rfl
@[simp] theorem State.setRail_curStrand (s : State) (q : Nat) (x : Rail) : (s.setRail q x).curStrand = s.curStrand := rfl
@[simp] theorem State.setRail_agenda (s : State) (q : Nat) (x : Rail) : (s.setRail q x).agenda = s.agenda := rfl
@[simp] theorem State.setRail_nextCore (s : State) (q : Nat) (x : Rail) : (s.setRail q x).nextCore = s.nextCore := rfl
@[simp] theorem State.setRail_freeCtr (s : State) (q : Nat) (x : Rail) : (s.setRail q x).freeCtr = s.freeCtr := rfl
@[simp] theorem State.setRail_nextId (s : State) (q : Nat) (x : Rail) : (s.setRail q x).nextId = s.nextId := rfl
@[simp] theorem State.setRail_nextLaunch (s : State) (q : Nat) (x : Rail) : (s.setRail q x).nextLaunch = s.nextLaunch := rfl
@[simp] theorem State.setRail_lost (s : State) (q : Nat) (x : Rail) : (s.setRail q x).lost = s.lost := rfl
@[simp] theorem State.setRail_nacked (s : State) (q : Nat) (x : Rail) : (s.setRail q x).nacked = s.nacked := rfl
@[simp] theorem State.setRail_codeLog (s : State) (q : Nat) (x : Rail) : (s.setRail q x).codeLog = s.codeLog := rfl

/-! ### setDomain -/

@[simp] theorem State.setDomain_mem (s : State) (k : Nat) (d : Domain) : (s.setDomain k d).mem = s.mem := rfl
@[simp] theorem State.setDomain_hostMem (s : State) (k : Nat) (d : Domain) : (s.setDomain k d).hostMem = s.hostMem := rfl
@[simp] theorem State.setDomain_empties (s : State) (k : Nat) (d : Domain) : (s.setDomain k d).empties = s.empties := rfl
@[simp] theorem State.setDomain_badWords (s : State) (k : Nat) (d : Domain) : (s.setDomain k d).badWords = s.badWords := rfl
@[simp] theorem State.setDomain_records (s : State) (k : Nat) (d : Domain) : (s.setDomain k d).records = s.records := rfl
@[simp] theorem State.setDomain_cores (s : State) (k : Nat) (d : Domain) : (s.setDomain k d).cores = s.cores := rfl
@[simp] theorem State.setDomain_octets (s : State) (k : Nat) (d : Domain) : (s.setDomain k d).octets = s.octets := rfl
@[simp] theorem State.setDomain_rails (s : State) (k : Nat) (d : Domain) : (s.setDomain k d).rails = s.rails := rfl
@[simp] theorem State.setDomain_clusters (s : State) (k : Nat) (d : Domain) : (s.setDomain k d).clusters = s.clusters := rfl
@[simp] theorem State.setDomain_ctxs (s : State) (k : Nat) (d : Domain) : (s.setDomain k d).ctxs = s.ctxs := rfl
@[simp] theorem State.setDomain_launches (s : State) (k : Nat) (d : Domain) : (s.setDomain k d).launches = s.launches := rfl
@[simp] theorem State.setDomain_images (s : State) (k : Nat) (d : Domain) : (s.setDomain k d).images = s.images := rfl
@[simp] theorem State.setDomain_twins (s : State) (k : Nat) (d : Domain) : (s.setDomain k d).twins = s.twins := rfl
@[simp] theorem State.setDomain_twinImages (s : State) (k : Nat) (d : Domain) : (s.setDomain k d).twinImages = s.twinImages := rfl
@[simp] theorem State.setDomain_rects (s : State) (k : Nat) (d : Domain) : (s.setDomain k d).rects = s.rects := rfl
@[simp] theorem State.setDomain_flits (s : State) (k : Nat) (d : Domain) : (s.setDomain k d).flits = s.flits := rfl
@[simp] theorem State.setDomain_windows (s : State) (k : Nat) (d : Domain) : (s.setDomain k d).windows = s.windows := rfl
@[simp] theorem State.setDomain_host (s : State) (k : Nat) (d : Domain) : (s.setDomain k d).host = s.host := rfl
@[simp] theorem State.setDomain_control (s : State) (k : Nat) (d : Domain) : (s.setDomain k d).control = s.control := rfl
@[simp] theorem State.setDomain_ports (s : State) (k : Nat) (d : Domain) : (s.setDomain k d).ports = s.ports := rfl
@[simp] theorem State.setDomain_portsDown (s : State) (k : Nat) (d : Domain) : (s.setDomain k d).portsDown = s.portsDown := rfl
@[simp] theorem State.setDomain_budgetMem (s : State) (k : Nat) (d : Domain) : (s.setDomain k d).budgetMem = s.budgetMem := rfl
@[simp] theorem State.setDomain_budgetArray (s : State) (k : Nat) (d : Domain) : (s.setDomain k d).budgetArray = s.budgetArray := rfl
@[simp] theorem State.setDomain_time (s : State) (k : Nat) (d : Domain) : (s.setDomain k d).time = s.time := rfl
@[simp] theorem State.setDomain_lastTick (s : State) (k : Nat) (d : Domain) : (s.setDomain k d).lastTick = s.lastTick := rfl
@[simp] theorem State.setDomain_lastBudget (s : State) (k : Nat) (d : Domain) : (s.setDomain k d).lastBudget = s.lastBudget := rfl
@[simp] theorem State.setDomain_meter (s : State) (k : Nat) (d : Domain) : (s.setDomain k d).meter = s.meter := rfl
@[simp] theorem State.setDomain_curCore (s : State) (k : Nat) (d : Domain) : (s.setDomain k d).curCore = s.curCore := rfl
@[simp] theorem State.setDomain_curStrand (s : State) (k : Nat) (d : Domain) : (s.setDomain k d).curStrand = s.curStrand := rfl
@[simp] theorem State.setDomain_agenda (s : State) (k : Nat) (d : Domain) : (s.setDomain k d).agenda = s.agenda := rfl
@[simp] theorem State.setDomain_nextCore (s : State) (k : Nat) (d : Domain) : (s.setDomain k d).nextCore = s.nextCore := rfl
@[simp] theorem State.setDomain_freeCtr (s : State) (k : Nat) (d : Domain) : (s.setDomain k d).freeCtr = s.freeCtr := rfl
@[simp] theorem State.setDomain_nextId (s : State) (k : Nat) (d : Domain) : (s.setDomain k d).nextId = s.nextId := rfl
@[simp] theorem State.setDomain_nextLaunch (s : State) (k : Nat) (d : Domain) : (s.setDomain k d).nextLaunch = s.nextLaunch := rfl
@[simp] theorem State.setDomain_lost (s : State) (k : Nat) (d : Domain) : (s.setDomain k d).lost = s.lost := rfl
@[simp] theorem State.setDomain_nacked (s : State) (k : Nat) (d : Domain) : (s.setDomain k d).nacked = s.nacked := rfl
@[simp] theorem State.setDomain_codeLog (s : State) (k : Nat) (d : Domain) : (s.setDomain k d).codeLog = s.codeLog := rfl

/-! ### setByte -/

@[simp] theorem State.setByte_hostMem (s : State) (a : Nat) (b : Byte) : (s.setByte a b).hostMem = s.hostMem := rfl
@[simp] theorem State.setByte_empties (s : State) (a : Nat) (b : Byte) : (s.setByte a b).empties = s.empties := rfl
@[simp] theorem State.setByte_badWords (s : State) (a : Nat) (b : Byte) : (s.setByte a b).badWords = s.badWords := rfl
@[simp] theorem State.setByte_records (s : State) (a : Nat) (b : Byte) : (s.setByte a b).records = s.records := rfl
@[simp] theorem State.setByte_cores (s : State) (a : Nat) (b : Byte) : (s.setByte a b).cores = s.cores := rfl
@[simp] theorem State.setByte_octets (s : State) (a : Nat) (b : Byte) : (s.setByte a b).octets = s.octets := rfl
@[simp] theorem State.setByte_rails (s : State) (a : Nat) (b : Byte) : (s.setByte a b).rails = s.rails := rfl
@[simp] theorem State.setByte_clusters (s : State) (a : Nat) (b : Byte) : (s.setByte a b).clusters = s.clusters := rfl
@[simp] theorem State.setByte_domains (s : State) (a : Nat) (b : Byte) : (s.setByte a b).domains = s.domains := rfl
@[simp] theorem State.setByte_ctxs (s : State) (a : Nat) (b : Byte) : (s.setByte a b).ctxs = s.ctxs := rfl
@[simp] theorem State.setByte_launches (s : State) (a : Nat) (b : Byte) : (s.setByte a b).launches = s.launches := rfl
@[simp] theorem State.setByte_images (s : State) (a : Nat) (b : Byte) : (s.setByte a b).images = s.images := rfl
@[simp] theorem State.setByte_twins (s : State) (a : Nat) (b : Byte) : (s.setByte a b).twins = s.twins := rfl
@[simp] theorem State.setByte_twinImages (s : State) (a : Nat) (b : Byte) : (s.setByte a b).twinImages = s.twinImages := rfl
@[simp] theorem State.setByte_rects (s : State) (a : Nat) (b : Byte) : (s.setByte a b).rects = s.rects := rfl
@[simp] theorem State.setByte_flits (s : State) (a : Nat) (b : Byte) : (s.setByte a b).flits = s.flits := rfl
@[simp] theorem State.setByte_windows (s : State) (a : Nat) (b : Byte) : (s.setByte a b).windows = s.windows := rfl
@[simp] theorem State.setByte_host (s : State) (a : Nat) (b : Byte) : (s.setByte a b).host = s.host := rfl
@[simp] theorem State.setByte_control (s : State) (a : Nat) (b : Byte) : (s.setByte a b).control = s.control := rfl
@[simp] theorem State.setByte_ports (s : State) (a : Nat) (b : Byte) : (s.setByte a b).ports = s.ports := rfl
@[simp] theorem State.setByte_portsDown (s : State) (a : Nat) (b : Byte) : (s.setByte a b).portsDown = s.portsDown := rfl
@[simp] theorem State.setByte_budgetMem (s : State) (a : Nat) (b : Byte) : (s.setByte a b).budgetMem = s.budgetMem := rfl
@[simp] theorem State.setByte_budgetArray (s : State) (a : Nat) (b : Byte) : (s.setByte a b).budgetArray = s.budgetArray := rfl
@[simp] theorem State.setByte_time (s : State) (a : Nat) (b : Byte) : (s.setByte a b).time = s.time := rfl
@[simp] theorem State.setByte_lastTick (s : State) (a : Nat) (b : Byte) : (s.setByte a b).lastTick = s.lastTick := rfl
@[simp] theorem State.setByte_lastBudget (s : State) (a : Nat) (b : Byte) : (s.setByte a b).lastBudget = s.lastBudget := rfl
@[simp] theorem State.setByte_meter (s : State) (a : Nat) (b : Byte) : (s.setByte a b).meter = s.meter := rfl
@[simp] theorem State.setByte_curCore (s : State) (a : Nat) (b : Byte) : (s.setByte a b).curCore = s.curCore := rfl
@[simp] theorem State.setByte_curStrand (s : State) (a : Nat) (b : Byte) : (s.setByte a b).curStrand = s.curStrand := rfl
@[simp] theorem State.setByte_agenda (s : State) (a : Nat) (b : Byte) : (s.setByte a b).agenda = s.agenda := rfl
@[simp] theorem State.setByte_nextCore (s : State) (a : Nat) (b : Byte) : (s.setByte a b).nextCore = s.nextCore := rfl
@[simp] theorem State.setByte_freeCtr (s : State) (a : Nat) (b : Byte) : (s.setByte a b).freeCtr = s.freeCtr := rfl
@[simp] theorem State.setByte_nextId (s : State) (a : Nat) (b : Byte) : (s.setByte a b).nextId = s.nextId := rfl
@[simp] theorem State.setByte_nextLaunch (s : State) (a : Nat) (b : Byte) : (s.setByte a b).nextLaunch = s.nextLaunch := rfl
@[simp] theorem State.setByte_lost (s : State) (a : Nat) (b : Byte) : (s.setByte a b).lost = s.lost := rfl
@[simp] theorem State.setByte_nacked (s : State) (a : Nat) (b : Byte) : (s.setByte a b).nacked = s.nacked := rfl
@[simp] theorem State.setByte_codeLog (s : State) (a : Nat) (b : Byte) : (s.setByte a b).codeLog = s.codeLog := rfl

/-! ### setFull -/

@[simp] theorem State.setFull_mem (s : State) (a : Nat) : (s.setFull a).mem = s.mem := rfl
@[simp] theorem State.setFull_hostMem (s : State) (a : Nat) : (s.setFull a).hostMem = s.hostMem := rfl
@[simp] theorem State.setFull_badWords (s : State) (a : Nat) : (s.setFull a).badWords = s.badWords := rfl
@[simp] theorem State.setFull_records (s : State) (a : Nat) : (s.setFull a).records = s.records := rfl
@[simp] theorem State.setFull_cores (s : State) (a : Nat) : (s.setFull a).cores = s.cores := rfl
@[simp] theorem State.setFull_octets (s : State) (a : Nat) : (s.setFull a).octets = s.octets := rfl
@[simp] theorem State.setFull_rails (s : State) (a : Nat) : (s.setFull a).rails = s.rails := rfl
@[simp] theorem State.setFull_clusters (s : State) (a : Nat) : (s.setFull a).clusters = s.clusters := rfl
@[simp] theorem State.setFull_domains (s : State) (a : Nat) : (s.setFull a).domains = s.domains := rfl
@[simp] theorem State.setFull_ctxs (s : State) (a : Nat) : (s.setFull a).ctxs = s.ctxs := rfl
@[simp] theorem State.setFull_launches (s : State) (a : Nat) : (s.setFull a).launches = s.launches := rfl
@[simp] theorem State.setFull_images (s : State) (a : Nat) : (s.setFull a).images = s.images := rfl
@[simp] theorem State.setFull_twins (s : State) (a : Nat) : (s.setFull a).twins = s.twins := rfl
@[simp] theorem State.setFull_twinImages (s : State) (a : Nat) : (s.setFull a).twinImages = s.twinImages := rfl
@[simp] theorem State.setFull_rects (s : State) (a : Nat) : (s.setFull a).rects = s.rects := rfl
@[simp] theorem State.setFull_flits (s : State) (a : Nat) : (s.setFull a).flits = s.flits := rfl
@[simp] theorem State.setFull_windows (s : State) (a : Nat) : (s.setFull a).windows = s.windows := rfl
@[simp] theorem State.setFull_host (s : State) (a : Nat) : (s.setFull a).host = s.host := rfl
@[simp] theorem State.setFull_control (s : State) (a : Nat) : (s.setFull a).control = s.control := rfl
@[simp] theorem State.setFull_ports (s : State) (a : Nat) : (s.setFull a).ports = s.ports := rfl
@[simp] theorem State.setFull_portsDown (s : State) (a : Nat) : (s.setFull a).portsDown = s.portsDown := rfl
@[simp] theorem State.setFull_budgetMem (s : State) (a : Nat) : (s.setFull a).budgetMem = s.budgetMem := rfl
@[simp] theorem State.setFull_budgetArray (s : State) (a : Nat) : (s.setFull a).budgetArray = s.budgetArray := rfl
@[simp] theorem State.setFull_time (s : State) (a : Nat) : (s.setFull a).time = s.time := rfl
@[simp] theorem State.setFull_lastTick (s : State) (a : Nat) : (s.setFull a).lastTick = s.lastTick := rfl
@[simp] theorem State.setFull_lastBudget (s : State) (a : Nat) : (s.setFull a).lastBudget = s.lastBudget := rfl
@[simp] theorem State.setFull_meter (s : State) (a : Nat) : (s.setFull a).meter = s.meter := rfl
@[simp] theorem State.setFull_curCore (s : State) (a : Nat) : (s.setFull a).curCore = s.curCore := rfl
@[simp] theorem State.setFull_curStrand (s : State) (a : Nat) : (s.setFull a).curStrand = s.curStrand := rfl
@[simp] theorem State.setFull_agenda (s : State) (a : Nat) : (s.setFull a).agenda = s.agenda := rfl
@[simp] theorem State.setFull_nextCore (s : State) (a : Nat) : (s.setFull a).nextCore = s.nextCore := rfl
@[simp] theorem State.setFull_freeCtr (s : State) (a : Nat) : (s.setFull a).freeCtr = s.freeCtr := rfl
@[simp] theorem State.setFull_nextId (s : State) (a : Nat) : (s.setFull a).nextId = s.nextId := rfl
@[simp] theorem State.setFull_nextLaunch (s : State) (a : Nat) : (s.setFull a).nextLaunch = s.nextLaunch := rfl
@[simp] theorem State.setFull_lost (s : State) (a : Nat) : (s.setFull a).lost = s.lost := rfl
@[simp] theorem State.setFull_nacked (s : State) (a : Nat) : (s.setFull a).nacked = s.nacked := rfl
@[simp] theorem State.setFull_codeLog (s : State) (a : Nat) : (s.setFull a).codeLog = s.codeLog := rfl

/-! ### setEmpty -/

@[simp] theorem State.setEmpty_mem (s : State) (a : Nat) : (s.setEmpty a).mem = s.mem := rfl
@[simp] theorem State.setEmpty_hostMem (s : State) (a : Nat) : (s.setEmpty a).hostMem = s.hostMem := rfl
@[simp] theorem State.setEmpty_badWords (s : State) (a : Nat) : (s.setEmpty a).badWords = s.badWords := rfl
@[simp] theorem State.setEmpty_records (s : State) (a : Nat) : (s.setEmpty a).records = s.records := rfl
@[simp] theorem State.setEmpty_cores (s : State) (a : Nat) : (s.setEmpty a).cores = s.cores := rfl
@[simp] theorem State.setEmpty_octets (s : State) (a : Nat) : (s.setEmpty a).octets = s.octets := rfl
@[simp] theorem State.setEmpty_rails (s : State) (a : Nat) : (s.setEmpty a).rails = s.rails := rfl
@[simp] theorem State.setEmpty_clusters (s : State) (a : Nat) : (s.setEmpty a).clusters = s.clusters := rfl
@[simp] theorem State.setEmpty_domains (s : State) (a : Nat) : (s.setEmpty a).domains = s.domains := rfl
@[simp] theorem State.setEmpty_ctxs (s : State) (a : Nat) : (s.setEmpty a).ctxs = s.ctxs := rfl
@[simp] theorem State.setEmpty_launches (s : State) (a : Nat) : (s.setEmpty a).launches = s.launches := rfl
@[simp] theorem State.setEmpty_images (s : State) (a : Nat) : (s.setEmpty a).images = s.images := rfl
@[simp] theorem State.setEmpty_twins (s : State) (a : Nat) : (s.setEmpty a).twins = s.twins := rfl
@[simp] theorem State.setEmpty_twinImages (s : State) (a : Nat) : (s.setEmpty a).twinImages = s.twinImages := rfl
@[simp] theorem State.setEmpty_rects (s : State) (a : Nat) : (s.setEmpty a).rects = s.rects := rfl
@[simp] theorem State.setEmpty_flits (s : State) (a : Nat) : (s.setEmpty a).flits = s.flits := rfl
@[simp] theorem State.setEmpty_windows (s : State) (a : Nat) : (s.setEmpty a).windows = s.windows := rfl
@[simp] theorem State.setEmpty_host (s : State) (a : Nat) : (s.setEmpty a).host = s.host := rfl
@[simp] theorem State.setEmpty_control (s : State) (a : Nat) : (s.setEmpty a).control = s.control := rfl
@[simp] theorem State.setEmpty_ports (s : State) (a : Nat) : (s.setEmpty a).ports = s.ports := rfl
@[simp] theorem State.setEmpty_portsDown (s : State) (a : Nat) : (s.setEmpty a).portsDown = s.portsDown := rfl
@[simp] theorem State.setEmpty_budgetMem (s : State) (a : Nat) : (s.setEmpty a).budgetMem = s.budgetMem := rfl
@[simp] theorem State.setEmpty_budgetArray (s : State) (a : Nat) : (s.setEmpty a).budgetArray = s.budgetArray := rfl
@[simp] theorem State.setEmpty_time (s : State) (a : Nat) : (s.setEmpty a).time = s.time := rfl
@[simp] theorem State.setEmpty_lastTick (s : State) (a : Nat) : (s.setEmpty a).lastTick = s.lastTick := rfl
@[simp] theorem State.setEmpty_lastBudget (s : State) (a : Nat) : (s.setEmpty a).lastBudget = s.lastBudget := rfl
@[simp] theorem State.setEmpty_meter (s : State) (a : Nat) : (s.setEmpty a).meter = s.meter := rfl
@[simp] theorem State.setEmpty_curCore (s : State) (a : Nat) : (s.setEmpty a).curCore = s.curCore := rfl
@[simp] theorem State.setEmpty_curStrand (s : State) (a : Nat) : (s.setEmpty a).curStrand = s.curStrand := rfl
@[simp] theorem State.setEmpty_agenda (s : State) (a : Nat) : (s.setEmpty a).agenda = s.agenda := rfl
@[simp] theorem State.setEmpty_nextCore (s : State) (a : Nat) : (s.setEmpty a).nextCore = s.nextCore := rfl
@[simp] theorem State.setEmpty_freeCtr (s : State) (a : Nat) : (s.setEmpty a).freeCtr = s.freeCtr := rfl
@[simp] theorem State.setEmpty_nextId (s : State) (a : Nat) : (s.setEmpty a).nextId = s.nextId := rfl
@[simp] theorem State.setEmpty_nextLaunch (s : State) (a : Nat) : (s.setEmpty a).nextLaunch = s.nextLaunch := rfl
@[simp] theorem State.setEmpty_lost (s : State) (a : Nat) : (s.setEmpty a).lost = s.lost := rfl
@[simp] theorem State.setEmpty_nacked (s : State) (a : Nat) : (s.setEmpty a).nacked = s.nacked := rfl
@[simp] theorem State.setEmpty_codeLog (s : State) (a : Nat) : (s.setEmpty a).codeLog = s.codeLog := rfl

/-! ## Reads after updates -/

theorem State.core_setCore (s : State) (c d : Nat) (k : Core) : (s.setCore c k).core d = if d = c then k else s.core d :=
  Tab.get_put ..
@[simp] theorem State.core_setCore_self (s : State) (c : Nat) (k : Core) : (s.setCore c k).core c = k := Tab.get_put_self ..
theorem State.core_setCore_ne (s : State) {c d : Nat} (h : d ≠ c) (k : Core) : (s.setCore c k).core d = s.core d :=
  Tab.get_put_ne _ h ..
@[simp] theorem State.core_setStrand_self (s : State) (c t : Nat) (st : Strand) :
    (s.setStrand c t st).core c = (s.core c).setPart ((s.core c).part.setStrand t st) := State.core_setCore_self ..
theorem State.core_setStrand_ne (s : State) {c d : Nat} (h : d ≠ c) (t : Nat) (st : Strand) :
    (s.setStrand c t st).core d = s.core d := State.core_setCore_ne s h _
@[simp] theorem State.strand_setStrand_self (s : State) (c t : Nat) (st : Strand) : (s.setStrand c t st).strand c t = st := by
  simp [State.strand, Core.setPart, Part.setStrand]
theorem State.strand_setStrand_ne (s : State) {c t d u : Nat} (h : ¬(d = c ∧ u = t)) (st : Strand) :
    (s.setStrand c t st).strand d u = s.strand d u := by
  by_cases hd : d = c
  · subst hd
    have hu : u ≠ t := fun e => h ⟨rfl, e⟩
    simp [State.strand, Core.setPart, Part.setStrand, Tab.get_put_ne _ hu]
  · simp [State.strand, State.core_setStrand_ne s hd]
@[simp] theorem State.me_setMe (s : State) (st : Strand) : (s.setMe st).me = st := State.strand_setStrand_self ..
@[simp] theorem State.strand_setMe_self (s : State) (st : Strand) : (s.setMe st).strand s.curCore s.curStrand = st :=
  State.strand_setStrand_self ..
theorem State.strand_setMe_ne (s : State) {d u : Nat} (h : ¬(d = s.curCore ∧ u = s.curStrand)) (st : Strand) :
    (s.setMe st).strand d u = s.strand d u := State.strand_setStrand_ne s h st
@[simp] theorem State.me_at (s : State) (c t : Nat) : (s.at_ c t).me = s.strand c t := rfl
@[simp] theorem State.core_at (s : State) (c t d : Nat) : (s.at_ c t).core d = s.core d := rfl
@[simp] theorem State.strand_at (s : State) (c t d u : Nat) : (s.at_ c t).strand d u = s.strand d u := rfl
@[simp] theorem State.byteAt_setMe (s : State) (st : Strand) (a : Nat) : (s.setMe st).byteAt a = s.byteAt a := rfl
@[simp] theorem State.byteAt_setCore (s : State) (c : Nat) (k : Core) (a : Nat) : (s.setCore c k).byteAt a = s.byteAt a := rfl
@[simp] theorem State.byteAt_setStrand (s : State) (c t : Nat) (st : Strand) (a : Nat) :
    (s.setStrand c t st).byteAt a = s.byteAt a := rfl
@[simp] theorem State.isFull_setMe (s : State) (st : Strand) (a : Nat) : (s.setMe st).isFull a = s.isFull a := rfl
@[simp] theorem State.isFull_setCore (s : State) (c : Nat) (k : Core) (a : Nat) : (s.setCore c k).isFull a = s.isFull a := rfl
@[simp] theorem State.isFull_setStrand (s : State) (c t : Nat) (st : Strand) (a : Nat) :
    (s.setStrand c t st).isFull a = s.isFull a := rfl

/-! ## Registers -/

/-- X0 reads 0 in every state (R40). -/
@[simp] theorem Strand.xreg_zero (st : Strand) : st.xreg 0 = {} := rfl
@[simp] theorem Strand.xr_zero (st : Strand) : st.xr 0 = 0 := rfl
/-- A write to X0 is discarded (R40). -/
@[simp] theorem Strand.xput_zero (st : Strand) (r : XReg) : st.xput 0 r = st := rfl
theorem Strand.xidx_inj (st : Strand) {m n : Nat} (hm : m < 32) (hn : n < 32) (h : st.xidx m = st.xidx n) : m = n := by
  simp only [Strand.xidx, Bool.and_eq_true, decide_eq_true_eq] at h
  split at h <;> split at h <;> omega
@[simp] theorem Strand.xidx_xput (st : Strand) (n m : Nat) (r : XReg) : (st.xput n r).xidx m = st.xidx m := by
  unfold Strand.xput; split <;> rfl
theorem Strand.xreg_xput_self (st : Strand) {n : Nat} (h : n ≠ 0) (r : XReg) : (st.xput n r).xreg n = r := by
  have : (st.xput n r).xidx n = st.xidx n := by simp
  unfold Strand.xreg
  rw [if_neg h, this]
  simp [Strand.xput, h]
theorem Strand.xreg_xput_ne (st : Strand) {m n : Nat} (hm : m < 32) (hn : n < 32) (h : m ≠ n) (r : XReg) :
    (st.xput n r).xreg m = st.xreg m := by
  by_cases hn0 : n = 0
  · subst hn0; rfl
  · have hne : st.xidx m ≠ st.xidx n := fun e => h (st.xidx_inj hm hn e)
    unfold Strand.xreg
    by_cases hm0 : m = 0
    · simp [hm0]
    · rw [if_neg hm0, if_neg hm0, Strand.xidx_xput]
      simp [Strand.xput, hn0, Tab.get_put_ne _ hne]
theorem Strand.xr_xw_self (st : Strand) {n : Nat} (h : n ≠ 0) (v : Word) : (st.xw n v).xr n = v := by
  simp [Strand.xr, Strand.xw, Strand.xreg_xput_self st h]
theorem Strand.xr_xw_ne (st : Strand) {m n : Nat} (hm : m < 32) (hn : n < 32) (h : m ≠ n) (v : Word) :
    (st.xw n v).xr m = st.xr m := by simp [Strand.xr, Strand.xw, Strand.xreg_xput_ne st hm hn h]

@[simp] theorem Strand.xput_v (st : Strand) (n : Nat) (r : XReg) : (st.xput n r).v = st.v := by
  unfold Strand.xput; split <;> rfl
@[simp] theorem Strand.xw_v (st : Strand) (n : Nat) (w : Word) : (st.xw n w).v = st.v := Strand.xput_v ..
@[simp] theorem Strand.xput_p (st : Strand) (n : Nat) (r : XReg) : (st.xput n r).p = st.p := by
  unfold Strand.xput; split <;> rfl
@[simp] theorem Strand.xw_p (st : Strand) (n : Nat) (w : Word) : (st.xw n w).p = st.p := Strand.xput_p ..
@[simp] theorem Strand.xput_m (st : Strand) (n : Nat) (r : XReg) : (st.xput n r).m = st.m := by
  unfold Strand.xput; split <;> rfl
@[simp] theorem Strand.xw_m (st : Strand) (n : Nat) (w : Word) : (st.xw n w).m = st.m := Strand.xput_m ..
@[simp] theorem Strand.xput_pc (st : Strand) (n : Nat) (r : XReg) : (st.xput n r).pc = st.pc := by
  unfold Strand.xput; split <;> rfl
@[simp] theorem Strand.xw_pc (st : Strand) (n : Nat) (w : Word) : (st.xw n w).pc = st.pc := Strand.xput_pc ..
@[simp] theorem Strand.xput_npc (st : Strand) (n : Nat) (r : XReg) : (st.xput n r).npc = st.npc := by
  unfold Strand.xput; split <;> rfl
@[simp] theorem Strand.xw_npc (st : Strand) (n : Nat) (w : Word) : (st.xw n w).npc = st.npc := Strand.xput_npc ..
@[simp] theorem Strand.xput_status (st : Strand) (n : Nat) (r : XReg) : (st.xput n r).status = st.status := by
  unfold Strand.xput; split <;> rfl
@[simp] theorem Strand.xw_status (st : Strand) (n : Nat) (w : Word) : (st.xw n w).status = st.status := Strand.xput_status ..
@[simp] theorem Strand.xput_asleep (st : Strand) (n : Nat) (r : XReg) : (st.xput n r).asleep = st.asleep := by
  unfold Strand.xput; split <;> rfl
@[simp] theorem Strand.xw_asleep (st : Strand) (n : Nat) (w : Word) : (st.xw n w).asleep = st.asleep := Strand.xput_asleep ..
@[simp] theorem Strand.xput_stat (st : Strand) (n : Nat) (r : XReg) : (st.xput n r).stat = st.stat := by
  unfold Strand.xput; split <;> rfl
@[simp] theorem Strand.xw_stat (st : Strand) (n : Nat) (w : Word) : (st.xw n w).stat = st.stat := Strand.xput_stat ..
@[simp] theorem Strand.xput_vstat (st : Strand) (n : Nat) (r : XReg) : (st.xput n r).vstat = st.vstat := by
  unfold Strand.xput; split <;> rfl
@[simp] theorem Strand.xw_vstat (st : Strand) (n : Nat) (w : Word) : (st.xw n w).vstat = st.vstat := Strand.xput_vstat ..
@[simp] theorem Strand.xput_regs (st : Strand) (n : Nat) (r : XReg) : (st.xput n r).regs = st.regs := by
  unfold Strand.xput; split <;> rfl
@[simp] theorem Strand.xw_regs (st : Strand) (n : Nat) (w : Word) : (st.xw n w).regs = st.regs := Strand.xput_regs ..
@[simp] theorem Strand.xput_ycnt (st : Strand) (n : Nat) (r : XReg) : (st.xput n r).ycnt = st.ycnt := by
  unfold Strand.xput; split <;> rfl
@[simp] theorem Strand.xw_ycnt (st : Strand) (n : Nat) (w : Word) : (st.xw n w).ycnt = st.ycnt := Strand.xput_ycnt ..
@[simp] theorem Strand.xput_ybound (st : Strand) (n : Nat) (r : XReg) : (st.xput n r).ybound = st.ybound := by
  unfold Strand.xput; split <;> rfl
@[simp] theorem Strand.xw_ybound (st : Strand) (n : Nat) (w : Word) : (st.xw n w).ybound = st.ybound := Strand.xput_ybound ..
@[simp] theorem Strand.xput_ydefault (st : Strand) (n : Nat) (r : XReg) : (st.xput n r).ydefault = st.ydefault := by
  unfold Strand.xput; split <;> rfl
@[simp] theorem Strand.xw_ydefault (st : Strand) (n : Nat) (w : Word) : (st.xw n w).ydefault = st.ydefault := Strand.xput_ydefault ..
@[simp] theorem Strand.xput_rbase (st : Strand) (n : Nat) (r : XReg) : (st.xput n r).rbase = st.rbase := by
  unfold Strand.xput; split <;> rfl
@[simp] theorem Strand.xw_rbase (st : Strand) (n : Nat) (w : Word) : (st.xw n w).rbase = st.rbase := Strand.xput_rbase ..
@[simp] theorem Strand.xput_lanes (st : Strand) (n : Nat) (r : XReg) : (st.xput n r).lanes = st.lanes := by
  unfold Strand.xput; split <;> rfl
@[simp] theorem Strand.xw_lanes (st : Strand) (n : Nat) (w : Word) : (st.xw n w).lanes = st.lanes := Strand.xput_lanes ..
@[simp] theorem Strand.xput_seed (st : Strand) (n : Nat) (r : XReg) : (st.xput n r).seed = st.seed := by
  unfold Strand.xput; split <;> rfl
@[simp] theorem Strand.xw_seed (st : Strand) (n : Nat) (w : Word) : (st.xw n w).seed = st.seed := Strand.xput_seed ..
@[simp] theorem Strand.xput_spill (st : Strand) (n : Nat) (r : XReg) : (st.xput n r).spill = st.spill := by
  unfold Strand.xput; split <;> rfl
@[simp] theorem Strand.xw_spill (st : Strand) (n : Nat) (w : Word) : (st.xw n w).spill = st.spill := Strand.xput_spill ..
@[simp] theorem Strand.xput_seq (st : Strand) (n : Nat) (r : XReg) : (st.xput n r).seq = st.seq := by
  unfold Strand.xput; split <;> rfl
@[simp] theorem Strand.xw_seq (st : Strand) (n : Nat) (w : Word) : (st.xw n w).seq = st.seq := Strand.xput_seq ..
@[simp] theorem Strand.xput_mx (st : Strand) (n : Nat) (r : XReg) : (st.xput n r).mx = st.mx := by
  unfold Strand.xput; split <;> rfl
@[simp] theorem Strand.xw_mx (st : Strand) (n : Nat) (w : Word) : (st.xw n w).mx = st.mx := Strand.xput_mx ..
@[simp] theorem Strand.xput_out (st : Strand) (n : Nat) (r : XReg) : (st.xput n r).out = st.out := by
  unfold Strand.xput; split <;> rfl
@[simp] theorem Strand.xw_out (st : Strand) (n : Nat) (w : Word) : (st.xw n w).out = st.out := Strand.xput_out ..
@[simp] theorem Strand.xput_sends (st : Strand) (n : Nat) (r : XReg) : (st.xput n r).sends = st.sends := by
  unfold Strand.xput; split <;> rfl
@[simp] theorem Strand.xw_sends (st : Strand) (n : Nat) (w : Word) : (st.xw n w).sends = st.sends := Strand.xput_sends ..
@[simp] theorem Strand.xput_bars (st : Strand) (n : Nat) (r : XReg) : (st.xput n r).bars = st.bars := by
  unfold Strand.xput; split <;> rfl
@[simp] theorem Strand.xw_bars (st : Strand) (n : Nat) (w : Word) : (st.xw n w).bars = st.bars := Strand.xput_bars ..
@[simp] theorem Strand.xput_loop (st : Strand) (n : Nat) (r : XReg) : (st.xput n r).loop = st.loop := by
  unfold Strand.xput; split <;> rfl
@[simp] theorem Strand.xw_loop (st : Strand) (n : Nat) (w : Word) : (st.xw n w).loop = st.loop := Strand.xput_loop ..
@[simp] theorem Strand.xput_seqHeld (st : Strand) (n : Nat) (r : XReg) : (st.xput n r).seqHeld = st.seqHeld := by
  unfold Strand.xput; split <;> rfl
@[simp] theorem Strand.xw_seqHeld (st : Strand) (n : Nat) (w : Word) : (st.xw n w).seqHeld = st.seqHeld := Strand.xput_seqHeld ..
@[simp] theorem Strand.xput_seqFault (st : Strand) (n : Nat) (r : XReg) : (st.xput n r).seqFault = st.seqFault := by
  unfold Strand.xput; split <;> rfl
@[simp] theorem Strand.xw_seqFault (st : Strand) (n : Nat) (w : Word) : (st.xw n w).seqFault = st.seqFault := Strand.xput_seqFault ..
@[simp] theorem Strand.xput_vresume (st : Strand) (n : Nat) (r : XReg) : (st.xput n r).vresume = st.vresume := by
  unfold Strand.xput; split <;> rfl
@[simp] theorem Strand.xw_vresume (st : Strand) (n : Nat) (w : Word) : (st.xw n w).vresume = st.vresume := Strand.xput_vresume ..
@[simp] theorem Strand.xput_churnHeld (st : Strand) (n : Nat) (r : XReg) : (st.xput n r).churnHeld = st.churnHeld := by
  unfold Strand.xput; split <;> rfl
@[simp] theorem Strand.xw_churnHeld (st : Strand) (n : Nat) (w : Word) : (st.xw n w).churnHeld = st.churnHeld := Strand.xput_churnHeld ..
@[simp] theorem Strand.xput_churnFault (st : Strand) (n : Nat) (r : XReg) : (st.xput n r).churnFault = st.churnFault := by
  unfold Strand.xput; split <;> rfl
@[simp] theorem Strand.xw_churnFault (st : Strand) (n : Nat) (w : Word) : (st.xw n w).churnFault = st.churnFault := Strand.xput_churnFault ..
@[simp] theorem Strand.xput_mresume (st : Strand) (n : Nat) (r : XReg) : (st.xput n r).mresume = st.mresume := by
  unfold Strand.xput; split <;> rfl
@[simp] theorem Strand.xw_mresume (st : Strand) (n : Nat) (w : Word) : (st.xw n w).mresume = st.mresume := Strand.xput_mresume ..
@[simp] theorem Strand.xput_arrivals (st : Strand) (n : Nat) (r : XReg) : (st.xput n r).arrivals = st.arrivals := by
  unfold Strand.xput; split <;> rfl
@[simp] theorem Strand.xw_arrivals (st : Strand) (n : Nat) (w : Word) : (st.xw n w).arrivals = st.arrivals := Strand.xput_arrivals ..
@[simp] theorem Strand.xput_refusals (st : Strand) (n : Nat) (r : XReg) : (st.xput n r).refusals = st.refusals := by
  unfold Strand.xput; split <;> rfl
@[simp] theorem Strand.xw_refusals (st : Strand) (n : Nat) (w : Word) : (st.xw n w).refusals = st.refusals := Strand.xput_refusals ..
@[simp] theorem Strand.xput_relFence (st : Strand) (n : Nat) (r : XReg) : (st.xput n r).relFence = st.relFence := by
  unfold Strand.xput; split <;> rfl
@[simp] theorem Strand.xw_relFence (st : Strand) (n : Nat) (w : Word) : (st.xw n w).relFence = st.relFence := Strand.xput_relFence ..
@[simp] theorem Strand.xput_known (st : Strand) (n : Nat) (r : XReg) : (st.xput n r).known = st.known := by
  unfold Strand.xput; split <;> rfl
@[simp] theorem Strand.xw_known (st : Strand) (n : Nat) (w : Word) : (st.xw n w).known = st.known := Strand.xput_known ..
@[simp] theorem Strand.xput_engRecs (st : Strand) (n : Nat) (r : XReg) : (st.xput n r).engRecs = st.engRecs := by
  unfold Strand.xput; split <;> rfl
@[simp] theorem Strand.xw_engRecs (st : Strand) (n : Nat) (w : Word) : (st.xw n w).engRecs = st.engRecs := Strand.xput_engRecs ..
@[simp] theorem Strand.xput_readRecs (st : Strand) (n : Nat) (r : XReg) : (st.xput n r).readRecs = st.readRecs := by
  unfold Strand.xput; split <;> rfl
@[simp] theorem Strand.xw_readRecs (st : Strand) (n : Nat) (w : Word) : (st.xw n w).readRecs = st.readRecs := Strand.xput_readRecs ..
@[simp] theorem Strand.xput_promote (st : Strand) (n : Nat) (r : XReg) : (st.xput n r).promote = st.promote := by
  unfold Strand.xput; split <;> rfl
@[simp] theorem Strand.xw_promote (st : Strand) (n : Nat) (w : Word) : (st.xw n w).promote = st.promote := Strand.xput_promote ..
@[simp] theorem Strand.xput_promoteRead (st : Strand) (n : Nat) (r : XReg) : (st.xput n r).promoteRead = st.promoteRead := by
  unfold Strand.xput; split <;> rfl
@[simp] theorem Strand.xw_promoteRead (st : Strand) (n : Nat) (w : Word) : (st.xw n w).promoteRead = st.promoteRead := Strand.xput_promoteRead ..
@[simp] theorem Strand.xput_regSends (st : Strand) (n : Nat) (r : XReg) : (st.xput n r).regSends = st.regSends := by
  unfold Strand.xput; split <;> rfl
@[simp] theorem Strand.xw_regSends (st : Strand) (n : Nat) (w : Word) : (st.xw n w).regSends = st.regSends := Strand.xput_regSends ..
@[simp] theorem Strand.xput_miss (st : Strand) (n : Nat) (r : XReg) : (st.xput n r).miss = st.miss := by
  unfold Strand.xput; split <;> rfl
@[simp] theorem Strand.xw_miss (st : Strand) (n : Nat) (w : Word) : (st.xw n w).miss = st.miss := Strand.xput_miss ..
@[simp] theorem Strand.xput_missFault (st : Strand) (n : Nat) (r : XReg) : (st.xput n r).missFault = st.missFault := by
  unfold Strand.xput; split <;> rfl
@[simp] theorem Strand.xw_missFault (st : Strand) (n : Nat) (w : Word) : (st.xw n w).missFault = st.missFault := Strand.xput_missFault ..
@[simp] theorem Strand.xput_seqMiss (st : Strand) (n : Nat) (r : XReg) : (st.xput n r).seqMiss = st.seqMiss := by
  unfold Strand.xput; split <;> rfl
@[simp] theorem Strand.xw_seqMiss (st : Strand) (n : Nat) (w : Word) : (st.xw n w).seqMiss = st.seqMiss := Strand.xput_seqMiss ..
@[simp] theorem Strand.xput_seqMissFault (st : Strand) (n : Nat) (r : XReg) : (st.xput n r).seqMissFault = st.seqMissFault := by
  unfold Strand.xput; split <;> rfl
@[simp] theorem Strand.xw_seqMissFault (st : Strand) (n : Nat) (w : Word) : (st.xw n w).seqMissFault = st.seqMissFault := Strand.xput_seqMissFault ..
@[simp] theorem Strand.xput_heldAt (st : Strand) (n : Nat) (r : XReg) : (st.xput n r).heldAt = st.heldAt := by
  unfold Strand.xput; split <;> rfl
@[simp] theorem Strand.xw_heldAt (st : Strand) (n : Nat) (w : Word) : (st.xw n w).heldAt = st.heldAt := Strand.xput_heldAt ..
@[simp] theorem Strand.xput_yieldDue (st : Strand) (n : Nat) (r : XReg) : (st.xput n r).yieldDue = st.yieldDue := by
  unfold Strand.xput; split <;> rfl
@[simp] theorem Strand.xw_yieldDue (st : Strand) (n : Nat) (w : Word) : (st.xw n w).yieldDue = st.yieldDue := Strand.xput_yieldDue ..
@[simp] theorem Strand.xput_supDue (st : Strand) (n : Nat) (r : XReg) : (st.xput n r).supDue = st.supDue := by
  unfold Strand.xput; split <;> rfl
@[simp] theorem Strand.xw_supDue (st : Strand) (n : Nat) (w : Word) : (st.xw n w).supDue = st.supDue := Strand.xput_supDue ..
@[simp] theorem Strand.xput_ahead (st : Strand) (n : Nat) (r : XReg) : (st.xput n r).ahead = st.ahead := by
  unfold Strand.xput; split <;> rfl
@[simp] theorem Strand.xw_ahead (st : Strand) (n : Nat) (w : Word) : (st.xw n w).ahead = st.ahead := Strand.xput_ahead ..
@[simp] theorem Strand.xput_landing (st : Strand) (n : Nat) (r : XReg) : (st.xput n r).landing = st.landing := by
  unfold Strand.xput; split <;> rfl
@[simp] theorem Strand.xw_landing (st : Strand) (n : Nat) (w : Word) : (st.xw n w).landing = st.landing := Strand.xput_landing ..
@[simp] theorem Strand.xput_vready (st : Strand) (n : Nat) (r : XReg) : (st.xput n r).vready = st.vready := by
  unfold Strand.xput; split <;> rfl
@[simp] theorem Strand.xw_vready (st : Strand) (n : Nat) (w : Word) : (st.xw n w).vready = st.vready := Strand.xput_vready ..
@[simp] theorem Strand.xput_claim (st : Strand) (n : Nat) (r : XReg) : (st.xput n r).claim = st.claim := by
  unfold Strand.xput; split <;> rfl
@[simp] theorem Strand.xw_claim (st : Strand) (n : Nat) (w : Word) : (st.xw n w).claim = st.claim := Strand.xput_claim ..
@[simp] theorem Strand.xput_sfuAt (st : Strand) (n : Nat) (r : XReg) : (st.xput n r).sfuAt = st.sfuAt := by
  unfold Strand.xput; split <;> rfl
@[simp] theorem Strand.xw_sfuAt (st : Strand) (n : Nat) (w : Word) : (st.xw n w).sfuAt = st.sfuAt := Strand.xput_sfuAt ..
@[simp] theorem Strand.xput_leader (st : Strand) (n : Nat) (r : XReg) : (st.xput n r).leader = st.leader := by
  unfold Strand.xput; split <;> rfl
@[simp] theorem Strand.xw_leader (st : Strand) (n : Nat) (w : Word) : (st.xw n w).leader = st.leader := Strand.xput_leader ..
@[simp] theorem Strand.xput_seqFree (st : Strand) (n : Nat) (r : XReg) : (st.xput n r).seqFree = st.seqFree := by
  unfold Strand.xput; split <;> rfl
@[simp] theorem Strand.xw_seqFree (st : Strand) (n : Nat) (w : Word) : (st.xw n w).seqFree = st.seqFree := Strand.xput_seqFree ..
@[simp] theorem Strand.xput_leaving (st : Strand) (n : Nat) (r : XReg) : (st.xput n r).leaving = st.leaving := by
  unfold Strand.xput; split <;> rfl
@[simp] theorem Strand.xw_leaving (st : Strand) (n : Nat) (w : Word) : (st.xw n w).leaving = st.leaving := Strand.xput_leaving ..
@[simp] theorem Strand.xput_restUntil (st : Strand) (n : Nat) (r : XReg) : (st.xput n r).restUntil = st.restUntil := by
  unfold Strand.xput; split <;> rfl
@[simp] theorem Strand.xw_restUntil (st : Strand) (n : Nat) (w : Word) : (st.xw n w).restUntil = st.restUntil := Strand.xput_restUntil ..

/-! ## A recorded grant changes the resident part alone -/

@[simp] theorem State.noteGrant_mem (s : State) (c n : Nat) : (s.noteGrant c n).mem = s.mem := by
  unfold State.noteGrant; dsimp only; split <;> rfl
@[simp] theorem State.noteGrant_hostMem (s : State) (c n : Nat) : (s.noteGrant c n).hostMem = s.hostMem := by
  unfold State.noteGrant; dsimp only; split <;> rfl
@[simp] theorem State.noteGrant_octets (s : State) (c n : Nat) : (s.noteGrant c n).octets = s.octets := by
  unfold State.noteGrant; dsimp only; split <;> rfl

end Sys2Proof.Machine
end

