-- ==== Sys2Proof/Safety.lean ====
section
/-!
DEFINITION. The terms that claims use: what a sound state is, when a word is ready and passes its checks, the states before and
after its own effect, and what it means to leave parts of the machine alone.
-/
namespace Sys2Proof.Machine

/-- The memories are in their canonical form: every address once, in rising order, none that reads what an unlisted one reads. -/
def State.Inv (s : State) : Prop := Memory.wf s.mem = true ∧ Memory.wf s.hostMem = true

/-! ## A word alone -/

/-- The word is ready to issue as a lone bundle and passes every check that comes before its own effect: readiness (R47), steps
5, 7 and 8 of Table 3.9, the watchdog (R51), no fault answered by the TSC, no argument word of RECORD to be translated. -/
abbrev Ready (i : Instr) (s : State) : Prop :=
  s.canIssue = true ∧ s.me.scoreboard i = true ∧ s.myCore.permitted i = true ∧ s.me.wordChecks i = none
    ∧ s.me.overBound (isYield i) = false ∧ s.me.missFault = none ∧ s.argMiss i = none
/-- The state in which the word's own effect starts: YCNT counts the bundle (R51), the next bundle's address is known. -/
def issued (i : Instr) (s : State) : State :=
  s.setMe { s.me.count (isYield i) with npc := nextPc s.me.pc 4, missFault := none }
/-- The acting strand with its effect about to start. -/
def issuedMe (i : Instr) (s : State) : Strand := { s.me.count (isYield i) with npc := nextPc s.me.pc 4, missFault := none }
/-- The state after the word's own effect has led from `issued i s` to `s2`: records of RECORD, permits, the pc, energy. -/
def retired (i : Instr) (s s2 : State) : State :=
  ((issued i s).usePermits (afterWord (issued i s) s2 i) i none).retire s.curCore s.curStrand
/-- The word completes: `exec` answers the next state in which its own effect is `s2`. -/
def Completes (i : Instr) (s s2 : State) : Prop := exec i s = .next (retired i s s2)
/-- The word completes by an effect on its own strand alone. -/
def CompletesMe (i : Instr) (s : State) (st : Strand) : Prop := Completes i s ((issued i s).setMe st)
/-- The word completes by writing Xd, mark cleared (R71). -/
def CompletesX (i : Instr) (s : State) (d : Reg) (v : Word) : Prop := CompletesMe i s ((issuedMe i s).xw d.val v)
/-- The state after the word, whose effect has led from `issued i s` to `s2`, has ended in a fault: it has issued, with its permits (R51, R296), and
its strand enters the fault handler with EPC at the word (R251). -/
def trapped (i : Instr) (s s2 : State) (f : FaultInfo) : State := ((issued i s).usePermits s2 i none).trapMe f false s.me.pc
/-- The word takes a fault of its own, precisely: nothing of an effect stands (R28). -/
def Traps (i : Instr) (s : State) (f : FaultInfo) : Prop := exec i s = .next (trapped i s (issued i s) f)

/-- Both words of a pair are ready, and nothing but their own checks and effects stands between the pair and its issue (R28, R47, R51). -/
abbrev PairReady (i j : Instr) (s : State) : Prop :=
  s.canIssue = true ∧ s.me.scoreboard i = true ∧ s.me.scoreboard j = true ∧ s.myCore.permitted i = true
    ∧ (s.myCore.takePermit i).permitted j = true ∧ isYield i = false ∧ s.me.overBound false = false ∧ s.me.missFault = none
    ∧ s.argMiss i = none ∧ s.argMiss j = none
/-- The state in which the effects of a pair's words start: YCNT counts the bundle once (R51), the next bundle is 8 bytes on (R28). -/
def issuedPair (s : State) : State := s.setMe { s.me.count false with npc := nextPc s.me.pc 8, missFault := none }

/-- The strand (s.curCore, s.curStrand) has its turn and nothing happens at its bundle boundary: it may fetch and issue (R47). -/
abbrev MayRun (s : State) : Prop :=
  s.boundary s.curCore s.curStrand = none ∧ s.myPart.resident = true ∧ s.myPart.mirror = false ∧ s.myPart.tape.mode ≠ 2
    ∧ s.myCore.test.testing = false ∧ s.me.stat.slave = false ∧ s.canIssue = true
/-- The strand's pc has a translation with execute right, and what the core fetches there is the word `w` (R27): the four bytes there, low
byte first, unless stores that no IFLUSH covers leave it open (R67). -/
abbrev FetchesAt (s : State) (pc : VAddr) (w : Nat) : Prop :=
  ∃ pa, s.translate s.curCore .fetch s.me.regs.asid .fetch pc.toNat = .ok [pa] ∧ s.peerDown pa = false
    ∧ (∀ q, tcmCore pa = some q → s.fencedTo s.curCore q = false) ∧ s.badWords.contains (pa / 4) = false
    ∧ s.codeWord s.curCore pc.toNat pa = w

/-! ## Scalar results -/

/-- A 64-bit result, or under .W a 32-bit one sign-extended (R68). -/
def narrow (w : Bool) (v : Int) : Word := if w then (BitVec.ofInt 32 v).signExtend 64 else BitVec.ofInt 64 v
/-- A source as a signed or an unsigned number of the operation's width (R68). -/
def signedOf (w : Bool) (x : Word) : Int := if w then (x.setWidth 32).toInt else x.toInt
def unsignedOf (w : Bool) (x : Word) : Nat := if w then (x.setWidth 32).toNat else x.toNat

/-- `st` goes on at `pc`; in an exchange phase a taken transfer is followed by one core cycle without a bundle (R48). -/
def jumped (s : State) (st : Strand) (pc : VAddr) : Strand :=
  { st with npc := pc, restUntil := if s.myCore.exch.active then s.time + 2 else st.restUntil }
/-- A conditional relative transfer (R49): taken to the bundle's address plus 4 × offset, else on to the next bundle. -/
def Branches (i : Instr) (s : State) (cond : Prop) (off : Int) : Prop :=
  (cond → CompletesMe i s (jumped s (issuedMe i s) (s.me.pc + BitVec.ofInt 54 (4 * off)))) ∧ (¬cond → Completes i s (issued i s))
/-- Bits [53:2] of a value × 4, as an address (R29). -/
def jumpAddr (v : Word) : VAddr := BitVec.ofNat 54 (v.toNat % 2 ^ 54 / 4 * 4)
/-- The word enters the strand's sequencer as entry `e` (R114). -/
def HandedOver (i : Instr) (s : State) (st : Strand) (e : SeqEntry) : Prop :=
  Completes i s (({ issued i s with nextId := s.nextId + 1 } : State).setMe
    { st with seq := st.seq ++ [{ e with ord := s.nextId, handed := s.time }] })
/-- The Churn entry of the word with pointer register `a` and length `len` (R151). -/
def churnEntryOf (i : Instr) (s : State) (a : Reg) (len : Word) : ChurnEntry :=
  { id := s.nextId, instr := i, strand := s.curStrand, pc := s.me.pc, npc := nextPc s.me.pc 4, sup := s.me.stat.sup
    pa := (s.me.xreg a.val).ptr, marked := (s.me.xreg a.val).mark, len := len }
/-- The word enters the Churn's queue (R151). -/
def Queued (i : Instr) (s : State) (a : Reg) (len : Word) : Prop :=
  Completes i s (({ issued i s with nextId := s.nextId + 1 } : State).setMyCore
    { (issued i s).myCore with churnQ := (issued i s).myCore.churnQ ++ [churnEntryOf i s a len] })
/-- The word makes the access `a` outstanding; the registers `busy` wait for its reply (R102). -/
def Accesses (i : Instr) (s : State) (st : Strand) (a : Access) (busy : List Nat) : Prop :=
  Completes i s (((issued i s).setMe st).addAccess a busy)

/-! ## Vector words -/

/-- The vector memory, vector integer and vector float words that write no X register: issue hands them over (R114). -/
def vectorWord : Instr → Bool
  | .vld _ _ _ _ | .vst _ _ _ _ | .vldb _ _ _ _ | .vldsy _ _ _ _ => true
  | .vlds _ _ _ _ _ | .vldg _ _ _ _ _ | .vsts _ _ _ _ _ | .vstg _ _ _ _ _ => true
  | .vadd _ _ _ _ _ _ | .vsub _ _ _ _ _ _ | .vcmp _ _ _ _ _ _ | .vslide _ _ _ _ _ _ => true
  | .vmul _ _ _ _ _ | .vmulh _ _ _ _ _ | .vand _ _ _ _ _ | .vor _ _ _ _ _ | .vxor _ _ _ _ _ => true
  | .vshl _ _ _ _ _ | .vshr _ _ _ _ _ | .vsra _ _ _ _ _ | .vmin _ _ _ _ _ | .vmax _ _ _ _ _ => true
  | .vsel _ _ _ _ _ | .vperm _ _ _ _ _ | .vbcst _ _ _ _ | .viota _ _ _ => true
  | .vfadd _ _ _ _ _ _ | .vfsub _ _ _ _ _ _ | .vfmul _ _ _ _ _ _ | .vfma _ _ _ _ _ _ | .vfms _ _ _ _ _ _ => true
  | .vfmin _ _ _ _ _ | .vfmax _ _ _ _ _ | .vfabs _ _ _ _ | .vfcmp _ _ _ _ _ _ | .vfcvt _ _ _ _ _ _ => true
  | .vfrnd _ _ _ _ _ | .vaddx _ _ _ _ _ | .vsubx _ _ _ _ _ | .vmulx _ _ _ _ _ => true
  | .dwadd _ _ _ _ | .dwsub _ _ _ _ | .dwmul _ _ _ _ | .dwnorm _ _ _ => true
  | .vsum _ _ _ _ | .vsumc _ _ _ | .vredmax _ _ _ _ | .vscale _ _ _ _ _ _ | .vsfu _ _ _ _ _ => true
  | _ => false
/-- R113 and R116 let the word be handed over: the strand has lanes, the predicate has the word's width, and no group operand covers
more than six registers. -/
def GroupsFit (st : Strand) (i : Instr) : Prop :=
  0 < st.nlanes ∧ (∀ p w, i.govern = some (p, w) → (st.captured i).2 = w)
    ∧ ∀ o ∈ vOps i (st.captured i).2, o.single = false → o.len st.nlanes (st.captured i).1 ≤ 6
/-- The word's predicate is explicit and counts no element (R113). -/
abbrev NoElements (st : Strand) (i : Instr) : Prop := predOf i ≠ 0 ∧ (st.captured i).1 = 0
/-- Entry `e` heads the sequencer of strand (c, t), in no loop, and can start: its operands are there (R114, R115, R134), its
core is in no containment rectangle (R301), and in an exchange phase its cycle has come (R272). No entry of it is leaving, and it is no partner
of a pair. -/
abbrev Starts (s : State) (c t : Nat) (e : SeqEntry) : Prop :=
  (s.strand c t).seq.head? = some e ∧ (s.strand c t).loop = none ∧ (s.strand c t).seqMiss = none ∧ (s.strand c t).seqFault = none
    ∧ (s.strand c t).seqMissFault = none ∧ (s.strand c t).leaving = none ∧ e.noOp = false ∧ e.snap = [] ∧ e.lanes = none ∧ e.pairHead = false
    ∧ s.operandsReady c t e ((s.strand c t).ctxOf e) = true ∧ s.fenced c = false ∧ s.reached c t e = true

/-- Lone words stand from `pc` on, one after the other: they are fetched there and decode to `l` (R27). -/
def LoneWordsAt (s : State) : VAddr → List Instr → Prop
  | _, [] => True
  | pc, i :: l => (∃ w, FetchesAt s pc w ∧ w / 2 ^ 31 = 1 ∧ decodeWord w = .instr i ∧ (privileged w = true → s.me.stat.sup = true))
      ∧ LoneWordsAt s (nextPc pc 4) l
/-- The body of a loop that they make (R117). -/
def loneBody : VAddr → List Instr → List BodyWord
  | _, [] => []
  | pc, i :: l => { instr := i, pc := pc, npc := nextPc pc 4 } :: loneBody (nextPc pc 4) l

/-- A value rounded to FP32 by RNE (R126). -/
def rn32 (v : FVal) : FVal := fp32.val (rnd fp32 .rne 0 v).bits
/-- The pair that R129 gives for u + w: hi ← rne(u + w), lo ← (u + w) − hi; `fin` says that every input is finite. -/
def Closes (fin : Bool) (u w : FVal) (hi lo : Nat) : Prop :=
  let e := (u.add w).1
  hi = (rnd fp32 .rne 0 e).bits ∧ match rn32 e with
    | .nan => lo = 0
    | .inf _ => lo = if fin then lowNan fp32 else 0
    | .num n m q => let r := (e.add (FVal.num n m q).neg).1; lo = if r.isZero then 0 else (rnd fp32 .rne 0 r).bits
/-- The fixed tree of R130 over 2^k leaves: element i takes in element i + h, for h = 2^(k − 1) down to 1. -/
def tree {α : Type} (node : α → α → α) : Nat → (Nat → α) → α
  | 0, x => x 0
  | k + 1, x => tree node k fun i => node (x i) (x (i + 2 ^ k))
/-- A node of VSUMC's tree (R131). -/
def sumNode (a b : FVal × FVal) : FVal × FVal :=
  let s := rn32 (a.1.add b.1).1
  match s with
  | .num _ _ _ => (s, rn32 ((rn32 (a.2.add b.2).1).add (((a.1.add b.1).1).add s.neg).1).1)
  | _ => (s, .num false 0 0)
/-- x lies below y, −0 below +0 (Table 6.7, R132). -/
def below (x y : FVal) : Prop := x.lt y = true ∨ (x.eq y = true ∧ x.isNeg = true ∧ y.isNeg = false)

/-! ## Frames -/

/-- No byte of memory, and no full/empty bit, has changed. -/
def SameMemory (s t : State) : Prop := (∀ a, t.byteAt a = s.byteAt a) ∧ ∀ a, t.isFull a = s.isFull a
/-- Every byte outside the addresses `l` reads as before. -/
def SameOutside (l : List Nat) (s t : State) : Prop := ∀ a, a ∉ l → t.byteAt a = s.byteAt a

/-- Scalar words that end in no fault of their own and write X registers, the pc and STAT's float flags alone. -/
def registerWord : Instr → Bool
  | .nop | .ret => true
  | .bra _ | .call _ => true
  | .jmpr _ | .callr _ => true
  | .beq _ _ _ | .bne _ _ _ | .blt _ _ _ | .bge _ _ _ | .bltn _ _ _ | .bgen _ _ _ | .beqi _ _ _ | .bnei _ _ _ => true
  | .bz _ _ | .bnz _ _ => true
  | .add _ _ _ _ | .sub _ _ _ _ | .mul _ _ _ _ | .mulh _ _ _ _ | .mulhn _ _ _ _ | .div _ _ _ _ | .divn _ _ _ _ => true
  | .rem _ _ _ _ | .remn _ _ _ _ | .shl _ _ _ _ | .shr _ _ _ _ | .sra _ _ _ _ => true
  | .and _ _ _ | .or _ _ _ | .xor _ _ _ | .slt _ _ _ | .sltn _ _ _ | .min _ _ _ | .max _ _ _ | .padd _ _ _ | .sel _ _ _ => true
  | .addi _ _ _ | .andi _ _ _ | .ori _ _ _ | .xori _ _ _ | .slti _ _ _ | .paddi _ _ _ | .shli _ _ _ | .shri _ _ _ | .srai _ _ _ => true
  | .movi _ _ | .movhi _ _ | .clz _ _ | .popc _ _ | .pstrip _ _ | .pget _ _ => true
  | .fadd _ _ _ _ _ | .fmul _ _ _ _ _ | .fma _ _ _ _ _ | .fcvt _ _ _ _ _ | .fcmp _ _ _ _ _ => true
  | _ => false
/-- The words of `registerWord` that set STAT's float flags and draw from SEED (R75, R45). -/
def floatWord : Instr → Bool
  | .fadd _ _ _ _ _ | .fmul _ _ _ _ _ | .fma _ _ _ _ _ | .fcvt _ _ _ _ _ => true
  | _ => false

end Sys2Proof.Machine
end

