-- ==== Sys2Proof/Laws/Memory.lean ====
section
/-!
SUPPORT. Laws of memory: a read after a write, what a write leaves alone, and that every memory operation keeps the canonical
form.
-/
namespace Sys2Proof.Machine

theorem Memory.wf_iff (m : Memory) : Memory.wf m = true ↔ Tab.sorted m = true ∧ ∀ e ∈ m, e.2 ≠ 0#8 := by
  simp [Memory.wf]

/-- A canonical write keeps the form. -/
theorem Memory.wf_set {m : Memory} (h : Memory.wf m = true) (a : Nat) (b : Byte) : Memory.wf (Tab.set 0#8 a b m) = true := by
  rw [Memory.wf_iff] at h ⊢
  exact ⟨Tab.sorted_set _ _ _ h.1, Tab.set_entries _ _ _ h.2⟩
theorem Memory.wf_filter {m : Memory} (h : Memory.wf m = true) (p : Nat × Byte → Bool) : Memory.wf (m.filter p) = true := by
  rw [Memory.wf_iff] at h ⊢
  exact ⟨Tab.sorted_filter _ h.1, fun e he => h.2 e (List.mem_filter.1 he).1⟩
theorem Memory.wf_nil : Memory.wf [] = true := rfl
theorem Memory.wf_foldl {l : List Host.Cell} {m : Memory} (h : Memory.wf m = true) :
    Memory.wf (l.foldl (fun m e => Tab.set 0#8 e.1 e.2 m) m) = true := by
  induction l generalizing m with
  | nil => exact h
  | cons e l ih => exact ih (Memory.wf_set h e.1 e.2)

/-- One byte written, one byte read. -/
theorem State.byteAt_setByte (s : State) (a b : Nat) (v : Byte) : (s.setByte a v).byteAt b = if b = a then v else s.byteAt b :=
  Tab.get_set ..
@[simp] theorem State.byteAt_setByte_self (s : State) (a : Nat) (v : Byte) : (s.setByte a v).byteAt a = v := by
  simp [State.byteAt_setByte]
theorem State.setByte_wf {s : State} (h : Memory.wf s.mem = true) (a : Nat) (v : Byte) : Memory.wf (s.setByte a v).mem = true :=
  Memory.wf_set h a v

theorem State.writeB_wf (l : List Nat) : ∀ {s : State} (v : Nat), Memory.wf s.mem = true → Memory.wf (s.writeB l v).mem = true := by
  induction l with
  | nil => intro s v h; exact h
  | cons a l ih => intro s v h; exact ih _ (State.setByte_wf h a _)
theorem State.writeN_wf {s : State} (a n v : Nat) (h : Memory.wf s.mem = true) : Memory.wf (s.writeN a n v).mem = true :=
  State.writeB_wf _ _ h
theorem State.writeB_hostMem (l : List Nat) : ∀ (s : State) (v : Nat), (s.writeB l v).hostMem = s.hostMem := by
  induction l with
  | nil => intro s v; rfl
  | cons a l ih => intro s v; simp [State.writeB, ih]
theorem State.hostWrite_wf (n : Nat) : ∀ {s : State} (a v : Nat), Memory.wf s.hostMem = true →
    Memory.wf (s.hostWrite a v n).hostMem = true := by
  induction n with
  | zero => intro s a v h; exact h
  | succ n ih => intro s a v h; exact ih _ _ (Memory.wf_set h a _)
theorem State.hostWrite_mem (n : Nat) : ∀ (s : State) (a v : Nat), (s.hostWrite a v n).mem = s.mem := by
  induction n with
  | zero => intro s a v; rfl
  | succ n ih => intro s a v; simp [State.hostWrite, ih]

/-- A store leaves the bytes outside its addresses alone. -/
theorem State.byteAt_writeB_out (l : List Nat) : ∀ (s : State) (v b : Nat), b ∉ l → (s.writeB l v).byteAt b = s.byteAt b := by
  induction l with
  | nil => intro s v b _; rfl
  | cons a l ih =>
    intro s v b h
    have hb : b ≠ a := fun e => h (by simp [e])
    have hl : b ∉ l := fun e => h (by simp [e])
    rw [State.writeB, ih _ _ _ hl, State.byteAt_setByte, if_neg hb]
theorem State.readB_congr (l : List Nat) (s t : State) (h : ∀ a ∈ l, t.byteAt a = s.byteAt a) : t.readB l = s.readB l := by
  induction l with
  | nil => rfl
  | cons a l ih =>
    rw [State.readB, State.readB, h a (by simp), ih fun b hb => h b (by simp [hb])]
/-- A read of distinct bytes finds what a store wrote there. -/
theorem State.readB_writeB (l : List Nat) : ∀ (s : State) (v : Nat), l.Nodup → (s.writeB l v).readB l = v % 256 ^ l.length := by
  induction l with
  | nil => intro s v _; simp [State.readB, Nat.mod_one]
  | cons a l ih =>
    intro s v h
    obtain ⟨ha, hl⟩ := List.nodup_cons.1 h
    rw [State.readB, State.writeB, State.byteAt_writeB_out l _ _ _ ha, State.byteAt_setByte_self, ih _ _ hl]
    have e : 256 ^ (l.length + 1) = 256 * 256 ^ l.length := by rw [Nat.pow_succ, Nat.mul_comm]
    rw [BitVec.toNat_ofNat, List.length_cons, e, Nat.mod_mul]

theorem mem_span {a n b : Nat} : b ∈ span a n ↔ a ≤ b ∧ b < a + n := by
  induction n generalizing a with
  | zero => simp [span]
  | succ n ih => simp only [span, List.mem_cons, ih]; omega
theorem span_length (a n : Nat) : (span a n).length = n := by
  induction n generalizing a with
  | zero => rfl
  | succ n ih => simp [span, ih]
theorem span_nodup (a n : Nat) : (span a n).Nodup := by
  induction n generalizing a with
  | zero => exact List.nodup_nil
  | succ n ih =>
    refine List.nodup_cons.2 ⟨?_, ih (a + 1)⟩
    rw [mem_span]; omega
/-- n bytes written at an address read back. -/
theorem State.readN_writeN (s : State) (a n v : Nat) : (s.writeN a n v).readN a n = v % 256 ^ n := by
  have := State.readB_writeB (span a n) s v (span_nodup a n)
  rwa [span_length] at this

end Sys2Proof.Machine
end

