-- ==== Sys2Proof/Laws/Issue.lean ====
section
/-!
SUPPORT. What the issue of a lone word does, by the word's effect; what taking a fault does.
-/
namespace Sys2Proof.Machine

@[simp] theorem issued_me (i : Instr) (s : State) : (issued i s).me = issuedMe i s := State.me_setMe ..
@[simp] theorem issued_curCore (i : Instr) (s : State) : (issued i s).curCore = s.curCore := rfl
@[simp] theorem issued_curStrand (i : Instr) (s : State) : (issued i s).curStrand = s.curStrand := rfl
@[simp] theorem issued_mem (i : Instr) (s : State) : (issued i s).mem = s.mem := rfl
@[simp] theorem issuedMe_x (i : Instr) (s : State) : (issuedMe i s).x = s.me.x := by unfold issuedMe Strand.count; split <;> rfl
@[simp] theorem issuedMe_stat (i : Instr) (s : State) : (issuedMe i s).stat = s.me.stat := by
  unfold issuedMe Strand.count; split <;> rfl
@[simp] theorem issuedMe_xidx (i : Instr) (s : State) (n : Nat) : (issuedMe i s).xidx n = s.me.xidx n := by simp [Strand.xidx]
@[simp] theorem issuedMe_xreg (i : Instr) (s : State) (n : Nat) : (issuedMe i s).xreg n = s.me.xreg n := by simp [Strand.xreg]
@[simp] theorem issuedMe_xr (i : Instr) (s : State) (n : Nat) : (issuedMe i s).xr n = s.me.xr n := by simp [Strand.xr]
@[simp] theorem issuedMe_npc (i : Instr) (s : State) : (issuedMe i s).npc = nextPc s.me.pc 4 := rfl
@[simp] theorem issuedMe_pc (i : Instr) (s : State) : (issuedMe i s).pc = s.me.pc := by
  unfold issuedMe Strand.count; split <;> rfl
@[simp] theorem issuedMe_regs (i : Instr) (s : State) : (issuedMe i s).regs = s.me.regs := by
  unfold issuedMe Strand.count; split <;> rfl

/-- What a ready word's issue does, by its effect. -/
theorem issueLone_ready {i : Instr} {raw : State → Eff} {s : State} (h : Ready i s) :
    issueLone i raw s = match raw (issued i s) with
      | .done s2 => retired i s s2
      | .trap f => trapped i s (issued i s) f
      | .trapIn s2 f => trapped i s s2 f
      | .wait => s
      | .sleep k words s2 => s2.fallAsleep k words i none
      | .miss kind va => s.missScalar .scalar kind va := by
  obtain ⟨h1, h2, h3, h4, h5, h6, h7⟩ := h
  unfold issueLone
  simp only [h1, h2, h3, h4, h5, h6, h7, Bool.and_self, Bool.not_true, Bool.false_eq_true, if_false]
  change (match raw (issued i s) with | .wait => _ | _ => _) = _
  cases raw (issued i s) <;> rfl
/-- A word that is not ready leaves the state as it is (R47). -/
theorem issueLone_wait {i : Instr} {raw : State → Eff} {s : State}
    (h : (s.canIssue && s.me.scoreboard i && s.myCore.permitted i) = false) : issueLone i raw s = s := by
  unfold issueLone; simp [h]
/-- A ready word whose effect is `s2` completes. -/
theorem completes_of_done {i : Instr} {raw : State → Eff} {s s2 : State} (hx : exec i s = lone i raw s) (h : Ready i s)
    (hr : raw (issued i s) = .done s2) : Completes i s s2 := by
  unfold Completes; rw [hx, lone, issueLone_ready h, hr]
/-- A ready word that writes Xd alone. -/
theorem completesX_of_writeX {i : Instr} {raw : State → Eff} {s : State} {d : Reg} {v : Word} (hx : exec i s = lone i raw s)
    (h : Ready i s) (hr : raw (issued i s) = writeX (issued i s) d v) : CompletesX i s d v := by
  refine completes_of_done hx h (hr.trans ?_)
  rw [writeX, issued_me]
/-- A ready word whose effect is a fault takes it. -/
theorem traps_of_trap {i : Instr} {raw : State → Eff} {s : State} {f : FaultInfo} (hx : exec i s = lone i raw s) (h : Ready i s)
    (hr : raw (issued i s) = .trap f) : Traps i s f := by
  unfold Traps; rw [hx, lone, issueLone_ready h, hr]

/-! ## Issuing and matching -/

@[simp] theorem onCurve_strand (s : State) (c : Nat) (f : Curve → Curve) (d t : Nat) : (s.onCurve c f).strand d t = s.strand d t := by
  unfold State.onCurve State.strand
  rw [State.core_setCore]
  split
  · next h => subst h; rfl
  · rfl
/-- Replacing a core by one whose part holds the same strands changes no strand. -/
theorem setCore_strand_same {s : State} {c : Nat} {k : Core} (h : k.part.strands = (s.core c).part.strands) (d u : Nat) :
    (s.setCore c k).strand d u = s.strand d u := by
  unfold State.strand
  rw [State.core_setCore]
  split
  · next e => subst e; rw [h]
  · rfl
@[simp] theorem spendAt_strand (s : State) (c e : Nat) (cls : Option Nat) (a : Bool) (d u : Nat) :
    (s.spendAt c e cls a).strand d u = s.strand d u := setCore_strand_same (by unfold Core.spend; cases a <;> rfl) ..
/-- An energy estimate changes no strand and no memory. -/
@[simp] theorem charge_strand (s : State) (c e : Nat) (cls : Option Nat) (d u : Nat) : (s.charge c e cls).strand d u = s.strand d u := by
  unfold State.charge State.spend; split <;> simp
@[simp] theorem charge_mem (s : State) (c e : Nat) (cls : Option Nat) : (s.charge c e cls).mem = s.mem := by
  unfold State.charge State.spend; split <;> rfl
@[simp] theorem energy_strand (s : State) (c e : Nat) (cls : Option Nat) (d u : Nat) : (s.energy c e cls).strand d u = s.strand d u :=
  charge_strand ..
@[simp] theorem energy_mem (s : State) (c e : Nat) (cls : Option Nat) : (s.energy c e cls).mem = s.mem := charge_mem ..
@[simp] theorem noteIssue_strand (s : State) (c t d u : Nat) : (s.noteIssue c t).strand d u = s.strand d u := by
  unfold State.noteIssue
  rw [energy_strand]
  exact setCore_strand_same (by rfl) ..
@[simp] theorem noteIssue_mem (s : State) (c t : Nat) : (s.noteIssue c t).mem = s.mem := energy_mem ..
/-- A fold keeps what each of its steps keeps. -/
theorem foldl_keeps {α β : Type} (g : State → β) (f : State → α → State) (h : ∀ s a, g (f s a) = g s) (l : List α) (s : State) :
    g (l.foldl f s) = g s := by
  induction l generalizing s with
  | nil => rfl
  | cons a l ih => rw [List.foldl_cons, ih, h]
/-- What matching a core's cap can do: nothing, or a new curve of that core. -/
theorem matchCap_cases (s : State) (c : Nat) : s.matchCap c = s ∨ ∃ f, s.matchCap c = s.onCurve c f := by
  unfold State.matchCap
  dsimp only
  repeat' split
  all_goals first | exact .inl rfl | exact .inr ⟨_, rfl⟩
/-- Matching the caps around a core changes no strand and no memory. -/
@[simp] theorem rematch_strand (s : State) (c d t : Nat) : (s.rematch c).strand d t = s.strand d t :=
  foldl_keeps (fun s => s.strand d t) State.matchCap (fun s k => by
    obtain h | ⟨f, h⟩ := matchCap_cases s k <;> simp [h]) ..
@[simp] theorem rematch_mem (s : State) (c : Nat) : (s.rematch c).mem = s.mem :=
  foldl_keeps State.mem State.matchCap (fun s k => by
    obtain h | ⟨f, h⟩ := matchCap_cases s k <;> rw [h] <;> rfl) ..
/-- Leaving a convoy writes no memory. -/
@[simp] theorem leaveConvoy_mem (s : State) (c t : Nat) (pc : VAddr) : (s.leaveConvoy c t pc).mem = s.mem := by
  unfold State.leaveConvoy
  exact foldl_keeps State.mem _ (fun s k => by dsimp only; split <;> rfl) ..

/-! ## Taking a fault -/

/-- At supervisor privilege the member's task ends, marked as by a fault in the monitor, and the core reports (R252). -/
theorem takeFault_sup {s : State} {c t : Nat} (h : (s.strand c t).stat.sup = true) (f : FaultInfo) (w d v m : Bool) (e : VAddr) :
    s.takeFault c t f w d v m e = (s.setPart c ((s.core c).part.endTask (some f.code) true)).reportHalt
      { core := c, strand := t, code := f.code, epc := target (e.setWidth 64), eva := BitVec.ofNat 54 f.eva } := by
  unfold State.takeFault; simp [h]
/-- At user privilege the strand enters the fault handler (R251). -/
theorem takeFault_user {s : State} {c t : Nat} (h : (s.strand c t).stat.sup = false) (f : FaultInfo) (w d v m : Bool) (e : VAddr) :
    (s.takeFault c t f w d v m e).strand c t =
      { s.strand c t with
        regs := { (s.strand c t).regs with cause := causeWord f w d v m, epc := target (e.setWidth 64), eva := BitVec.ofNat 54 f.eva }
        stat := { (s.strand c t).stat with sup := true, slave := false }
        ahead := false, asleep := none, miss := none, missFault := none
        pc := target ((s.strand c t).regs.fvec.setWidth 64) } := by
  unfold State.takeFault
  simp only [h, Bool.false_eq_true, if_false]
  split <;> simp
/-- Taking a fault writes no memory. -/
@[simp] theorem takeFault_mem (s : State) (c t : Nat) (f : FaultInfo) (w d v m : Bool) (e : VAddr) :
    (s.takeFault c t f w d v m e).mem = s.mem := by
  unfold State.takeFault
  dsimp only
  split
  · rfl
  · split <;> simp
@[simp] theorem trapMe_mem (s : State) (f : FaultInfo) (w : Bool) (pc : VAddr) : (s.trapMe f w pc).mem = s.mem := by simp [State.trapMe]

end Sys2Proof.Machine
end

