-- ==== Sys2Proof/Certificates/Slice0/Obligations.lean ====
section
/-!
DEFINITION. The statements for the provers. A statement's name says what it states; its entry in OBLIGATIONS.json cites the spec.
-/
open Sys2Proof Sys2Proof.Machine

/-! ## Encoding -/

/-- Words that the spec writes out decode to the instructions that it gives beside them. -/
def Obligations.SpecWordsDecode : Prop :=
  decodeWord 0xCD940002 = .instr (.movi 5 2) ∧ decodeWord 0xD018A040 = .instr (.paddi 6 5 64)
    ∧ decodeWord 0x908D0800 = .instr (.lds 3 8 .C 0) ∧ decodeWord 0x9811050E = .instr (.aadd 4 8 5 false .relaxed .die .G)
    ∧ decodeWord 0xB0014022 = .instr (.vld 0 10 1 .G) ∧ decodeWord 0xD4880124 = .instr (.vadd 2 0 1 1 .i32 false)
    ∧ decodeWord 0xEA002101 = .instr (.mma 1 0 1 true) ∧ decodeWord 0xA600A0C1 = .instr (.xmit 40 6 1)
/-- Every well-formed instruction word decodes to itself, with L = 0 or L = 1; and a word that decodes to an instruction is that
instruction's encoding, and the instruction is well-formed. -/
def Obligations.DecodeAndEncodeAgree : Prop :=
  (∀ (i : Instr) (l : Nat), i.wf = true → isEvent i = false → l < 2 → decodeWord (encode i + l * 2 ^ 31) = .instr i)
    ∧ (∀ (w : Nat) (i : Instr), decodeWord w = .instr i → encode i = w % 2 ^ 31 ∧ i.wf = true ∧ isEvent i = false)

/-! ## The machine -/

/-- A strand whose turn it is fetches the word at its pc, and a lone word that decodes to an instruction is executed: the step is
`exec` of it, in the state in which the fetch has used its page's translation (R265), and what closes every step: wake-ups (R270) and the
partners of DUAL pairs (R303), which change nothing where no strand waits and no pair is at work. -/
def Obligations.StepRunsLoneWord : Prop :=
  (∀ (s : State) (c t : Nat) (rest : List Turn) (w : Nat) (i : Instr), s.agenda = .issue c t :: rest →
    let a := ({ s with agenda := rest } : State).at_ c t
    MayRun a → FetchesAt a a.me.pc w → w / 2 ^ 31 = 1 → decodeWord w = .instr i → (privileged w = true → a.me.stat.sup = true) →
    a.followers c t = [] → step s = s.closeStep (exec i a.fetched))
    ∧ (∀ s u : State, s.pairs = [] → u.pairs = [] → u.twins = [] → u.twinImages = [] → u.empties = s.empties → u.waiters = [] →
      s.closeStep (.next u) = .next u)
    ∧ (∀ (s : State) (f : Fault) (r : Refusal), s.closeStep (.fault f) = .fault f ∧ s.closeStep (.refused r) = .refused r)
/-- A pair at an address that is a multiple of 8 issues as one bundle (R27, R28): both words read the registers as before the bundle, each
writes its own, YCNT counts once and the pc moves on; equal destinations take 0x03; a fault of either word leaves no effect of the other. Outside
exchange phases and RECORD, where latencies (R48) and the tape's taints come on top, the registers are those that the words write one by one. -/
def Obligations.StepRunsPair : Prop :=
  (∀ (s : State) (c t : Nat) (rest : List Turn) (w v : Nat) (i j : Instr), s.agenda = .issue c t :: rest →
      let a := ({ s with agenda := rest } : State).at_ c t
      MayRun a → FetchesAt a a.me.pc w → FetchesAt a (nextPc a.me.pc 4) v → a.me.pc.toNat % 8 = 0 → w < 2 ^ 30 → 2 ^ 30 ≤ v → v < 2 ^ 31 →
      decodeWord w = .instr i → decodeWord v = .instr j → (privileged w = true → a.me.stat.sup = true) →
      a.followers c t = [] → step s = s.closeStep (.next (issuePair i j a.fetched)))
    ∧ (∀ (s : State) (i j : Instr) (f : FaultInfo), PairReady i j s →
      let s1 := issuedPair s
      let checked := s.me.regChecks s.me.rbase.toNat i = none ∧ s.me.regChecks s.me.rbase.toNat j = none
      let halves := registerWord i = true ∧ registerWord j = true ∧ floatWord j = false ∧ i.op < 0x80 ∧ 0x80 ≤ j.op
      (checked → s.me.sameDest i j = false → halves → s.me.stat.slave = false → s.myCore.churnQ.length ≤ 2 →
          ∃ sc sa, rawOf i s1 = .done sc ∧ rawOf j s1 = .done sa ∧
            let u := issuePair i j s
            let n := u.strand s.curCore s.curStrand
            SameMemory s u ∧ n.pc = sc.me.npc ∧ n.ycnt = s.me.ycnt + 1
              ∧ (i = .nop → n.pc = nextPc s.me.pc 8) ∧ ∀ k, k < 32 →
                let r := if k ∈ j.xWrites then sa.me.xreg k else sc.me.xreg k
                (n.xreg k).val = r.val ∧ (n.xreg k).mark = r.mark
                  ∧ (s.myCore.exch.active = false → s.myPart.tape.mode ≠ 1 → n.xreg k = r))
        ∧ (checked → (∃ n, n ≠ 0 ∧ n ∈ i.xWrites ∧ n ∈ j.xWrites) → issuePair i j s = s.trapMe { code := 0x03 } false s.me.pc)
        ∧ (checked → s.me.sameDest i j = false → rawOf i s1 = .trap f →
          issuePair i j s = (s1.usePermits s1 i (some j)).trapMe f false s.me.pc)
        ∧ (checked → s.me.sameDest i j = false → registerWord i = true → i.op < 0x80 → (∃ d a e g, j = .ptag d a e g) → rawOf j s1 = .trap f →
          issuePair i j s = (s1.usePermits s1 i (some j)).trapMe f true s.me.pc))
/-- Fetched words that are no bundle take the faults of Table 3.9, in its order: 0x04, 0x03, 0x01, 0x05, 0x02. The opcodes that Table 3.2 marks — decode to no instruction. -/
def Obligations.DecodeFaults : Prop :=
  (∀ (s : State) (w v : Nat), s.me.stat.slave = false → FetchesAt s s.me.pc w →
      let r := s.fetchBundle s.curCore s.curStrand s.me.pc
      (w / 2 ^ 31 = 0 → s.me.pc.toNat % 8 ≠ 0 → r = .fault { code := 0x04 } false)
        ∧ (w / 2 ^ 31 = 1 → decodeWord w = .opcode → r = .fault { code := 0x01 } false)
        ∧ (w / 2 ^ 31 = 1 → decodeWord w ≠ .opcode → privileged w = true → s.me.stat.sup = false → r = .fault { code := 0x05 } false)
        ∧ (w / 2 ^ 31 = 1 → decodeWord w = .func → (privileged w = true → s.me.stat.sup = true) → r = .fault { code := 0x02 } false)
        ∧ (w / 2 ^ 31 = 0 → s.me.pc.toNat % 8 = 0 → FetchesAt s (nextPc s.me.pc 4) v →
            (w / 2 ^ 30 % 2 = 1 ∨ v / 2 ^ 31 = 1 ∨ v / 2 ^ 30 % 2 = 0) → r = .fault { code := 0x03 } false))
    ∧ (∀ w : Nat, decodeWord w = .opcode ↔
      w / 2 ^ 23 % 256 ∈ [0x1E, 0x1F, 0x2B, 0x2C, 0x2D, 0x2E, 0x2F, 0x4F, 0x5C, 0x5D, 0x5E, 0x5F, 0x68, 0x69, 0x6A, 0x6B, 0x6C,
        0x6D, 0x6E, 0x6F, 0x7A, 0x7B, 0x7C, 0x7D, 0x7E, 0x7F] ∨ 0xDE ≤ w / 2 ^ 23 % 256)
/-- What reset leaves: no context resident, no word of memory written, STAT.SUP of every strand 1, the ports up, nothing in
the fabric. That unwritten memory reads 0, and that the ports are up, are the model's choices (log 4, log 2). -/
def Obligations.ResetState : Prop :=
  (∀ c t, (State.reset.strand c t).status = .absent ∧ (State.reset.strand c t).stat.word t = BitVec.ofNat 64 (2 ^ 15 + t % 4 * 2 ^ 8)
      ∧ (State.reset.strand c t).regs.cause = 0 ∧ (State.reset.strand c t).regs.capgen = 0 ∧ (State.reset.core c).part.resident = false)
    ∧ (∀ a, State.reset.byteAt a = 0) ∧ (∀ a, State.reset.isFull a = true) ∧ State.reset.flits = [] ∧ State.reset.launches = []
    ∧ State.reset.control.cold = true ∧ State.reset.ports = 0xFFFF#16
/-- The memories of the reset state are in their canonical form. -/
def Obligations.ResetMemoryCanonical : Prop := State.reset.Inv
/-- Every step keeps the memories in their canonical form. -/
def Obligations.StepKeepsMemoryCanonical : Prop := ∀ s t : State, s.Inv → step s = .next t → t.Inv
/-- X0 reads as 0 in every state, and a write to it is discarded. -/
def Obligations.RegisterZero : Prop :=
  (∀ st : Strand, st.xr 0 = 0 ∧ (st.xreg 0).mark = false) ∧ (∀ (st : Strand) (v : Word) (m : Bool), st.xwm 0 v m = st)
    ∧ ∀ (st : Strand) (n m : Nat) (v : Word), 0 < n → n < 32 → m < 32 → (st.xw n v).xr m = if m = n then v else st.xr m

/-! ## Faults -/

/-- Taking a fault at user privilege (R251). Taking a fault writes no memory, and of other cores only the followers of the strand's convoy change:
they leave it, and go on where the strand stands (R256). -/
def Obligations.FaultEntry : Prop :=
  (∀ (s : State) (c t : Nat) (f : FaultInfo) (word def_ vec mtx : Bool) (epc : VAddr), (s.strand c t).stat.sup = false →
      f.code < 64 → f.acc < 8 → f.trapno < 2 ^ 16 →
      let u := s.takeFault c t f word def_ vec mtx epc
      let st := s.strand c t
      let n := u.strand c t
      n.regs.cause.toNat = f.code + 64 * b2n word + 128 * b2n def_ + 256 * b2n vec + 512 * b2n mtx + 1024 * f.acc + 2 ^ 32 * f.trapno
        ∧ n.regs.epc.toNat = epc.toNat / 4 * 4 ∧ n.regs.eva = BitVec.ofNat 54 f.eva ∧ n.stat.sup = true
        ∧ n.pc.toNat = st.regs.fvec.toNat / 4 * 4 ∧ n.stat.slave = false
        ∧ (u.core c).exch.active = false
        ∧ n.x = st.x ∧ n.v = st.v ∧ n.p = st.p ∧ n.m = st.m ∧ n.mx = st.mx ∧ n.stat.uev = st.stat.uev ∧ n.regs.uevpc = st.regs.uevpc
        ∧ n.regs.evpend = st.regs.evpend ∧ n.seq = st.seq ∧ (u.core c).churnQ = (s.core c).churnQ ∧ (u.core c).engQ = (s.core c).engQ)
    ∧ (∀ (s : State) (c t : Nat) (f : FaultInfo) (word def_ vec mtx : Bool) (epc : VAddr),
      let u := s.takeFault c t f word def_ vec mtx epc
      SameMemory s u ∧ u.time = s.time ∧ u.flits = s.flits ∧ u.domains = s.domains ∧ u.launches = s.launches
        ∧ ∀ d v, d ≠ c → (u.strand d v).x = (s.strand d v).x ∧ (u.strand d v).regs = (s.strand d v).regs
            ∧ ((u.strand d v).pc = (s.strand d v).pc ∨ ((s.strand d v).stat.slave = true ∧ (u.strand d v).pc = (s.strand c t).pc
                ∧ (u.strand d v).stat.slave = false ∧ quadOf d = quadOf c)))
/-- A fault at supervisor privilege enters no handler: the strand stops and the member's task ends with the cause, marked; the core reports
the code, EPC and EVA (R252). -/
def Obligations.FaultAtSupervisor : Prop :=
  ∀ (s : State) (c t : Nat) (f : FaultInfo) (word def_ vec mtx : Bool) (epc : VAddr), (s.strand c t).stat.sup = true →
    (Tab.has t (s.core c).part.strands = true) →
    let u := s.takeFault c t f word def_ vec mtx epc
    (u.strand c t).status = .ended ∧ (u.core c).part.supFault = true
      ∧ (u.core c).part.taskFault = some ((s.core c).part.taskFault.getD f.code) ∧ (u.strand c t).regs = (s.strand c t).regs
      ∧ u.control.halts = s.control.halts
          ++ [{ core := c, strand := t, code := f.code, epc := jumpAddr (epc.setWidth 64), eva := BitVec.ofNat 54 f.eva }]
/-- Before a word's own effect: a word whose registers are not available, or whose strand cannot issue, changes nothing (R47); a
privileged word at user privilege takes 0x05 with EPC at the word (R43); a bundle that issues and would count past YBOUND takes 0x38,
one that its unit does not accept yet waits (R51). -/
def Obligations.IssueChecks : Prop :=
  (∀ (i : Instr) (s : State), isEvent i = false → (s.canIssue && s.me.scoreboard i && s.myCore.permitted i) = false → exec i s = .next s)
    ∧ (∀ (i : Instr) (s : State), privileged (encode i) = true → isEvent i = false → s.me.stat.sup = false →
      (s.canIssue && s.me.scoreboard i && s.myCore.permitted i) = true →
      exec i s = .next (s.trapMe { code := 0x05 } false s.me.pc))
    ∧ (∀ (i : Instr) (s : State), isEvent i = false → isYield i = false → s.me.ybound.toNat < s.me.ycnt.toNat + 1 →
      (s.canIssue && s.me.scoreboard i && s.myCore.permitted i) = true → s.me.wordChecks i = none →
      (rawOf i (issued i s) ≠ .wait → exec i s = .next (trapped i s (issued i s) { code := 0x38 }))
        ∧ (rawOf i (issued i s) = .wait → exec i s = .next s))

/-! ## Scalar words -/

/-- Sums, products, quotients and remainders (Table 4.7, R69). -/
def Obligations.IntegerArithmetic : Prop :=
  ∀ (s : State) (d a b : Reg) (w : Bool) (i : BitVec 13),
    let x := s.me.xr a.val
    let y := s.me.xr b.val
    let sx := signedOf w x
    let sy := signedOf w y
    let n : Int := if w then 2 ^ 32 else 2 ^ 64
    (Ready (.add d a b w) s → CompletesX (.add d a b w) s d (narrow w (x.toInt + y.toInt)))
      ∧ (Ready (.addi d a i) s → CompletesX (.addi d a i) s d (narrow false (x.toInt + i.toInt)))
      ∧ (Ready (.sub d a b w) s → CompletesX (.sub d a b w) s d (narrow w (x.toInt - y.toInt)))
      ∧ (Ready (.mul d a b w) s → CompletesX (.mul d a b w) s d (narrow w (x.toInt * y.toInt)))
      ∧ (Ready (.mulh d a b w) s → CompletesX (.mulh d a b w) s d (narrow w (sx * sy / n)))
      ∧ (Ready (.mulhn d a b w) s → CompletesX (.mulhn d a b w) s d (narrow w (unsignedOf w x * unsignedOf w y / n)))
      ∧ (Ready (.div d a b w) s → CompletesX (.div d a b w) s d (narrow w (if sy = 0 then -1 else sx.tdiv sy)))
      ∧ (Ready (.divn d a b w) s →
          CompletesX (.divn d a b w) s d (narrow w (if sy = 0 then -1 else unsignedOf w x / unsignedOf w y)))
      ∧ (Ready (.rem d a b w) s → CompletesX (.rem d a b w) s d (narrow w (if sy = 0 then x.toInt else sx.tmod sy)))
      ∧ (Ready (.remn d a b w) s →
          CompletesX (.remn d a b w) s d (narrow w (if sy = 0 then x.toInt else unsignedOf w x % unsignedOf w y)))
/-- Bitwise operations and shifts (Table 4.7). -/
def Obligations.IntegerLogic : Prop :=
  ∀ (s : State) (d a b : Reg) (w : Bool) (i : BitVec 13) (k : BitVec 6),
    let x := s.me.xr a.val
    let y := s.me.xr b.val
    let n := y.toNat % (if w then 32 else 64)
    (Ready (.and d a b) s → CompletesX (.and d a b) s d (x &&& y))
      ∧ (Ready (.andi d a i) s → CompletesX (.andi d a i) s d (x &&& BitVec.ofInt 64 i.toInt))
      ∧ (Ready (.or d a b) s → CompletesX (.or d a b) s d (x ||| y))
      ∧ (Ready (.ori d a i) s → CompletesX (.ori d a i) s d (x ||| BitVec.ofInt 64 i.toInt))
      ∧ (Ready (.xor d a b) s → CompletesX (.xor d a b) s d (x ^^^ y))
      ∧ (Ready (.xori d a i) s → CompletesX (.xori d a i) s d (x ^^^ BitVec.ofInt 64 i.toInt))
      ∧ (Ready (.shl d a b w) s → CompletesX (.shl d a b w) s d (narrow w (x.toInt * 2 ^ n)))
      ∧ (Ready (.shli d a k) s → CompletesX (.shli d a k) s d (narrow false (x.toInt * 2 ^ k.toNat)))
      ∧ (Ready (.shr d a b w) s → CompletesX (.shr d a b w) s d (narrow w (unsignedOf w x / 2 ^ n)))
      ∧ (Ready (.shri d a k) s → CompletesX (.shri d a k) s d (narrow false (x.toNat / 2 ^ k.toNat)))
      ∧ (Ready (.sra d a b w) s → CompletesX (.sra d a b w) s d (narrow w (signedOf w x / 2 ^ n)))
      ∧ (Ready (.srai d a k) s → CompletesX (.srai d a k) s d (narrow false (x.toInt / 2 ^ k.toNat)))
/-- Comparisons, selections and constants (Table 4.7). -/
def Obligations.IntegerCompare : Prop :=
  ∀ (s : State) (d a b : Reg) (i : BitVec 13) (m : BitVec 18),
    let x := s.me.xr a.val
    let y := s.me.xr b.val
    (Ready (.slt d a b) s → CompletesX (.slt d a b) s d (if x.toInt < y.toInt then 1 else 0))
      ∧ (Ready (.sltn d a b) s → CompletesX (.sltn d a b) s d (if x.toNat < y.toNat then 1 else 0))
      ∧ (Ready (.slti d a i) s → CompletesX (.slti d a i) s d (if x.toInt < i.toInt then 1 else 0))
      ∧ (Ready (.min d a b) s → CompletesX (.min d a b) s d (BitVec.ofInt 64 (min x.toInt y.toInt)))
      ∧ (Ready (.max d a b) s → CompletesX (.max d a b) s d (BitVec.ofInt 64 (max x.toInt y.toInt)))
      ∧ (Ready (.movi d m) s → CompletesX (.movi d m) s d (BitVec.ofInt 64 m.toInt))
      ∧ (Ready (.movhi d m) s → CompletesX (.movhi d m) s d (BitVec.ofNat 64 ((s.me.xr d.val).toNat * 2 ^ 18 + m.toNat)))
      ∧ (Ready (.clz d a) s → ∃ n ≤ 64, CompletesX (.clz d a) s d (BitVec.ofNat 64 n) ∧ x.toNat < 2 ^ (64 - n)
          ∧ (n < 64 → 2 ^ (63 - n) ≤ x.toNat))
      ∧ (Ready (.popc d a) s → CompletesX (.popc d a) s d (BitVec.ofNat 64 ((List.range 64).filter fun k => x.getLsbD k).length))
/-- Pointer tags (R71, R72): PADD wraps within 54 bits and keeps the tag and the mark; SEL takes value and mark of its source. -/
def Obligations.PointerTags : Prop :=
  ∀ (s : State) (d a b : Reg) (i : BitVec 13) (f : BitVec 6) (e : BitVec 4),
    let x := s.me.xr a.val
    let y := s.me.xr b.val
    let put (j : Instr) (v : Word) (mark : Bool) : Prop := CompletesMe j s ((issuedMe j s).xwm d.val v mark)
    (Ready (.padd d a b) s → put (.padd d a b) (x.extractLsb' 54 10 ++ (x.setWidth 54 + y.setWidth 54)) (s.me.xreg a.val).mark)
      ∧ (Ready (.paddi d a i) s →
          put (.paddi d a i) (x.extractLsb' 54 10 ++ (x.setWidth 54 + BitVec.ofInt 54 i.toInt)) (s.me.xreg a.val).mark)
      ∧ (Ready (.ptag d a f e) s →
          if f.toNat ≤ 0x0C ∨ (0x10 ≤ f.toNat ∧ f.toNat ≤ 0x15) ∨ f.toNat = 0x18 ∨ f.toNat = 0x19 ∨ (0x20 ≤ f.toNat ∧ f.toNat ≤ 0x22)
          then put (.ptag d a f e) (f ++ e ++ x.setWidth 54) true
          else Traps (.ptag d a f e) s { code := 0x13 })
      ∧ (Ready (.pstrip d a) s → CompletesX (.pstrip d a) s d ((x.setWidth 54).setWidth 64))
      ∧ (Ready (.sel d a b) s →
          if s.me.xr d.val ≠ 0 then put (.sel d a b) x (s.me.xreg a.val).mark else put (.sel d a b) y (s.me.xreg b.val).mark)
/-- Scalar float words (R74 to R77): one rounding of the exact result, flags in STAT, the result zero-extended; FCMP's conditions;
FCVT of floats and integers, out of range to the nearest end with FNV. The exact results (R75): NaN inputs give NaN without FNV;
∞ − ∞ and 0 × ∞ give NaN with FNV; a sum of two zeros is −0 only of two −0; a NaN is written as the format's canonical quiet NaN.
Rounding to a grid (R45) under RNE takes the nearest multiple, the even one of two, and is inexact where it changes the value. -/
def Obligations.ScalarFloat : Prop :=
  (∀ (s : State) (d a b : Reg) (t : FTy) (sr : Bool) (dt st : ETy) (c : FCond),
      let m : RMode := if sr then .sr else .rne
      let bits (n : Reg) : Nat := (s.me.xr n.val).toNat % 2 ^ t.width
      let v (n : Reg) : FVal := t.fmt.val (bits n)
      let put (j : Instr) (r : FRes) : Prop :=
        CompletesMe j s ({ (issuedMe j s).setF r.flags with seed := r.seed }.xw d.val (BitVec.ofNat 64 r.bits))
      (Ready (.fadd d a b t sr) s → put (.fadd d a b t sr) (finish t.fmt m s.me.seed ((v a).add (v b))))
        ∧ (Ready (.fmul d a b t sr) s → put (.fmul d a b t sr) (finish t.fmt m s.me.seed ((v a).mul (v b))))
        ∧ (Ready (.fma d a b t sr) s → put (.fma d a b t sr) (finish t.fmt m s.me.seed (fmaVal (v a) (v b) (v d))))
        ∧ (Ready (.fcmp d a b t c) s →
            let nan := (v a).isNan = true ∨ (v b).isNan = true
            (c = .un → CompletesX (.fcmp d a b t c) s d (if nan then 1 else 0))
              ∧ (c ≠ .un → nan → CompletesX (.fcmp d a b t c) s d 0)
              ∧ (c = .lt → ¬nan → CompletesX (.fcmp d a b t c) s d (if (v a).lt (v b) = true then 1 else 0))
              ∧ (c = .eq → ¬nan → CompletesX (.fcmp d a b t c) s d (if (v a).eq (v b) = true then 1 else 0))
              ∧ (c = .le → ¬nan → CompletesX (.fcmp d a b t c) s d (if (v a).lt (v b) = true ∨ (v a).eq (v b) = true then 1 else 0)))
        ∧ (Ready (.fcvt d a dt st sr) s →
            let r := convert dt st m s.me.seed ((s.me.xr a.val).toNat % 2 ^ st.bits)
            CompletesMe (.fcvt d a dt st sr) s ({ (issuedMe (.fcvt d a dt st sr) s).setF r.flags with seed := r.seed }.xw d.val
              (match dt with | .int i => BitVec.ofInt 64 (i.read r.bits) | .flt _ => BitVec.ofNat 64 r.bits))))
    ∧ (∀ (m : RMode) (seed : Word) (v : Nat) (i j : ITy) (f g : FTy),
      (let r := convert (.int i) (.int j) m seed v
       let x := j.read v
       r.seed = seed ∧ (i.lo ≤ x → x ≤ i.hi → i.read r.bits = x ∧ r.flags = {}) ∧ (x < i.lo → i.read r.bits = i.lo ∧ r.flags = { nv := true })
        ∧ (i.hi < x → i.read r.bits = i.hi ∧ r.flags = { nv := true }))
        ∧ convert (.flt f) (.int j) m seed v = finish f.fmt m seed (FVal.ofInt (j.read v), false)
        ∧ (f ≠ g → convert (.flt f) (.flt g) m seed v = finish f.fmt m seed (g.fmt.val v, false))
        ∧ (v < 2 ^ f.width → convert (.flt f) (.flt f) m seed v = { bits := if (f.fmt.val v).isNan then f.fmt.nan else v, seed := seed })
        ∧ (let r := convert (.int i) (.flt g) m seed v
           let x := g.fmt.val v
           (x = .nan → i.read r.bits = 0 ∧ r.flags = { nv := true })
            ∧ (∀ neg, x = .inf neg → i.read r.bits = (if neg then i.lo else i.hi) ∧ r.flags = { nv := true })
            ∧ ∀ neg mag e, x = .num neg mag e →
              let band := i.bits ≤ 8 ∧ mag ≠ 0 ∧ e + Nat.log2 mag < 0
              let q := roundAt neg mag e 0 (if band then .sr else m) seed
              let k : Int := if neg then -(q.k : Int) else q.k
              r.seed = q.seed ∧ (i.lo ≤ k → k ≤ i.hi → i.read r.bits = k ∧ r.flags = { nx := q.inexact })
                ∧ (k < i.lo → i.read r.bits = i.lo ∧ r.flags = { nv := true }) ∧ (i.hi < k → i.read r.bits = i.hi ∧ r.flags = { nv := true })))
    ∧ (∀ (neg : Bool) (mag : Nat) (e q : Int) (seed : Word),
      let r := roundAt neg mag e q .rne seed
      let n := 2 ^ (q - e).toNat
      r.seed = seed ∧ (q ≤ e → r.k = mag * 2 ^ (e - q).toNat ∧ r.inexact = false)
        ∧ (e < q → 2 * mag ≤ (2 * r.k + 1) * n ∧ 2 * r.k * n ≤ 2 * mag + n ∧ (2 * mag = (2 * r.k + 1) * n ∨ 2 * r.k * n = 2 * mag + n → r.k % 2 = 0)
          ∧ (r.inexact = false ↔ r.k * n = mag)))
    ∧ ((∀ x y : FVal, x = .nan ∨ y = .nan → x.add y = (.nan, false) ∧ x.mul y = (.nan, false) ∧ ∀ z, fmaVal x y z = (.nan, false))
      ∧ (∀ b : Bool, (FVal.inf b).add (.inf (!b)) = (.nan, true)) ∧ (∀ b c e, (FVal.inf b).mul (.num c 0 e) = (.nan, true))
      ∧ (∀ b c e, (FVal.num c 0 e).mul (.inf b) = (.nan, true))
      ∧ (∀ a b e g, ∃ q, (FVal.num a 0 e).add (.num b 0 g) = (.num (a && b) 0 q, false))
      ∧ (∀ a b e g, (FVal.num a 0 e).eq (.num b 0 g) = true)
      ∧ ∀ (t : FTy) (m : RMode) (seed : Word) (nv : Bool),
          finish t.fmt m seed (.nan, nv) = { bits := match t with | .f32 => 0x7FC00000 | .f16 => 0x7E00 | .b16 => 0x7FC0,
                                             flags := { nv := nv }, seed := seed })

/-! ## Flow and system words -/

/-- Transfers of control (Table 4.2). Conditional branches (Table 4.2). -/
def Obligations.FlowWords : Prop :=
  (∀ (s : State) (a : Reg) (o : BitVec 23),
      let pc := s.me.pc
      let link (i : Instr) : Strand := (issuedMe i s).xw 30 ((nextPc pc 4).setWidth 64)
      (Ready .nop s → Completes .nop s (issued .nop s))
        ∧ (Ready (.bra o) s → CompletesMe (.bra o) s (jumped s (issuedMe (.bra o) s) (pc + BitVec.ofInt 54 (4 * o.toInt))))
        ∧ (Ready (.call o) s → CompletesMe (.call o) s (jumped s (link (.call o)) (pc + BitVec.ofInt 54 (4 * o.toInt))))
        ∧ (Ready .ret s → CompletesMe .ret s (jumped s (issuedMe .ret s) (jumpAddr (s.me.xr 30))))
        ∧ (Ready (.jmpr a) s → CompletesMe (.jmpr a) s (jumped s (issuedMe (.jmpr a) s) (jumpAddr (s.me.xr a.val))))
        ∧ (Ready (.callr a) s → CompletesMe (.callr a) s (jumped s (link (.callr a)) (jumpAddr (s.me.xr a.val)))))
    ∧ (∀ (s : State) (d a : Reg) (o : BitVec 13) (n : BitVec 5) (p : BitVec 18),
      let x := s.me.xr d.val
      let y := s.me.xr a.val
      (Ready (.beq d a o) s → Branches (.beq d a o) s (x = y) o.toInt) ∧ (Ready (.bne d a o) s → Branches (.bne d a o) s (x ≠ y) o.toInt)
        ∧ (Ready (.blt d a o) s → Branches (.blt d a o) s (x.toInt < y.toInt) o.toInt)
        ∧ (Ready (.bge d a o) s → Branches (.bge d a o) s (y.toInt ≤ x.toInt) o.toInt)
        ∧ (Ready (.bltn d a o) s → Branches (.bltn d a o) s (x.toNat < y.toNat) o.toInt)
        ∧ (Ready (.bgen d a o) s → Branches (.bgen d a o) s (y.toNat ≤ x.toNat) o.toInt)
        ∧ (Ready (.beqi d n o) s → Branches (.beqi d n o) s (x.toInt = n.toInt) o.toInt)
        ∧ (Ready (.bnei d n o) s → Branches (.bnei d n o) s (x.toInt ≠ n.toInt) o.toInt)
        ∧ (Ready (.bz d p) s → Branches (.bz d p) s (x = 0) p.toInt) ∧ (Ready (.bnz d p) s → Branches (.bnz d p) s (x ≠ 0) p.toInt))
/-- YIELD (R50, R53): it issues once the sequencer is empty and the strand's matrix work has retired; YCNT ← 0, YBOUND by the
deadline or YDEFAULT, STAT.KV as given, an armed promotion ends; under KV the V registers and the lanes are kept. -/
def Obligations.Yield : Prop :=
  ∀ (s : State) (dl : BitVec 10) (kv : Bool), Ready (.yield dl kv) s → s.me.seq = [] → s.myCore.churnOf s.curStrand = false →
    s.me.stat.slave = false →
    ∃ t, exec (.yield dl kv) s = .next t ∧
      let n := t.strand s.curCore s.curStrand
      n.ycnt = 0 ∧ n.ybound = (if dl = 0 then s.me.ydefault else BitVec.ofNat 32 (256 * dl.toNat)) ∧ n.stat.kv = kv ∧ n.promote = none
        ∧ n.pc = nextPc s.me.pc 4 ∧ n.regs = s.me.regs ∧ n.p = s.me.p ∧ (kv = true → n.v = s.me.v ∧ n.lanes = s.me.lanes)
/-- GETS, SETS and SWAPS (R54): the value that the selector reads; the write, or 0x02 where no chapter assigns the selector or the write is refused,
nothing read or written. That this 0x02 is met in execution, where the bundle has counted, is log 13 (DEDUCED). -/
def Obligations.StateRegisterWords : Prop :=
  ∀ (s : State) (d a : Reg) (sel : BitVec 12) (v : Word) (s1 : State),
    let c := s.curCore
    let t := s.curStrand
    let x := s.me.xr a.val
    (Ready (.gets d sel) s → (sel = 0x087 → s.me.seq = []) →
        ((issued (.gets d sel) s).readSel c t sel.toNat = some v → CompletesX (.gets d sel) s d v)
          ∧ ((issued (.gets d sel) s).readSel c t sel.toNat = none → Traps (.gets d sel) s { code := 0x02 }))
      ∧ (Ready (.sets sel a) s →
        ((issued (.sets sel a) s).writeSel c t sel.toNat x = .ok s1 → Completes (.sets sel a) s s1)
          ∧ ((issued (.sets sel a) s).writeSel c t sel.toNat x = .bad → Traps (.sets sel a) s { code := 0x02 }))
      ∧ (Ready (.swaps d sel a) s → (sel = 0x087 → s.me.seq = []) →
        (issued (.swaps d sel a) s).readSel c t sel.toNat = some v → (issued (.swaps d sel a) s).writeSel c t sel.toNat x = .ok s1 →
        Completes (.swaps d sel a) s (s1.setMe (s1.me.xw d.val v)))
      ∧ (Ready (.swaps d sel a) s → (sel = 0x087 → s.me.seq = []) →
        ((issued (.swaps d sel a) s).readSel c t sel.toNat = none ∨ (issued (.swaps d sel a) s).writeSel c t sel.toNat x = .bad) →
        Traps (.swaps d sel a) s { code := 0x02 })
/-- What the selectors of a strand read, and which are none; what writes of selectors do (R54, Tables 4.3, 14.3): the register,
where no reserved bit is written with a 1; else refusal. That a YDEFAULT outside 256 to 2^31 is refused is log 34 (DEDUCED): R54's refusals do not
name it. -/
def Obligations.Selectors : Prop :=
  (∀ (s : State) (c t : Nat),
      let st := s.strand c t
      let r (sel : Nat) : Option Word := s.readSel c t sel
      r 0x001 = some st.regs.cause ∧ r 0x002 = some (st.regs.epc.setWidth 64) ∧ r 0x003 = some (st.regs.eva.setWidth 64)
        ∧ r 0x004 = some (st.ycnt.setWidth 64) ∧ r 0x005 = some (st.ybound.setWidth 64) ∧ r 0x006 = some (st.rbase.setWidth 64)
        ∧ r 0x007 = some (BitVec.ofNat 64 st.lanes.length) ∧ r 0x008 = some st.seed ∧ r 0x00B = some (st.regs.evpend.setWidth 64)
        ∧ r 0x010 = some (st.regs.rank.setWidth 64) ∧ r 0x014 = some (st.regs.share.setWidth 64)
        ∧ r 0x040 = some (s.core c).part.acctCyc ∧ r 0x041 = some (s.core c).part.acctNj ∧ r 0x08F = some st.regs.rsfail
        ∧ r 0x093 = some st.regs.engerr ∧ r 0x097 = some (st.regs.fvec.setWidth 64) ∧ r 0x09D = some (st.regs.tmiss.setWidth 64)
        ∧ r 0x00F = none ∧ r 0x01A = none ∧ r 0x09F = none ∧ r 0xFFF = none)
    ∧ (∀ (s : State) (c t : Nat) (v : Word),
      let st := s.strand c t
      let put (r : StrandRegs) : SelWrite := .ok (s.setStrand c t { st with regs := r })
      let addr := v.toNat < 2 ^ 54 ∧ v.toNat % 4 = 0
      (if addr then s.writeSel c t 0x002 v = put { st.regs with epc := v.setWidth 54 } else s.writeSel c t 0x002 v = .bad)
        ∧ (if addr then s.writeSel c t 0x009 v = put { st.regs with uevec := v.setWidth 54 } else s.writeSel c t 0x009 v = .bad)
        ∧ (if addr then s.writeSel c t 0x097 v = put { st.regs with fvec := v.setWidth 54 } else s.writeSel c t 0x097 v = .bad)
        ∧ (if v.toNat < 2 ^ 54 then s.writeSel c t 0x003 v = put { st.regs with eva := v.setWidth 54 } else s.writeSel c t 0x003 v = .bad)
        ∧ (if v.toNat < 2 ^ 16 then s.writeSel c t 0x09C v = put { st.regs with asid := v.setWidth 16 } else s.writeSel c t 0x09C v = .bad)
        ∧ s.writeSel c t 0x008 v = .ok (s.setStrand c t { st with seed := v })
        ∧ (if 256 ≤ v.toNat ∧ v.toNat ≤ 2 ^ 31 then s.writeSel c t 0x082 v = .ok (s.setStrand c t { st with ydefault := v.setWidth 32 })
            else s.writeSel c t 0x082 v = .bad)
        ∧ (∀ sel ∈ [0x004, 0x005, 0x007, 0x00A, 0x010, 0x013, 0x020, 0x053, 0x08F, 0x0A0], s.writeSel c t sel v = .bad))
/-- TRAP, ERET and UEVRET (R57, R58, R60): TRAP faults with its number; ERET returns to EPC at user privilege, and raises 0x05 there; with held
entries of the sequencer or the Churn (R116, R158, R255) it puts them in front of what stands there, but for the faulting one under SKIP, clears PEND
and SKIP, and goes on at the held address, at the later one of two, which the model takes to be the higher (log 35);
UEVRET returns to UEVPC, which a program may write, with the main X24 to X27, or faults 0x02 outside a handler. -/
def Obligations.TrapAndReturn : Prop :=
  ∀ (s : State) (n : BitVec 16),
    (Ready (.trap n) s → Traps (.trap n) s { code := 0x08, trapno := n.toNat })
      ∧ (Ready .eret s → s.me.stat.slave = false → s.me.vresume.pend = false → s.me.mresume.pend = false → s.me.churnHeld = [] → ∃ u, exec .eret s = .next u ∧
          let m := u.strand s.curCore s.curStrand
          m.pc = jumpAddr (s.me.regs.epc.setWidth 64) ∧ m.stat.sup = false ∧ m.x.map (fun e => (e.1, e.2.val)) = s.me.x.map (fun e => (e.1, e.2.val))
            ∧ m.regs = s.me.regs ∧ m.seq = s.me.seq ∧ m.mx = s.me.mx)
      ∧ (Ready .eret s → s.me.stat.slave = false → s.me.vresume.pend = true ∨ s.me.mresume.pend = true → ∃ u, exec .eret s = .next u ∧
          let m := u.strand s.curCore s.curStrand
          let v := s.me.vresume
          let r := s.me.mresume
          let held := if r.skip then s.me.churnHeld.drop 1 else s.me.churnHeld
          let room := 2 - s.myCore.churnQ.length
          m.stat.sup = false ∧ m.regs = s.me.regs ∧ m.vresume.pend = false ∧ m.mresume.pend = false
            ∧ (r.pend = false → m.pc = v.pc) ∧ (v.pend = false → m.pc = r.pc)
            ∧ (v.pend = true → r.pend = true → m.pc = if v.pc.toNat < r.pc.toNat then r.pc else v.pc)
            ∧ (v.pend = false → m.seq = s.me.seq)
            ∧ (v.pend = true → m.vresume.skip = false ∧ m.seqHeld = [] ∧ (v.skip = false → m.seq = s.me.seqHeld ++ s.me.seq)
              ∧ (v.skip = true → s.me.loop = none → m.seq = s.me.seqHeld.tail ++ s.me.seq))
            ∧ (r.pend = true → m.mresume.skip = false)
            ∧ (r.pend = true → s.me.churnFault = none → m.churnHeld = held.drop room
              ∧ (u.core s.curCore).churnQ = s.myCore.churnQ ++ held.take room))
      ∧ (s.me.stat.sup = false → (s.canIssue && s.me.scoreboard .eret && s.myCore.permitted .eret) = true →
          exec .eret s = .next (s.trapMe { code := 0x05 } false s.me.pc))
      ∧ (Ready .uevret s → s.me.stat.uev = true →
          let back : Strand := { issuedMe .uevret s with
            npc := jumpAddr (s.me.regs.uevpc.setWidth 64), stat := { s.me.stat with uev := false } }
          CompletesMe .uevret s back ∧ ∀ k, 24 ≤ k → k ≤ 27 → back.xreg k = Tab.get {} k s.me.x)
      ∧ (∀ (c t : Nat) (v : Word), v.toNat < 2 ^ 54 → v.toNat % 4 = 0 →
          s.writeSel c t 0x081 v =
            .ok (s.setStrand c t { s.strand c t with regs := { (s.strand c t).regs with uevpc := v.setWidth 54 } }))
      ∧ (Ready .uevret s → s.me.stat.uev = false → Traps .uevret s { code := 0x02 })
/-- EVWAIT and EVMASK (R61, R62): EVWAIT takes the lowest event that is pending and not enabled, or sleeps; EVMASK swaps EVENA. -/
def Obligations.EventWords : Prop :=
  ∀ (s : State) (d a : Reg) (k : Nat),
    let free := s.me.regs.evpend &&& ~~~s.me.regs.evena
    (Ready (.evwait d) s → 1 ≤ k → k ≤ 5 → free.getLsbD k = true → (∀ j, 1 ≤ j → j < k → free.getLsbD j = false) →
        CompletesMe (.evwait d) s (({ issuedMe (.evwait d) s with regs := { s.me.regs with
          evpend := s.me.regs.evpend &&& ~~~(BitVec.ofNat 6 (2 ^ k)) } } : Strand).xw d.val (BitVec.ofNat 64 k)))
      ∧ (Ready (.evwait d) s → (∀ j, 1 ≤ j → j ≤ 5 → free.getLsbD j = false) →
        exec (.evwait d) s = .next ((issued (.evwait d) s).fallAsleep .event [] (.evwait d) none))
      ∧ (Ready (.evmask d a) s → (s.me.xr a.val) &&& ~~~0x3E#64 = 0 →
        CompletesMe (.evmask d a) s (({ issuedMe (.evmask d a) s with regs := { s.me.regs with evena := (s.me.xr a.val).setWidth 6 } } : Strand).xw
          d.val (s.me.regs.evena.setWidth 64)))
      ∧ (Ready (.evmask d a) s → (s.me.xr a.val) &&& ~~~0x3E#64 ≠ 0 → Traps (.evmask d a) s { code := 0x02 })
/-- SPILL and FILL (R63): a record of c registers with their marks is pushed, and popped into registers of the class; the stack and
the core's spill area have limits (0x18), and FILL refuses a record that does not match (0x19). -/
def Obligations.SpillAndFill : Prop :=
  ∀ (s : State) (d k : Reg) (r : SpillRec) (rest : List SpillRec), d.val + k.val ≤ 31 →
    let n := k.val + 1
    (Ready (.spill .x d k) s → s.me.spill.length ≠ 255 → s.myPart.parked + 8 * n ≤ 2048 → ∃ t tier, exec (.spill .x d k) s = .next t ∧
        (t.strand s.curCore s.curStrand).spill =
          { cls := .x, count := n, lanes := s.me.nlanes, xs := (span d.val n).map s.me.xreg, tier := tier } :: s.me.spill)
      ∧ (Ready (.spill .x d k) s → (s.me.spill.length = 255 ∨ 2048 < s.myPart.parked + 8 * n) → Traps (.spill .x d k) s { code := 0x18 })
      ∧ (Ready (.spill .v d k) s → s.me.nlanes = 0 → Traps (.spill .v d k) s { code := 0x02 })
      ∧ (Ready (.spill .v d k) s → 0 < s.me.nlanes → (s.me.spill.length = 255 ∨ 2048 < s.myPart.parked + 4 * s.me.nlanes * n) →
          Traps (.spill .v d k) s { code := 0x18 })
      ∧ (Ready (.spill .v d k) s → 0 < s.me.nlanes → s.me.spill.length ≠ 255 → s.myPart.parked + 4 * s.me.nlanes * n ≤ 2048 →
          s.me.seq.length < 16 → ∃ t r e, exec (.spill .v d k) s = .next t ∧
            (t.strand s.curCore s.curStrand).spill = r :: s.me.spill ∧ r.cls = .v ∧ r.count = n ∧ r.lanes = s.me.nlanes
              ∧ (t.strand s.curCore s.curStrand).seq = s.me.seq ++ [e] ∧ e.instr = .spill .v d k)
      ∧ (Ready (.fill .x d k) s → s.me.spill = r :: rest → r.cls = .x → r.count = n →
          CompletesMe (.fill .x d k) s (fillX d.val r.xs { issuedMe (.fill .x d k) s with spill := rest }))
      ∧ (Ready (.fill .x d k) s → s.me.spill = r :: rest → (r.cls = .v ∨ r.count ≠ n) → Traps (.fill .x d k) s { code := 0x19 })
      ∧ (∀ cls, Ready (.fill cls d k) s → s.me.spill = [] → Traps (.fill cls d k) s { code := 0x19 })
      ∧ (Ready (.fill .v d k) s → s.me.spill = r :: rest → (r.cls = .x ∨ r.count ≠ n ∨ r.lanes ≠ s.me.nlanes) → Traps (.fill .v d k) s { code := 0x19 })
      ∧ (Ready (.fill .v d k) s → s.me.spill = r :: rest → r.cls = .v → r.count = n → r.lanes = s.me.nlanes →
          s.me.seq.length < 16 → ∃ t e, exec (.fill .v d k) s = .next t ∧ (t.strand s.curCore s.curStrand).spill = rest
            ∧ (t.strand s.curCore s.curStrand).seq = s.me.seq ++ [e] ∧ e.instr = .fill .v d k ∧ e.vals = r.vs)
/-- MKRCAP, RVOKE and IFLUSH (R65 to R67): MKRCAP of a V register waits while an earlier entry still uses it (log 69, DEDUCED); one that names X0 or
its own Xd takes 0x02, met in execution (log 13, DEDUCED). After an IFLUSH the core's fetches from the range see every store that the strand has performed or
acquired; and a capability's fields (Table 4.6): those it was made with; its CHECK holds. CHECK is
a free function of the other fields (log 15). -/
def Obligations.CapabilityWords : Prop :=
  (∀ (s : State) (d a b : Reg) (wm : Bool),
      (Ready (.mkrcap d a .x wm) s → a.val ≠ 0 → a ≠ d → CompletesMe (.mkrcap d a .x wm) s
          (((issuedMe (.mkrcap d a .x wm) s).xput a.val { s.me.xreg a.val with full := false }).xw d.val
            (capability s.curCore s.curStrand .x a.val wm s.me.regs.capgen)))
        ∧ (Ready (.mkrcap d a .x wm) s → (a.val = 0 ∨ a = d) → Traps (.mkrcap d a .x wm) s { code := 0x02 })
        ∧ (Ready (.mkrcap d a .v wm) s → (issued (.mkrcap d a .v wm) s).vregBusy s.curCore s.curStrand (phys s.me.rbase.toNat a.val) = false → CompletesMe (.mkrcap d a .v wm) s
          (((issuedMe (.mkrcap d a .v wm) s).vput (phys s.me.rbase.toNat a.val) { s.me.vreg (phys s.me.rbase.toNat a.val) with full := false }).xw
            d.val (capability s.curCore s.curStrand .v (phys s.me.rbase.toNat a.val) wm s.me.regs.capgen)))
        ∧ (Ready (.mkrcap d a .v wm) s → (issued (.mkrcap d a .v wm) s).vregBusy s.curCore s.curStrand (phys s.me.rbase.toNat a.val) = true →
          exec (.mkrcap d a .v wm) s = .next s)
        ∧ (Ready .rvoke s → CompletesMe .rvoke s { (issuedMe .rvoke s).fillAll with regs := { s.me.regs with capgen := s.me.regs.capgen + 1 } })
        ∧ (Ready (.iflush a b) s → Completes (.iflush a b) s ((issued (.iflush a b) s).iflush (vaof (s.me.xr a.val)) (s.me.xr b.val).toNat)
          ∧ ∀ t va pa, exec (.iflush a b) s = .next t → va < 2 ^ 54 → (∀ e ∈ s.codeLog, e.word = pa / 4 →
              e.id < Tab.get 0 e.agent (s.me.known.join [(agentOf s.curCore s.curStrand, s.nextId)])) → (65536 ≤ (s.me.xr b.val).toNat ∨ (va + 2 ^ 54 - vaof (s.me.xr a.val)) % 2 ^ 54 < (s.me.xr b.val).toNat) →
            t.codeWord s.curCore va pa = s.readN pa 4))
    ∧ (∀ (c t r : Nat) (cls : RClass) (wm : Bool) (gen : BitVec 16), c < 8192 → t < 4 → r < 32 →
      let v := capability c t cls r wm gen
      capCore v = c ∧ capStrand v = t ∧ v.toNat / 2 ^ 41 % 32 = r ∧ v.toNat / 2 ^ 40 % 2 = b2n wm ∧ BitVec.ofNat 16 (v.toNat / 2 ^ 24) = gen
        ∧ capOk v cls = true)

/-! ## Scalar memory and atomics -/

/-- Bytes of modes L and N (R90): offset `ea` of the own TCM, in its user part at user privilege; an aligned access in range
reaches its bytes, a misaligned one takes 0x10, one out of range 0x15. -/
def Obligations.LocalAccess : Prop :=
  ∀ (s : State) (acc : AccKind) (ea n : Nat), 0 < n → s.rects = [] → s.badWords = [] →
    let top := if s.me.stat.sup then 0x18000 else 0x16000
    (ea + n ≤ top → ea % n = 0 → s.accessBytes acc .L ea n n false = .ok (span (s.curCore * 0x20000 + ea) n))
      ∧ (ea + n ≤ top → ea % n ≠ 0 → s.accessBytes acc .L ea n n false = .fault { code := 0x10, acc := acc.acc, eva := ea })
      ∧ (top < ea + n → s.accessBytes acc .L ea n n false = .fault { code := 0x15, acc := acc.acc, eva := ea })
/-- Loads (R96, R102): after the checks a load is outstanding and its destination waits; LDA is an acquire at MSCOPE.LDASC;
LDS and LDE complete at once when every covering word is full, and LDE empties the words; else they sleep. -/
def Obligations.Loads : Prop :=
  ∀ (s : State) (d b : Reg) (m : Mode) (off : BitVec 11) (bytes : List Nat),
    let p := s.me.xptr b.val
    let f := fmtof p
    let n := accsize f
    let ea := gEa p off n
    let at_ (i : Instr) : State := issued i s
    let acc (i : Instr) (acq : Option Scope) : Access :=
      { id := 0, op := .load, bytes := bytes, fmt := f, size := n, dst := (issuedMe i s).xplace d.val, acq := acq,
        taint := (issuedMe i s).ldTaint b m ea n, ea := ea }
    let room (i : Instr) : Prop := s.me.accRoom .load = true ∧ (at_ i).vecMeets bytes = false
    f ≤ 0x0C →
    (Ready (.ld d b m off) s → (at_ (.ld d b m off)).accessBytes .load m ea n n false = .ok bytes → room (.ld d b m off) →
        Accesses (.ld d b m off) s (issuedMe (.ld d b m off) s) (acc (.ld d b m off) none) [d.val])
      ∧ (Ready (.lda d b m off) s → (at_ (.lda d b m off)).accessBytes .load m ea n n false = .ok bytes → room (.lda d b m off) →
        Accesses (.lda d b m off) s (issuedMe (.lda d b m off) s) (acc (.lda d b m off) (some (scopeOf s.me.regs.ldasc))) [d.val])
      ∧ (Ready (.lds d b m off) s → (at_ (.lds d b m off)).accessBytes .load m ea n n true = .ok bytes → s.me.accRoom .load = true →
        s.me.holdsBytes bytes = false →
        (at_ (.lds d b m off)).vecMeets bytes = false → (∀ w ∈ wordsOf bytes, w ∉ s.empties) →
        ∃ t, exec (.lds d b m off) s = .next t ∧ SameMemory s t ∧ (d.val ≠ 0 →
          (t.strand s.curCore s.curStrand).xr d.val = loadVal f (s.readB bytes)))
      ∧ (Ready (.lde d b m off) s → (m ≠ .C ∨ n ≤ 4) → (at_ (.lde d b m off)).accessBytes .loadEmpty m ea n n true = .ok bytes →
        s.me.accRoom .load = true → s.me.holdsBytes bytes = false → (at_ (.lde d b m off)).vecMeets bytes = false → (∀ w ∈ wordsOf bytes, w ∉ s.empties) →
        ∃ t, exec (.lde d b m off) s = .next t ∧ (∀ a, t.byteAt a = s.byteAt a) ∧ (∀ a ∈ bytes, t.isFull a = false)
          ∧ (d.val ≠ 0 → (t.strand s.curCore s.curStrand).xr d.val = loadVal f (s.readB bytes)))
      ∧ (Ready (.lds d b m off) s → (at_ (.lds d b m off)).check s.curCore s.me.stat.sup s.me.regs.asid .loadStore .load m ea n n true = .ok bytes →
        s.me.accRoom .load = true → s.me.holdsBytes bytes = false → (at_ (.lds d b m off)).vecMeets bytes = false → (∃ w ∈ wordsOf bytes, w ∈ s.empties) →
        exec (.lds d b m off) s = .next ((at_ (.lds d b m off)).fallAsleep .full (wordsOf bytes) (.lds d b m off) none))
      ∧ (Ready (.lde d b m off) s → (m ≠ .C ∨ n ≤ 4) →
        (at_ (.lde d b m off)).check s.curCore s.me.stat.sup s.me.regs.asid .loadStore .loadEmpty m ea n n true = .ok bytes →
        s.me.accRoom .load = true → s.me.holdsBytes bytes = false → (at_ (.lde d b m off)).vecMeets bytes = false → (∃ w ∈ wordsOf bytes, w ∈ s.empties) →
        exec (.lde d b m off) s = .next ((at_ (.lde d b m off)).fallAsleep .full (wordsOf bytes) (.lde d b m off) none))
/-- Stores (R96, R98): after the checks the converted value is outstanding towards its bytes; STF marks its words full, STL is a
release at MSCOPE.STLSC; CLFE clears its words; a length of 0 does nothing, a format that is not scalar takes 0x13. LDP and STP (Table 5.8): one access of two elements at an address aligned to both. -/
def Obligations.StoresAndPairs : Prop :=
  (∀ (s : State) (d b : Reg) (m : Mode) (off : BitVec 11) (bytes : List Nat),
      let p := s.me.xptr b.val
      let f := fmtof p
      let n := accsize f
      let ea := gEa p off n
      let r := storeVal f (s.me.xr d.val) s.me.seed
      let acc (i : Instr) (fe : Bool) (rel : Option Scope) : Access :=
        { id := 0, op := .store, bytes := bytes, data := r.bits, fmt := f, size := n, setFull := fe, rel := rel, covers := (issued i s).coverIds, ea := ea }
      let st (i : Instr) : Strand := { (issuedMe i s).setF r.flags with seed := r.seed }
      let ok (i : Instr) (fe : Bool) : Prop := (issued i s).accessBytes .store m ea n n fe = .ok bytes ∧ s.me.accRoom .store = true
        ∧ (issued i s).vecMeets bytes = false
      (f ≤ 0x0C →
        (Ready (.st d b m off) s → ok (.st d b m off) false → Accesses (.st d b m off) s (st (.st d b m off)) (acc (.st d b m off) false none) [])
          ∧ (Ready (.stf d b m off) s → ok (.stf d b m off) true → (m ≠ .C ∨ n ≤ 4) →
            Accesses (.stf d b m off) s (st (.stf d b m off)) (acc (.stf d b m off) true none) [])
          ∧ (Ready (.stl d b m off) s → ok (.stl d b m off) false → s.me.vecMem = false →
            Accesses (.stl d b m off) s (st (.stl d b m off)) (acc (.stl d b m off) false (some (scopeOf s.me.regs.stlsc))) []))
        ∧ (Ready (.clfe b d m) s → s.me.xr d.val = 0 → Completes (.clfe b d m) s (issued (.clfe b d m) s))
        ∧ (Ready (.clfe b d m) s → s.me.xr d.val ≠ 0 → 0x0C < f → Traps (.clfe b d m) s { code := 0x13 })
        ∧ (Ready (.clfe b d .L) s → f ≤ 0x0C → 0 < (s.me.xr d.val).toNat → (s.me.xr d.val).toNat % 4 = 0 → vaof p % 4 = 0 → s.rects = [] →
            vaof p + (s.me.xr d.val).toNat ≤ 0x16000 → s.curCore < 8192 → s.me.seq = [] →
            ∃ a, Accesses (.clfe b d .L) s (issuedMe (.clfe b d .L) s) a [] ∧ a.op = .clear
              ∧ a.bytes = span (s.curCore * 0x20000 + vaof p) (s.me.xr d.val).toNat))
    ∧ (∀ (s : State) (d b : Reg) (m : Mode) (off : BitVec 11) (bytes : List Nat),
      let p := s.me.xptr b.val
      let f := fmtof p
      let n := accsize f
      let ea := gEa p off (2 * n)
      let i : Instr := .ldp d b m off
      let j : Instr := .stp d b m off
      let r := storeVal f (s.me.xr d.val) s.me.seed
      let r2 := storeVal f (s.me.xr (d.val + 1)) r.seed
      f ≤ 0x0C →
      (Ready i s → (issued i s).accessBytes .load m ea (2 * n) (2 * n) false = .ok bytes → s.me.accRoom .load = true →
          (issued i s).vecMeets bytes = false →
          Accesses i s (issuedMe i s)
            { id := 0, op := .load, bytes := bytes, fmt := f, size := n, dst := (issuedMe i s).xplace d.val, dst2 := (issuedMe i s).xplace (d.val + 1),
              pair := true, taint := (issuedMe i s).ldTaint b m ea n, taint2 := (issuedMe i s).ldTaint b m (ea + n) n, ea := ea } [d.val, d.val + 1])
        ∧ (Ready j s → (issued j s).accessBytes .store m ea (2 * n) (2 * n) false = .ok bytes → s.me.accRoom .store = true →
          (issued j s).vecMeets bytes = false →
          Accesses j s { (issuedMe j s).setF (r.flags.or r2.flags) with seed := r2.seed }
            { id := 0, op := .store, bytes := bytes, data := r.bits + 2 ^ (8 * n) * r2.bits, fmt := f, size := n, parts := [n, n], covers := (issued j s).coverIds, ea := ea } []))
/-- The effect of outstanding accesses on memory: a store writes its bytes and no other, a load writes none; a clearing changes no
byte and empties its words. DEDUCED (log 10): a CLFE's whole range, a mode-C access wider than 4 bytes and an LDP in LP6 or at a peer are performed
in one step, where R101 and R92 let their parts be seen apart. The reply of a performed access, an acquire's once its releases are settled (R198),
writes its destination, frees the register and ends the access (R102, R71): a load's converted value, LDP's two, an atomic's result (R201), M0 to M7
of a MSGMOV (R174). -/
def Obligations.AccessesPerformed : Prop :=
  (∀ (s : State) (c : CoreId) (t : StrandId) (a : Access), (s.strand c.val t.val).access a.id = some a → s.reachable c.val t.val a = true →
      (a.op = .store → a.bytes.Nodup → ∃ u, exec (.accessPerformed c t a.id) s = .next u ∧ SameOutside a.bytes s u
          ∧ u.readB a.bytes = a.data % 256 ^ a.bytes.length ∧ (a.setFull = true → ∀ b ∈ a.bytes, u.isFull b = true)
          ∧ (u.strand c.val t.val).access a.id = none)
        ∧ (a.op = .load → ∃ u, exec (.accessPerformed c t a.id) s = .next u ∧ SameMemory s u
          ∧ (u.strand c.val t.val).access a.id = some { a with performed := true, result := s.readB a.bytes, records := s.recordsAt a.bytes })
        ∧ (a.op = .clear → ∃ u, exec (.accessPerformed c t a.id) s = .next u ∧ (∀ b, u.byteAt b = s.byteAt b) ∧ ∀ b ∈ a.bytes, u.isFull b = false))
    ∧ (∀ (s : State) (c : CoreId) (t : StrandId) (a : Access), (s.strand c.val t.val).access a.id = some a → a.performed = true → a.err = none →
      (∀ sc, a.acq = some sc → s.lostIn a.records c.val t.val sc a.arm = false
        ∧ s.settled a.records c.val t.val sc a.arm = true) →
      ∃ u, exec (.accessReply c t a.id) s = .next u ∧ SameMemory s u ∧ (u.strand c.val t.val).access a.id = none ∧
        let r (k : Nat) : XReg := Tab.get {} k (u.strand c.val t.val).x
        let loaded (k v : Nat) : Prop := (r k).val = loadVal a.fmt (v % 2 ^ (8 * a.size)) ∧ (r k).busy = false
          ∧ (r k).mark = (decide (a.size = 8) && decide ((loadVal a.fmt (v % 2 ^ (8 * a.size))).toNat / 2 ^ 58 ≠ 0))
        (a.toM = true → (u.strand c.val t.val).m = BitVec.ofNat 512 a.result ∧ (u.strand c.val t.val).x = (s.strand c.val t.val).x)
          ∧ (a.toM = false → a.op = .load → ∀ k, a.dst = some k → (a.pair = false ∨ a.dst2 ≠ some k) → loaded k a.result)
          ∧ (a.toM = false → a.op = .load → a.pair = true → ∀ k, a.dst2 = some k → loaded k (a.result / 2 ^ (8 * a.size)))
          ∧ (∀ i k, a.toM = false → a.op = .atomic i → a.dst = some k → (r k).val = BitVec.ofNat 64 a.result ∧ (r k).busy = false ∧ (r k).mark = false))
/-- PFCH (R100) never waits or faults. FENCE.REL records what a later store releases; FENCE.ACQ waits for the strand's loads and
atomics and for the releases that they read; PROMOTE arms a promotion (R199, R200). -/
def Obligations.Fences : Prop :=
  ∀ (s : State) (a : Reg) (m : Mode) (off : BitVec 11) (sc : Scope),
    (Ready (.pfch a m off) s → ∃ t, exec (.pfch a m off) s = .next t ∧ SameMemory s t
        ∧ (t.strand s.curCore s.curStrand).x.map (fun e => (e.1, e.2.val)) = s.me.x.map (fun e => (e.1, e.2.val))
        ∧ (s.me.stat.slave = false → (t.strand s.curCore s.curStrand).pc = nextPc s.me.pc 4))
      ∧ (Ready (.fence .rel sc) s → s.me.vecMem = false →
        CompletesMe (.fence .rel sc) s { issuedMe (.fence .rel sc) s with
          relFence := some { scope := sc, pending := (issued (.fence .rel sc) s).coverIds, known := (issued (.fence .rel sc) s).knownNow } })
      ∧ (∀ k, Ready (.fence k sc) s → k ≠ .rel → s.me.out = [] → s.flits = [] → s.me.seq = [] → s.me.readRecs = [] → s.me.engRecs = [] →
        s.myCore.copiesOf s.curStrand = 0 → s.myCore.churnOf s.curStrand = false →
        ∃ t, exec (.fence k sc) s = .next t ∧ (t.strand s.curCore s.curStrand).readRecs = []
          ∧ (k = .acq → (t.strand s.curCore s.curStrand).relFence = s.me.relFence)
          ∧ (k ≠ .acq → ∃ kn, (t.strand s.curCore s.curStrand).relFence = some { scope := sc, pending := [], known := kn }))
      ∧ (Ready (.promote a sc .L) s → vaof (s.me.xptr a.val) % 4 = 0 → vaof (s.me.xptr a.val) + 4 ≤ 0x16000 → s.rects = [] → s.curCore < 8192 →
        Completes (.promote a sc .L) s (({ issued (.promote a sc .L) s with nextId := s.nextId + 1 } : State).setMe { issuedMe (.promote a sc .L) s with
          promote := some { word := s.curCore * 0x20000 + vaof (s.me.xptr a.val), scope := sc, no := s.nextId }, promoteRead := false }))
/-- The words that make an atomic outstanding (R201): the operand is Xb, the compare value Xd; the order and scope are the word's. -/
def Obligations.AtomicsIssue : Prop :=
  ∀ (s : State) (d a b : Reg) (w : Bool) (o : Order) (sc : Scope) (m : Mode) (bytes : List Nat) (mk : Reg → Reg → Reg → Bool → Order → Scope → Mode → Instr),
    mk ∈ [Instr.aadd, Instr.aand, Instr.aor, Instr.axor, Instr.amin, Instr.amax, Instr.aswp, Instr.acas] →
    let i := mk d a b w o sc m
    let p := s.me.xptr a.val
    let n := if w then 4 else 8
    Ready i s → (fmtof p = 0 ∨ (w = true ∧ (fmtof p = 3 ∨ fmtof p = 7)) ∨ (w = false ∧ fmtof p = 4)) → (w = true ∨ m ≠ .C) →
    (issued i s).accessBytes .atomic m (vaof p) n n false = .ok bytes → s.me.accRoom (.atomic i) = true → (issued i s).vecMeets bytes = false →
    ∃ acc, Accesses i s (issuedMe i s) acc [d.val] ∧ acc.op = .atomic i ∧ acc.bytes = bytes ∧ acc.size = n ∧ acc.dst = (issuedMe i s).xplace d.val
      ∧ acc.data % 2 ^ 64 = (s.me.xr b.val).toNat % 2 ^ (8 * n) ∧ acc.data / 2 ^ 64 = (s.me.xr d.val).toNat % 2 ^ (8 * n)
      ∧ acc.acq = (if o = .acq ∨ o = .ar then some sc else none) ∧ acc.rel = (if o = .rel ∨ o = .ar then some sc else none)
/-- Each atomic's new value and result (Table 9.6, R201): .W results are sign-extended but for N32, AMIN and AMAX compare signed numbers but for N32,
and ACAS stores only where the old value is the compare value. An atomic executes indivisibly at its unit (R202): it reads, writes its own bytes alone and records the result; a request
that has left its core and whose number is in the unit's window gives the recorded result again and writes nothing (R204). -/
def Obligations.AtomicAtUnit : Prop :=
  (∀ (s : State) (c : CoreId) (t : StrandId) (a : Access) (i : Instr), (s.strand c.val t.val).access a.id = some a → a.op = .atomic i →
      s.reachable c.val t.val a = true →
    ∃ u, exec (.atomicAtUnit c t a.id) s = .next u ∧ SameOutside a.bytes s u ∧
      match if a.leaves c.val = true then s.windowHit (unitOf (a.bytes.headD 0)) (s.sourceId c.val t.val) a.seq else none with
      | some r => SameMemory s u ∧ (u.strand c.val t.val).access a.id = some { a with performed := true, result := r }
      | none => (u.strand c.val t.val).access a.id =
            some { a with performed := true, result := (atomicEffect a i (s.readB a.bytes)).2,
                          records := s.recordsAt a.bytes ++ (match i with | .cellrd _ _ _ _ _ _ => s.cellRecords a.bytes | _ => []) }
          ∧ (a.bytes.Nodup → ∀ v, (atomicEffect a i (s.readB a.bytes)).1 = some v → u.readB a.bytes = v % 256 ^ a.bytes.length)
          ∧ ((atomicEffect a i (s.readB a.bytes)).1 = none → SameMemory s u))
    ∧ (∀ (q : Access) (d a b : Reg) (w : Bool) (o : Order) (sc : Scope) (m : Mode) (old : Nat),
      let n := 8 * q.size
      let y := q.data % 2 ^ 64
      let cmp := q.data / 2 ^ 64
      let res := if q.size = 4 ∧ q.fmt ≠ 7 then ((BitVec.ofNat 32 old).signExtend 64).toNat else old
      let less (x z : Nat) : Prop := if q.fmt = 7 then x < z else (BitVec.ofNat n x).toInt < (BitVec.ofNat n z).toInt
      (q.size = 4 ∨ q.size = 8) → old < 2 ^ n → y < 2 ^ n →
      atomicEffect q (.aadd d a b w o sc m) old = (some ((old + y) % 2 ^ n), res) ∧ atomicEffect q (.aand d a b w o sc m) old = (some (old &&& y), res)
        ∧ atomicEffect q (.aor d a b w o sc m) old = (some (old ||| y), res) ∧ atomicEffect q (.axor d a b w o sc m) old = (some (old ^^^ y), res)
        ∧ (less y old → atomicEffect q (.amin d a b w o sc m) old = (some y, res)) ∧ (¬less y old → atomicEffect q (.amin d a b w o sc m) old = (some old, res))
        ∧ (less old y → atomicEffect q (.amax d a b w o sc m) old = (some y, res)) ∧ (¬less old y → atomicEffect q (.amax d a b w o sc m) old = (some old, res))
        ∧ atomicEffect q (.aswp d a b w o sc m) old = (some y, res)
        ∧ (old = cmp → atomicEffect q (.acas d a b w o sc m) old = (some y, res)) ∧ (old ≠ cmp → atomicEffect q (.acas d a b w o sc m) old = (none, res)))
/-- ACCF and CELLRD (R208 to R210): outstanding towards the 64 bytes of a cell in a vat; ACCF is a release that waits for nothing,
CELLRD an acquire. A finite ACCF adds its value × 2^149 to SUM and 1 to COUNT. CELLRD's result and flags (R209): the format's NaN where NAN is set or
both infinities are, with FNV in the second case alone; else an infinity that is set; else SUM × 2^−149 rounded once, with FOF where it overflows and
FNX where it is not exact; .CLR zeroes the cell. -/
def Obligations.CurdCells : Prop :=
  ∀ (s : State) (d a b : Reg) (f : FTy) (clr : Bool) (sc : Scope) (m : Mode) (bytes : List Nat),
    let ea := vaof (s.me.xptr a.val)
    let i : Instr := .accf a b f sc m
    let j : Instr := .cellrd d a clr f sc m
    (Ready i s → cellBytes m ea (issued i s) = .ok bytes → s.me.accRoom (.atomic .nop) = true → (issued i s).vecMeets bytes = false →
        ∃ acc, Accesses i s (issuedMe i s) acc [] ∧ acc.op = .atomic i ∧ acc.bytes = bytes ∧ acc.rel = some sc
          ∧ acc.data = (s.me.xr b.val).toNat % 2 ^ f.width ∧ acc.dst = none)
      ∧ (Ready j s → cellBytes m ea (issued j s) = .ok bytes → s.me.accRoom (.atomic .nop) = true → (issued j s).vecMeets bytes = false →
        ∃ acc, Accesses j s (issuedMe j s) acc [d.val] ∧ acc.op = .atomic j ∧ acc.bytes = bytes ∧ acc.acq = some sc)
      ∧ (∀ (cell : Nat) (x : Int), -(2 ^ 319 : Int) ≤ cellSum cell + x → cellSum cell + x < 2 ^ 319 → cellCount cell < 2 ^ 32 - 1 →
          ∀ neg mag e, scaled neg mag e (-149) = x →
          cellSum (accumulate cell (.num neg mag e)) = cellSum cell + x ∧ cellCount (accumulate cell (.num neg mag e)) = cellCount cell + 1)
      ∧ (∀ (q : Access) (cell : Nat),
          let u := atomicEffect q j cell
          let bit (k : Nat) : Prop := cell / 2 ^ k % 2 = 1
          let rv := rnd f.fmt .rne 0 (.num (decide (cellSum cell < 0)) (cellSum cell).natAbs (-149))
          let gives (v : Nat) (fl : FFlags) : Prop := u.2 % 2 ^ 64 = v ∧ cellFlags u.2 = fl
          u.1 = (if clr then some 0 else none)
            ∧ (bit 352 → gives f.fmt.nan {}) ∧ (¬bit 352 → bit 353 → bit 354 → gives f.fmt.nan { nv := true })
            ∧ (¬bit 352 → bit 353 → ¬bit 354 → gives (f.fmt.infBits false) {}) ∧ (¬bit 352 → ¬bit 353 → bit 354 → gives (f.fmt.infBits true) {})
            ∧ (¬bit 352 → ¬bit 353 → ¬bit 354 → gives rv.bits { of := rv.ovf, nx := rv.ovf || rv.inexact }))

/-! ## Barriers, messages, exchange -/

/-- Barrier words (R212, R214): BARI records the arrival and goes on; BAR arrives and sleeps, and one that a fault has interrupted after its
arrival issues again as its BARW alone (log 74, DEDUCED); BARW goes on where its episode has
released and sleeps where it has not; outside the domain 0x2B, in a broken one 0x2D; BSET's mask goes to the network, which takes it for
the next episode. The release of an episode (R212, R213): every member core has arrived and what the arrivals cover is performed; the episode
number rises, the arrivals are gone, and a sleeper in BAR completes with ARRIVE = the stamp of its arrival. -/
def Obligations.BarrierWords : Prop :=
  (∀ (s : State) (d : Reg) (k : BitVec 4) (lv : BLevel),
      let key := s.domOf lv k
      let dm := s.domain key
      let usable := dm.launch = some s.myPart.launch ∧ dm.member s.curCore = true
      let arrived (i : Instr) : State := (issued i s).arrive key
      (Ready (.bari k lv) s → usable → dm.broken = false → s.arrived dm = false →
          Completes (.bari k lv) s (arrived (.bari k lv)))
        ∧ (Ready (.bar k lv) s → usable → dm.broken = false → s.arrived dm = false → (issued (.bar k lv) s).barAgain key = false →
          exec (.bar k lv) s = .next ((arrived (.bar k lv)).fallAsleep .barrier [key] (.bar k lv) none))
        ∧ (∀ r, Ready (.bar k lv) s → (issued (.bar k lv) s).barAgain key = true → usable → dm.broken = false →
          s.me.bars.find? (fun e => e.1 == key) = some (key, r) →
          (r.episode < dm.episode → CompletesMe (.bar k lv) s { issuedMe (.bar k lv) s with
              regs := { s.me.regs with arrive := BitVec.ofNat 64 r.stamp }, known := s.me.known.join dm.known
              bars := Tab.put key { r with open_ := false, again := none } s.me.bars })
            ∧ (dm.episode ≤ r.episode → exec (.bar k lv) s = .next ((issued (.bar k lv) s).fallAsleep .barrier [key] (.bar k lv) none)))
        ∧ (Ready (.bar k lv) s → ¬usable → Traps (.bar k lv) s { code := 0x2B }) ∧ (Ready (.bari k lv) s → ¬usable → Traps (.bari k lv) s { code := 0x2B })
        ∧ (Ready (.bari k lv) s → usable → dm.broken = true → Traps (.bari k lv) s { code := 0x2D })
        ∧ (∀ r, Ready (.barw k lv) s → usable → dm.broken = false → s.me.bars.find? (fun e => e.1 == key) = some (key, r) → r.open_ = true →
          (r.episode < dm.episode → CompletesMe (.barw k lv) s { issuedMe (.barw k lv) s with
              regs := { s.me.regs with arrive := BitVec.ofNat 64 r.stamp }, known := s.me.known.join dm.known, bars := Tab.put key { r with open_ := false, again := none } s.me.bars })
            ∧ (dm.episode ≤ r.episode → exec (.barw k lv) s = .next ((issued (.barw k lv) s).fallAsleep .barrier [key] (.barw k lv) none)))
        ∧ (Ready (.bset d k lv) s → (s.me.xr d.val).toNat < 2 ^ 32 → dm.launch = some s.myPart.launch →
          (∀ q, q < 32 → (s.me.xr d.val).getLsbD q = true → s.holds (clusterOf s.curCore * 32 + q) s.myPart.launch = true) →
          Completes (.bset d k lv) s ((issued (.bset d k lv) s).setCluster (clusterOf s.curCore)
            { s.cluster (clusterOf s.curCore) with bsets := (s.cluster (clusterOf s.curCore)).bsets
                ++ [{ core := s.curCore, strand := s.curStrand, key := key, mask := (s.me.xr d.val).setWidth 32 }] }))
        ∧ (Ready (.bset d k lv) s → 2 ^ 32 ≤ (s.me.xr d.val).toNat → Traps (.bset d k lv) s { code := 0x02 }))
    ∧ (∀ (s : State) (q : BsetReq) (n : Nat), 0 < n → (s.clusters.flatMap fun e => e.2.bsets) = [q] → (s.pass n).clusters.all (fun e => e.2.bsets.isEmpty) = true
        ∧ ((s.pass n).domain q.key).pendingMasks = Tab.put (clusterOf q.core) q.mask (s.domain q.key).pendingMasks)
    ∧ (∀ (s : State) (lv : BLevel) (inst : Fin 256) (k : BitVec 4), k.toNat < 16 →
      let key := domKey lv inst.val k.toNat
      let d := s.domain key
      (s.episodeDone d = true → d.pendingMasks = [] → ∃ u, exec (.barrierRelease lv inst k) s = .next u
          ∧ (u.domain key).episode = d.episode + 1 ∧ (u.domain key).masks = d.masks)
        ∧ (∀ (a : Arrival) (z : Sleep), s.episodeDone d = true → d.pendingMasks = [] → d.arrivals = [a] → z.arith = none → z.control = .bar k lv →
            (s.strand a.core a.strand).asleep = some z → z.kind = .barrier → z.words = [key] → z.before = none →
            (Tab.get { episode := 0, stamp := 0, open_ := false } key (s.strand a.core a.strand).bars).stamp = a.stamp → (s.strand a.core a.strand).stat.slave = false →
            ∃ u, exec (.barrierRelease lv inst k) s = .next u ∧ (u.strand a.core a.strand).asleep = none
              ∧ (u.strand a.core a.strand).regs.arrive = BitVec.ofNat 64 a.stamp
              ∧ (u.strand a.core a.strand).pc = (s.strand a.core a.strand).npc)
        ∧ (s.episodeDone d = false → exec (.barrierRelease lv inst k) s = .next s))
/-- Words that send (R170, R173, R177, R246): SEND's and MCAST's flits leave from M0 to M7 and Xd ← 0; with a full send buffer Xd ← 1;
a target that is none takes 0x23. RSEND leaves with the value of Xb to the strand and register of the capability Xa, 0x21 where the
capability is none; RSENDV is a sequencer entry (R177). That an RSEND leaves the last of the eight places to an RSENDV queued for the same strand is
log 95 (DESIGN CHOICE). -/
def Obligations.SendWords : Prop :=
  (∀ (s : State) (d a : Reg),
      let v := (s.me.xr a.val).toNat
      let f (t : State) : List Flit := t.flits.drop s.flits.length
      (Ready (.send d a) s → s.me.mBusy = false → v < 8192 → s.inMap v = true → s.ctxAt v s.myPart.ctx = true → s.me.sends.length < 16 →
          ∃ t g, exec (.send d a) s = .next t ∧ f t = [g] ∧ g.kind = 2 ∧ g.dst = v ∧ g.data = s.me.m ∧ g.src = s.curCore ∧ g.state = .inFlight
            ∧ (t.strand s.curCore s.curStrand).xr d.val = 0 ∧ (t.strand s.curCore s.curStrand).sends.length = s.me.sends.length + 1 ∧ SameMemory s t)
        ∧ (Ready (.send d a) s → s.me.mBusy = false → v < 8192 → s.inMap v = true → s.ctxAt v s.myPart.ctx = true → 16 ≤ s.me.sends.length →
          CompletesX (.send d a) s d 1)
        ∧ (Ready (.send d a) s → (8192 ≤ v ∨ s.inMap v = false ∨ s.ctxAt v s.myPart.ctx = false) → Traps (.send d a) s { code := 0x23 })
        ∧ (Ready (.mcast d a) s → s.me.mBusy = false → mcastOk v = true → s.me.sends.length < 16 → ∃ t, exec (.mcast d a) s = .next t
            ∧ (f t).map (·.dst) = (mcastCores v).filter (fun c => s.inMap c && s.ctxAt c s.myPart.ctx) ∧ (∀ g ∈ f t, g.kind = 3 ∧ g.data = s.me.m)
            ∧ (t.strand s.curCore s.curStrand).xr d.val = 0)
        ∧ (Ready (.mcast d a) s → mcastOk v = false → Traps (.mcast d a) s { code := 0x23 })
        ∧ (∀ bytes, Ready (.post d a) s → s.me.mBusy = false → s.me.sends.length < 16 →
            s.translate s.curCore .loadStore s.me.regs.asid .store (vaof (s.me.xptr a.val)) = .ok bytes → ∃ t g, exec (.post d a) s = .next t ∧ f t = [g]
              ∧ g.kind = 4 ∧ g.dst = homeCluster (bytes.headD 0) ∧ g.data = s.me.m ∧ (t.strand s.curCore s.curStrand).xr d.val = 0))
    ∧ (∀ (s : State) (a b : Reg) (pg : Fin 8),
      (Ready (.rsend a b) s → capOk (s.me.xr a.val) .x = true → s.me.regSends.length < (if s.me.rsendvTo (s.me.xr a.val) = true then 7 else 8) → ∃ t g, exec (.rsend a b) s = .next t
          ∧ t.flits = s.flits ++ [g] ∧ g.kind = 1 ∧ g.dst = capCore (s.me.xr a.val) ∧ g.target = s.me.xr a.val ∧ g.data = (s.me.xr b.val).setWidth 512
          ∧ (t.strand s.curCore s.curStrand).regSends = s.me.regSends ++ [g.id])
        ∧ (Ready (.rsend a b) s → capOk (s.me.xr a.val) .x = false → Traps (.rsend a b) s { code := 0x21 })
        ∧ (∀ c w, Ready (.rsendv a b pg) s → s.me.pred pg.val 32 = (c, w) → 0 < c → c ≤ elems s.me.nlanes w → c * w ≤ 512 → 0 < s.me.nlanes →
            s.me.seq.length < 16 → HandedOver (.rsendv a b pg) s (issuedMe (.rsendv a b pg) s)
              { (issuedMe (.rsendv a b pg) s).entry (.rsendv a b pg) with pcount := c, pwidth := w }))
/-- Words that receive (R168, R174, R245, R246): RECV and RPEEK give the head slot's offset; of an empty pail RPEEK gives all ones and
RECV sleeps; RACK frees the head slot; TAKE moves the oldest record of the context into M0 to M7; NEXT reads the schedule; MSGMOV is an
access of 64 bytes. -/
def Obligations.ReceiveWords : Prop :=
  ∀ (s : State) (d a : Reg) (w toMem : Bool) (m : Mode) (bytes : List Nat) (r : TaskRec) (v : Word),
    let p := s.myPart
    let slot : Word := BitVec.ofNat 64 (p.pailBase.toNat + p.pailHead.toNat % p.pailSize.toNat)
    let tasks := (s.cluster (clusterOf s.curCore)).tasks
    (Ready (.recv d) s → p.pailHead ≠ p.pailTail → d.val ≠ 0 → ∃ t, exec (.recv d) s = .next t
        ∧ (t.strand s.curCore s.curStrand).xr d.val = slot ∧ SameMemory s t)
      ∧ (Ready (.recv d) s → p.pailHead = p.pailTail → exec (.recv d) s = .next ((issued (.recv d) s).fallAsleep .recv [] (.recv d) none))
      ∧ (Ready (.rpeek d) s → p.pailHead ≠ p.pailTail → d.val ≠ 0 → ∃ t, exec (.rpeek d) s = .next t
        ∧ (t.strand s.curCore s.curStrand).xr d.val = slot)
      ∧ (Ready (.rpeek d) s → p.pailHead = p.pailTail → CompletesX (.rpeek d) s d (BitVec.allOnes 64))
      ∧ (Ready .rack s → p.pailHead ≠ p.pailTail → p.overflow = [] → ∃ t, exec .rack s = .next t ∧ (t.core s.curCore).part.pailHead = p.pailHead + 64
        ∧ (t.core s.curCore).part.pailTail = p.pailTail)
      ∧ (Ready .rack s → p.pailHead = p.pailTail → Completes .rack s (issued .rack s))
      ∧ (Ready (.take d w) s → s.me.mBusy = false → tasks.find? (fun x => x.ctx == p.ctx) = some r → d.val ≠ 0 → ∃ t, exec (.take d w) s = .next t
        ∧ (t.strand s.curCore s.curStrand).m = r.data ∧ (t.strand s.curCore s.curStrand).xr d.val = 1
        ∧ (t.cluster (clusterOf s.curCore)).tasks = tasks.erase r)
      ∧ (Ready (.take d false) s → s.me.mBusy = false → tasks.find? (fun x => x.ctx == p.ctx) = none → CompletesX (.take d false) s d 0)
      ∧ (Ready (.next d) s → p.sched[p.schedCur]? = some v → d.val ≠ 0 → ∃ t, exec (.next d) s = .next t
        ∧ (t.strand s.curCore s.curStrand).xr d.val = v ∧ (t.core s.curCore).part.schedCur = p.schedCur + 1
        ∧ ((t.strand s.curCore s.curStrand).xreg d.val).mark = decide (v.toNat / 2 ^ 58 ≠ 0))
      ∧ (Ready (.next d) s → p.sched[p.schedCur]? = none → CompletesX (.next d) s d 0)
      ∧ (Ready (.msgmov a toMem m) s → (issued (.msgmov a toMem m) s).accessBytes (if toMem then .store else .load) m (vaof (s.me.xptr a.val)) 64 64 false = .ok bytes →
        s.me.mBusy = false → s.me.accRoom (if toMem then .store else .load) = true → (issued (.msgmov a toMem m) s).vecMeets bytes = false →
        ∃ acc, Accesses (.msgmov a toMem m) s (issuedMe (.msgmov a toMem m) s) acc [] ∧ acc.bytes = bytes ∧ acc.size = 64
          ∧ (toMem = true → acc.op = .store ∧ acc.data = s.me.m.toNat) ∧ (toMem = false → acc.op = .load ∧ acc.toM = true))
/-- Exchange words (R185 to R190): XPHASE raises the floor, arrives and sleeps until exchange cycle 0; XMIT and XSEL are sequencer
entries in a phase and take 0x28 outside one; XEND waits for an empty sequencer, then ends the phase, and without one does nothing. -/
def Obligations.ExchangeWords : Prop :=
  ∀ (s : State) (k : BitVec 4) (slot : BitVec 13) (l : Reg) (g : BitVec 4) (e : BitVec 5) (key : Nat) (lv : BLevel),
    let x := s.myCore.exch
    let ent := Tab.get 0 e.toNat s.myPart.xsrc
    (Ready (.xphase k) s → s.me.seq = [] → x.active = false → s.myCore.curve.floor = false → s.exchDomain s.curCore k = some (lv, key) →
        (s.domain key).member s.curCore = true → (s.domain key).launch = some s.myPart.launch → (s.domain key).broken = false →
        s.arrived (s.domain key) = false →
        ((issued (.xphase k) s).raiseFloor.rail (quadOf s.curCore)).settledFor (issued (.xphase k) s).raiseFloor.myCore.curve.phaseVolt = true → s.noMargin s.curCore s.curStrand = false →
        ∃ t z, exec (.xphase k) s = .next t ∧ (t.strand s.curCore s.curStrand).asleep = some z ∧ z.kind = .barrier ∧ z.words = [key]
          ∧ z.control = .xphase k ∧ (t.core s.curCore).curve.floor = true
          ∧ ∃ a ∈ (t.domain key).arrivals, a.core = s.curCore ∧ a.strand = s.curStrand ∧ a.stamp = s.time)
      ∧ (Ready (.xphase k) s → s.me.seq = [] → x.active = false → s.myCore.curve.floor = false → s.exchDomain s.curCore k = none →
        Traps (.xphase k) s { code := 0x2A })
      ∧ (Ready (.xmit slot l g) s → x.active = true → 16 * g.toNat + 16 ≤ 4 * s.me.nlanes → s.me.seq.length < 16 →
        HandedOver (.xmit slot l g) s (issuedMe (.xmit slot l g) s) ((issuedMe (.xmit slot l g) s).entry (.xmit slot l g)))
      ∧ (Ready (.xmit slot l g) s → x.active = false → Traps (.xmit slot l g) s { code := 0x28 })
      ∧ (Ready (.xsel slot l e) s → x.active = true → ent.getLsbD 31 = true → 16 * entrySeg ent + 16 ≤ 4 * s.me.nlanes → s.me.seq.length < 16 →
        HandedOver (.xsel slot l e) s (issuedMe (.xsel slot l e) s) ((issuedMe (.xsel slot l e) s).entry (.xsel slot l e)))
      ∧ (Ready (.xsel slot l e) s → x.active = false → Traps (.xsel slot l e) s { code := 0x28 })
      ∧ (Ready .xend s → x.active = true → s.me.seq = [] → x.armed = [] → ∃ t, exec .xend s = .next t
        ∧ (t.core s.curCore).exch.active = false ∧ (t.core s.curCore).curve.floor = false)
      ∧ (Ready .xend s → s.me.seq ≠ [] → exec .xend s = .next s)
      ∧ (Ready .xend s → x.active = false → s.me.seq = [] → Completes .xend s (issued .xend s))

/-! ## Engine, tape and completion words -/

/-- The copy words (R222 to R226): with legal formats and descriptor and room in the queue of two, the command enters the copy
engine's queue with its operands and descriptor as they stand. -/
def Obligations.CopyWords : Prop :=
  ∀ (s : State) (g : Fin 4) (a b c : Reg) (clfe ev : Bool) (sm dm : Mode) (i : Instr) (dst : Option Reg),
    (i, dst) ∈ [(.cpy a b c clfe ev sm dm, some a), (.cpyg a b c clfe ev sm dm, some a), (.cpysc a b c clfe ev sm dm, some a), (.cpys g b c clfe ev sm, none)] →
    let src := s.me.xptr b.val
    let dp := s.me.copyDst dst b
    let ea := vaof (s.me.xptr c.val)
    let desc := s.descFields s.curCore ea
    let bytes := span (s.curCore * 0x20000 + ea) 64
    Ready i s → ea % 64 = 0 → ea + 64 ≤ 0x16000 → s.rects = [] → s.badWords = [] → s.copyFormats src dp = true →
    descOk i desc (fmtof src) (blkof src) (fmtof dp) (blkof dp) = true → s.myCore.engQ.length < 2 → s.me.holdsBytes bytes = false → (issued i s).vecMeets bytes = false →
    ∃ t q, exec i s = .next t ∧ (t.core s.curCore).engQ = s.myCore.engQ ++ [q] ∧ q.instr = i ∧ q.strand = s.curStrand ∧ q.src = src ∧ q.dst = dp
      ∧ q.desc = desc ∧ SameMemory s t
/-- CPYQ, RINGDEF, RINGST, TGUARD and TSLOT (R230, R140, R144, R240). Completion barrier words (R232): CBINIT writes the count, marks the word full; CBWAIT gives ERR once REMAIN = 0 and sleeps before;
CBTEST gives ERR + 2 × (REMAIN ≠ 0). -/
def Obligations.EngineWords : Prop :=
  (∀ (s : State) (d b c : Reg) (g : Fin 4) (m : Mode) (k : BitVec 6),
      (Ready (.cpyq d) s → CompletesX (.cpyq d) s d (BitVec.ofNat 64
          (1024 * b2n s.myCore.engRun.isSome + 256 * s.myCore.engQ.length + s.myCore.copiesOf s.curStrand)))
        ∧ (Ready (.ringdef g b c m) s → s.myCore.churnQ.length < 2 → Queued (.ringdef g b c m) s b (s.me.xr c.val))
        ∧ (Ready (.ringst d g) s → s.myCore.ring g.val s.myPart.launch = none → CompletesX (.ringst d g) s d 0)
        ∧ (∀ r, Ready (.ringst d g) s → s.myCore.ring g.val s.myPart.launch = some r → CompletesX (.ringst d g) s d
            (BitVec.ofNat 64 (2 ^ 63 + r.fmt * 2 ^ 57 + r.occ * 2 ^ 40 + r.occ / tileBytes r.fmt * 2 ^ 32 + r.head % r.size)))
        ∧ (Ready (.tguard b k) s → Completes (.tguard b k) s (issued (.tguard b k) s))
        ∧ (Ready (.tslot b k) s → Completes (.tslot b k) s (issued (.tslot b k) s)))
    ∧ (∀ (s : State) (d a b : Reg),
      let ea := vaof (s.me.xptr a.val)
      let bytes := span (s.curCore * 0x20000 + ea) 4
      let w := s.readN (s.curCore * 0x20000 + ea) 4
      let calm := s.me.out = [] ∧ s.me.seq = [] ∧ s.records = []
      ea % 4 = 0 → ea + 4 ≤ 0x16000 → s.rects = [] → calm →
      (Ready (.cbinit a b) s → (s.me.xr b.val).toNat < 2 ^ 24 → ∃ t, exec (.cbinit a b) s = .next t ∧ t.readB bytes = (s.me.xr b.val).toNat
          ∧ (∀ x ∈ bytes, t.isFull x = true) ∧ SameOutside bytes s t)
        ∧ (Ready (.cbinit a b) s → 2 ^ 24 ≤ (s.me.xr b.val).toNat → Traps (.cbinit a b) s { code := 0x02 })
        ∧ (Ready (.cbwait d a) s → w % 2 ^ 24 = 0 → ∃ t, exec (.cbwait d a) s = .next t ∧ SameMemory s t
          ∧ (d.val ≠ 0 → (t.strand s.curCore s.curStrand).xr d.val = BitVec.ofNat 64 (w / 2 ^ 31 % 2)))
        ∧ (Ready (.cbwait d a) s → w % 2 ^ 24 ≠ 0 → ∃ t z, exec (.cbwait d a) s = .next t ∧ (t.strand s.curCore s.curStrand).asleep = some z ∧ z.kind = .completion)
        ∧ (Ready (.cbtest d a) s → ∃ t, exec (.cbtest d a) s = .next t ∧ SameMemory s t
          ∧ (d.val ≠ 0 → (t.strand s.curCore s.curStrand).xr d.val = BitVec.ofNat 64 (w / 2 ^ 31 % 2 + 2 * (if w % 2 ^ 24 = 0 then 0 else 1)))))

/-! ## Vector and matrix words -/

/-- Vector words are handed over with what they capture at issue (R113, R114, R116): an explicit count of 0 does nothing (log 33); a wrong
width, no lanes or a group of more than six registers takes 0x02; else an entry joins the sequencer. VEXT and MMOVZV too. -/
def Obligations.VectorHandover : Prop :=
  ∀ (s : State) (i : Instr),
    (vectorWord i = true → Ready i s →
        (NoElements s.me i → Completes i s (issued i s))
          ∧ (¬NoElements s.me i → ¬GroupsFit s.me i → Traps i s { code := 0x02 })
          ∧ (¬NoElements s.me i → GroupsFit s.me i → s.me.seq.length < 16 → HandedOver i s (issuedMe i s) ((issuedMe i s).entry i)))
      ∧ (∀ (d a b : Reg) (pg : Fin 8) (ty : ITy), i = .vext d a b pg ty → Ready i s → ¬NoElements s.me i → GroupsFit s.me i →
          s.me.seq.length < 16 →
          HandedOver i s ((issuedMe i s).xbusy d.val) { (issuedMe i s).entry i with xd := (issuedMe i s).xplace d.val })
      ∧ (∀ (a : Reg) (c : Fin 2) (row : BitVec 4), i = .mmovzv a c row → Ready i s →
          (s.me.nlanes = 0 → Traps i s { code := 0x02 })
            ∧ (0 < s.me.nlanes → s.me.seq.length < 16 → HandedOver i s (issuedMe i s)
              { (issuedMe i s).entry i with waits := (issued i s).myCore.tileWriters s.curStrand c.val }))
/-- Lanes, predicates, RBASE and the decode table (R108, R109, R112, R119, R120). VCLAIM's request goes to the octet, which serves it as the fabric
cycle ends: a grant is 0 or a power of two of 4 to 64 within the request rounded up, and Xd receives it; the table's check failing takes 0x13.
VSEQ and VREP (R117, R118): the body is the words that follow, of the vector memory, integer, float and SFU words; it is checked and handed over
whole, as entries that the loop repeats; the strand goes on after it, RBASE advanced by VSEQ. A count of 0 hands nothing over, and records its body
under RECORD (R242); a body word that may not stand there takes 0x02, and so does a count of 2^32 or more. That the VSEQ or VREP itself takes the 0x38
where its body's bundles pass YBOUND is log 19 (DESIGN CHOICE). -/
def Obligations.VectorControl : Prop :=
  (∀ (s : State) (d a : Reg) (n : BitVec 7) (p : Fin 8) (w : Width) (k : BitVec 16) (v : BitVec 4),
      let ea := vaof (s.me.xptr a.val)
      let table : BitVec 8192 := BitVec.ofNat 8192 (s.readN (s.curCore * 0x20000 + ea) 1024)
      (Ready (.vclaim d n) s → s.me.seq = [] → CompletesMe (.vclaim d n) s
          { (issuedMe (.vclaim d n) s).xbusy d.val with claim := some { n := n.toNat, xd := (issuedMe (.vclaim d n) s).xplace d.val } })
        ∧ (Ready .vfree s → s.me.seq = [] → ∃ t, exec .vfree s = .next t ∧ (t.strand s.curCore s.curStrand).lanes = [])
        ∧ (Ready (.pset p a w) s → CompletesMe (.pset p a w) s { issuedMe (.pset p a w) s with
            p := Tab.put p.val (predBits (min (s.me.xr a.val).toNat 65535) w) s.me.p })
        ∧ (Ready (.pseti p k w) s → CompletesMe (.pseti p k w) s { issuedMe (.pseti p k w) s with p := Tab.put p.val (predBits k.toNat w) s.me.p })
        ∧ (Ready (.pget d p) s → p.val ≠ 0 → CompletesX (.pget d p) s d (BitVec.ofNat 64 (Tab.get 0 p.val s.me.p).toNat))
        ∧ (Ready (.pget d 0) s → CompletesX (.pget d 0) s d (BitVec.ofNat 64 (0x20000 + s.me.nlanes)))
        ∧ (Ready (.rbset v) s → s.me.seq.length < 16 →
            HandedOver (.rbset v) s { issuedMe (.rbset v) s with rbase := v } { (issuedMe (.rbset v) s).entry (.rbset v) with rbase := v.toNat })
        ∧ (Ready (.rbget d) s → s.me.seq.length < 16 → HandedOver (.rbget d) s ((issuedMe (.rbget d) s).xbusy d.val)
            { (issuedMe (.rbget d) s).entry (.rbget d) with xd := (issuedMe (.rbget d) s).xplace d.val })
        ∧ (Ready (.dtload a .L) s → s.me.seq = [] → ea % 4 = 0 → ea + 1024 ≤ 0x16000 → s.rects = [] → s.badWords = [] →
            s.myCore.tableIdle = true → s.me.out = [] →
            (tableOk table = true → ∃ t, exec (.dtload a .L) s = .next t ∧ (t.core s.curCore).dtab = some table ∧ SameMemory s t)
              ∧ (tableOk table = false → Traps (.dtload a .L) s { code := 0x13 })))
    ∧ (∀ (s : State) (c t k : Nat) (q : Claim), (s.strand c t).claim = some q → (s.strand c t).leaving = none →
      let u := s.serveClaim c t
      let st := u.strand c t
      (st.nlanes = 0 ∨ st.nlanes ∈ [4, 8, 16, 32, 64]) ∧ st.nlanes ≤ pow2Above q.n ∧ st.claim = none ∧ SameMemory s u
        ∧ (∀ x, q.xd = some x → Tab.get {} x st.x = { val := BitVec.ofNat 64 st.nlanes })
        ∧ (0 < k → (s.strand c t).landing = [] → (s.cores.flatMap fun e => (e.2.part.strands.filter fun x => x.2.claim.isSome).map fun x => (e.1, x.1)) = [(c, t)] →
          (s.pass k).strand c t = st))
    ∧ (∀ (s : State) (pc : VAddr) (l : List Instr), LoneWordsAt s pc l → s.me.stat.slave = false →
      (l.all vectorWord = true → s.readBody s.curCore s.curStrand l.length pc = .body (loneBody pc l) (pc + BitVec.ofNat 54 (4 * l.length)) l.length)
        ∧ (l.all vectorWord = false → s.readBody s.curCore s.curStrand l.length pc = .trap { code := 0x02 }))
    ∧ (∀ (s : State) (a : Reg) (len step : BitVec 4) (rep : Bool) (l : List BodyWord) (after : VAddr) (k : Nat) (f : FaultInfo),
      let i : Instr := if rep then .vrep a len step else .vseq a len step
      let st := issuedMe i s
      let n := len.toNat + 1
      let count := (s.me.xr a.val).toNat
      Ready i s →
        ((issued i s).readBody s.curCore s.curStrand n st.npc = .trap f → Traps i s f)
          ∧ ((issued i s).readBody s.curCore s.curStrand n st.npc = .body l after k → (∀ w ∈ l, ∀ r ∈ w.instr.xReads, s.me.canRead r = true) →
              (2 ^ 32 ≤ count → Traps i s { code := 0x02 })
                ∧ (∀ code, count < 2 ^ 32 → st.bodyChecks rep count step.toNat l = some code → Traps i s { code := code })
                ∧ (count < 2 ^ 32 → st.bodyChecks rep count step.toNat l = none → s.me.ybound.toNat < st.ycnt.toNat + k → Traps i s { code := 0x38 })
                ∧ (count = 0 → st.bodyChecks rep count step.toNat l = none → st.ycnt.toNat + k ≤ s.me.ybound.toNat →
                  Completes i s (((issued i s).recordLoop i (l.map fun w => { st.entry w.instr with pairHead := w.place == 1 })).setMe
                    { st with npc := after, ycnt := st.ycnt + BitVec.ofNat 32 k }))
                ∧ (0 < count → count < 2 ^ 32 → st.bodyChecks rep count step.toNat l = none → st.ycnt.toNat + k ≤ s.me.ybound.toNat →
                  s.me.seq.length + n ≤ 16 → s.me.loop = none → ∃ es, Completes i s (({ issued i s with nextId := s.nextId + 1 } : State).setMe { st with
                    seq := st.seq ++ es, npc := after, ycnt := st.ycnt + BitVec.ofNat 32 k
                    loop := some { rep := rep, count := count, step := step.toNat, len := n, rbase := s.me.rbase.toNat }
                    rbase := if rep then s.me.rbase else BitVec.ofNat 4 (s.me.rbase.toNat + count * step.toNat)
                    readRecs := st.readRecs ++ l.flatMap fun w => st.relsRead w.instr })
                  ∧ es.map (·.instr) = l.map (·.instr) ∧ ∀ e ∈ es, e.inLoop = true)))
/-- Matrix words enter the Churn's queue of two with the pointer that they use (R151). MSYNC issues once the strand's matrix work has retired
(R155); MSTAT gives the status and clears the sticky bits (R156); what the Churn wrote for the strand happens before what it does next (R160). That a
MMOVZV in the sequencer does not hold them is log 61 (DEDUCED). -/
def Obligations.MatrixWords : Prop :=
  ∀ (s : State) (a : Reg) (c : Fin 2) (ga gb : Fin 4) (clr : Bool) (r : Semiring) (m : Mode) (f : ZFmt),
    let seen : Known := s.me.known.join [(churnFor s.curCore s.curStrand, s.nextId)]
    (s.myCore.churnQ.length < 2 →
        (Ready (.mzero c) s → Queued (.mzero c) s 0 0) ∧ (Ready (.mma c ga gb clr) s → Queued (.mma c ga gb clr) s 0 0)
          ∧ (Ready (.mmas c ga gb clr) s → Queued (.mmas c ga gb clr) s 0 0) ∧ (Ready (.msemi r) s → Queued (.msemi r) s 0 0)
          ∧ (Ready (.mprog a m) s → Queued (.mprog a m) s a 0) ∧ (Ready (.mrun c ga gb clr) s → Queued (.mrun c ga gb clr) s 0 0)
          ∧ (Ready (.mstz a c m f) s → Queued (.mstz a c m f) s a 0) ∧ (Ready (.mldz c a m) s → Queued (.mldz c a m) s a 0))
      ∧ (Ready .msync s → s.myCore.churnOf s.curStrand = false → CompletesMe .msync s { issuedMe .msync s with known := seen })
      ∧ (Ready .msync s → s.myCore.churnOf s.curStrand = true → exec .msync s = .next s)
      ∧ (Ready (.mstat a) s → s.myCore.churnOf s.curStrand = true → exec (.mstat a) s = .next s)
      ∧ (Ready (.mstat a) s → s.myCore.churnOf s.curStrand = false → CompletesMe (.mstat a) s
          ({ issuedMe (.mstat a) s with mx := { s.me.mx with nv := false, of := false, iov := false }, known := seen }.xw a.val s.me.mx.word))
/-- What the register words leave alone: of their strand every X register that they do not write, V, P, Z and M, the special registers,
the sequencer, the outstanding accesses, and STAT but for a float word's flags; every other strand; all of memory. -/
def Obligations.RegisterWordFrame : Prop :=
  ∀ (s : State) (i : Instr), registerWord i = true → Ready i s → ∃ t, exec i s = .next t ∧ SameMemory s t ∧
    let st := t.strand s.curCore s.curStrand
    (∀ n, n < 32 → n ∉ i.xWrites → st.xreg n = s.me.xreg n)
      ∧ st.v = s.me.v ∧ st.p = s.me.p ∧ st.m = s.me.m ∧ st.mx = s.me.mx ∧ st.regs = s.me.regs ∧ st.rbase = s.me.rbase ∧ st.vstat = s.me.vstat
      ∧ st.seq = s.me.seq ∧ st.out = s.me.out ∧ st.spill = s.me.spill ∧ st.lanes = s.me.lanes ∧ st.ybound = s.me.ybound
      ∧ (floatWord i = false → st.stat = s.me.stat ∧ st.seed = s.me.seed) ∧ st.stat.sup = s.me.stat.sup ∧ st.stat.uev = s.me.stat.uev
      ∧ ∀ c u, (c ≠ s.curCore ∨ u ≠ s.curStrand) → t.strand c u = s.strand c u

/-! ## The sequencer -/

/-- The sequencer's head entry starts (R135): of an integer or float word every active element of Vd gets its result (R121 to R124; Tables 6.6,
6.7), of a pair word its two parts (R125 to R129), of a reduction element 0 (R130 to R132); sources are read before any write, SEED is drawn from
in element order, float flags are set in VSTAT, the other registers are unchanged, and the entry leaves. -/
def Obligations.VectorElements : Prop :=
  ∀ (s : State) (c : CoreId) (t : StrandId) (e : SeqEntry) (d a b : Reg) (pg : Fin 8) (w : Nat),
    let st := s.strand c.val t.val
    let k := st.ctxOf e
    let head := (vOps e.instr e.pwidth).head?
    let within (n : Nat) : Prop := d.val + n ≤ 16 ∨ (16 ≤ d.val ∧ d.val + n ≤ 32)
    let file (u : State) : Tab VReg := (u.strand c.val t.val).v
    let leaves (u : State) : Prop := exec (.sequencerEntryStart c t) s = .next u ∧ (u.strand c.val t.val).seq = st.seq.tail ∧ SameMemory s u
      ∧ ∀ r, r ∉ e.writes k → (u.strand c.val t.val).vreg r = st.vreg r
    let flagged (u : State) (f : FFlags) : Prop := let v := (u.strand c.val t.val).vstat
      (f.nv = true → v.nv = true) ∧ (f.of = true → v.of = true) ∧ (f.uf = true → v.uf = true) ∧ (f.nx = true → v.nx = true)
    Starts s c.val t.val e → vectorWord e.instr = true → e.instr.memPred = none → (∀ x y q f g, e.instr ≠ .vsfu x y q f g) →
    2 ≤ st.nlanes → st.nlanes ≤ 64 → e.rbase < 16 → e.pcount < 2 ^ 16 →
    (head = some { n := d.val, w := w, dst := true } → within (groupRegs st.nlanes w e.pcount) →
      ∃ (u : State) (sd : Nat → Word), leaves u ∧ sd 0 = st.seed ∧ (u.strand c.val t.val).seed = sd e.pcount ∧ ∀ n, n < e.pcount →
        let got : Nat := vget (file u) st.nlanes k.rbase 0 d.val w n
        let is (v : Nat) : Prop := got = v ∧ sd (n + 1) = sd n
        let x (ty : ITy) : Int := ty.read (k.el a w n)
        let y (ty : ITy) : Int := ty.read (k.el b w n)
        let fits (v : Int) : Prop := (got : Int) = v % 2 ^ w ∧ sd (n + 1) = sd n
        let sh := k.el b w n % w
        (∀ ty : ITy, w = ty.bits →
            (e.instr = .vadd d a b pg ty false → fits (x ty + y ty)) ∧ (e.instr = .vadd d a b pg ty true → fits (max ty.lo (min ty.hi (x ty + y ty))))
              ∧ (e.instr = .vsub d a b pg ty false → fits (x ty - y ty))
              ∧ (e.instr = .vsub d a b pg ty true → fits (max ty.lo (min ty.hi (x ty - y ty)))) ∧ (e.instr = .vmul d a b pg ty → fits (x ty * y ty))
              ∧ (e.instr = .vmulh d a b pg ty → fits (x ty * y ty / 2 ^ w)) ∧ (e.instr = .vand d a b pg ty → is (k.el a w n &&& k.el b w n))
              ∧ (e.instr = .vor d a b pg ty → is (k.el a w n ||| k.el b w n)) ∧ (e.instr = .vxor d a b pg ty → is (k.el a w n ^^^ k.el b w n))
              ∧ (e.instr = .vshl d a b pg ty → fits (x ty * 2 ^ sh)) ∧ (e.instr = .vshr d a b pg ty → is (k.el a w n / 2 ^ sh))
              ∧ (e.instr = .vsra d a b pg ty → fits (sext (k.el a w n) w / 2 ^ sh)) ∧ (e.instr = .vmin d a b pg ty → fits (min (x ty) (y ty)))
              ∧ (e.instr = .vmax d a b pg ty → fits (max (x ty) (y ty))) ∧ (e.instr = .vcmp d a b pg ty false → fits (if x ty = y ty then -1 else 0))
              ∧ (e.instr = .vcmp d a b pg ty true → fits (if x ty < y ty then -1 else 0))
              ∧ (e.instr = .vsel d a b pg ty → is (if k.el d w n ≠ 0 then k.el a w n else k.el b w n))
              ∧ (e.instr = .vbcst d a pg ty → fits e.xa.val.toInt) ∧ (e.instr = .viota d pg ty → fits n)
              ∧ (e.instr = .vperm d a b pg ty → is (if k.el b w n < e.pcount then k.el a w (k.el b w n) else 0))
              ∧ (e.instr = .vslide d a b pg ty false → is (if n + e.xa.val.toNat < e.pcount then k.el a w (n + e.xa.val.toNat) else 0))
              ∧ (e.instr = .vslide d a b pg ty true → is (if e.xa.val.toNat ≤ n then k.el a w (n - e.xa.val.toNat) else 0)))
          ∧ (∀ (dt ty : ETy) (sr : Bool), e.instr = .vfcvt d a pg dt ty sr →
            let r := convert dt ty (if sr then .sr else .rne) (sd n) (k.el a ty.bits n)
            got = r.bits ∧ sd (n + 1) = r.seed ∧ flagged u r.flags)
          ∧ ∀ (ty : FTy) (sr : Bool) (m : RMode), w = ty.width →
            let fx := ty.fmt.val (k.el a w n)
            let fy := ty.fmt.val (k.el b w n)
            let fd := ty.fmt.val (k.el d w n)
            let rounds (v : FVal × Bool) : Prop :=
              let r := finish ty.fmt (if sr then .sr else .rne) (sd n) v
              got = r.bits ∧ sd (n + 1) = r.seed ∧ flagged u r.flags
            let pick (first : Prop) : Prop := (fx = .nan → fy = .nan → is ty.fmt.nan) ∧ (fx = .nan → fy ≠ .nan → is (k.el b w n))
              ∧ (fx ≠ .nan → fy = .nan → is (k.el a w n)) ∧ (fx ≠ .nan → fy ≠ .nan → (first → is (k.el b w n)) ∧ (¬first → is (k.el a w n)))
            (e.instr = .vfadd d a b pg ty sr → rounds (fx.add fy)) ∧ (e.instr = .vfsub d a b pg ty sr → rounds (fx.add fy.neg))
              ∧ (e.instr = .vfmul d a b pg ty sr → rounds (fx.mul fy)) ∧ (e.instr = .vfma d a b pg ty sr → rounds (fmaVal fx fy fd))
              ∧ (e.instr = .vfms d a b pg ty sr → rounds (fmaVal fx.neg fy fd))
              ∧ (e.instr = .vscale d a b pg ty sr →
                rounds ((match fx with | .num neg mag q => .num neg mag (q + max (-1000) (min 1000 e.xa.val.toInt)) | v => v), false))
              ∧ (e.instr = .vfmin d a b pg ty → pick (below fy fx)) ∧ (e.instr = .vfmax d a b pg ty → pick (below fx fy))
              ∧ (e.instr = .vfabs d a pg ty → is (if fx.isNan then ty.fmt.nan else k.el a w n % 2 ^ (w - 1)))
              ∧ (e.instr = .vfrnd d a pg ty m → (fx = .nan → is ty.fmt.nan) ∧ (∀ neg, fx = .inf neg → is (k.el a w n))
                ∧ ∀ neg mag q, fx = .num neg mag q → (mag = 0 → is (k.el a w n)) ∧ (mag ≠ 0 →
                  let r := roundAt neg mag q 0 m (sd n)
                  got = (rnd ty.fmt .rne 0 (.num neg r.k 0)).bits ∧ sd (n + 1) = r.seed ∧ flagged u { nx := r.inexact }))
              ∧ (e.instr = .vfcmp d a b pg ty false → fits (if fx.isNan = false ∧ fy.isNan = false ∧ fx.eq fy = true then -1 else 0))
              ∧ (e.instr = .vfcmp d a b pg ty true → fits (if fx.isNan = false ∧ fy.isNan = false ∧ fx.lt fy = true then -1 else 0)))
      ∧ (head = some { n := d.val, w := w, pair := true, dst := true } → within (2 * groupRegs st.nlanes w e.pcount) →
        ∃ u, leaves u ∧ (u.strand c.val t.val).seed = st.seed ∧ ∀ n, n < e.pcount →
          let hi := vgetHi (file u) st.nlanes k.rbase 0 d.val w n
          let lo := vgetLo (file u) st.nlanes k.rbase 0 d.val w n
          let v (bits : Nat) : FVal := fp32.val bits
          let ah := k.hi a 32 n
          let al := k.lo a 32 n
          let bh := k.hi b 32 n
          let bl := k.lo b 32 n
          let fin := finitePair ah al && finitePair bh bl
          let sum (sg : FVal → FVal) : Prop :=
            let x := ((v ah).add (sg (v bh))).1
            let y := ((v al).add (sg (v bl))).1
            let z := ((rn32 x).add (rn32 ((x.add (rn32 x).neg).1.add (rn32 y)).1)).1
            Closes fin (rn32 z) (rn32 ((y.add (rn32 y).neg).1.add (z.add (rn32 z).neg).1).1) hi lo
          (∀ ty : FTy, w = ty.width →
              let fx := ty.fmt.val (k.el a w n)
              let fy := ty.fmt.val (k.el b w n)
              let exact_ (v : FVal × Bool) : Prop := hi = (rnd ty.fmt .rne 0 v.1).bits ∧
                let h := ty.fmt.val hi
                let r := (v.1.add h.neg).1
                (bothFinite fx fy = false → lo = 0) ∧ (bothFinite fx fy = true → h.isInf = true → lo = lowNan ty.fmt)
                  ∧ (bothFinite fx fy = true → h.isInf = false → lo = if r.isZero then 0 else (rnd ty.fmt .rne 0 r).bits)
              (e.instr = .vaddx d a b pg ty → exact_ (fx.add fy)) ∧ (e.instr = .vsubx d a b pg ty → exact_ (fx.add fy.neg))
                ∧ (e.instr = .vmulx d a b pg ty → exact_ (fx.mul fy)))
            ∧ (e.instr = .dwadd d a b pg → sum id) ∧ (e.instr = .dwsub d a b pg → sum FVal.neg)
            ∧ (e.instr = .dwmul d a b pg →
              let p := ((v ah).mul (v bh)).1
              let q := rn32 (((v ah).mul (v bl)).1.add (rn32 ((v al).mul (v bl)).1)).1
              Closes fin (rn32 p) (rn32 ((rn32 (p.add (rn32 p).neg).1).add (rn32 (((v al).mul (v bh)).1.add q).1)).1) hi lo)
            ∧ (e.instr = .dwnorm d a pg → Closes (finitePair ah al) (v ah) (v al) hi lo))
      ∧ (∀ (ty : FTy) (j : Nat), e.pcount ≤ 2 ^ j → (j = 0 ∨ 2 ^ (j - 1) < e.pcount) →
        let el (n : Nat) : Nat := if n < e.pcount then k.el a ty.width n else 0
        let rest (u : State) : Prop := ∀ n, 0 < n → n < elems st.nlanes ty.width →
          vget (file u) st.nlanes k.rbase 0 d.val ty.width n = vget st.v st.nlanes k.rbase 0 d.val ty.width n
        let got (u : State) : Nat := vget (file u) st.nlanes k.rbase 0 d.val ty.width 0
        (e.instr = .vsum d a pg ty → ∃ u, leaves u ∧ rest u
            ∧ got u = tree (fun x y => (finish ty.fmt .rne 0 ((ty.fmt.val x).add (ty.fmt.val y))).bits) j el)
          ∧ (e.instr = .vredmax d a pg ty → ∃ u, leaves u ∧ rest u ∧ ((∀ n, n < e.pcount → ty.fmt.val (el n) = .nan) → got u = ty.fmt.nan)
            ∧ ((∃ n, n < e.pcount ∧ ty.fmt.val (el n) ≠ .nan) → ∃ n, n < e.pcount ∧ ty.fmt.val (el n) ≠ .nan ∧ got u = el n
              ∧ ∀ m, m < e.pcount → ty.fmt.val (el m) ≠ .nan → ¬below (ty.fmt.val (el n)) (ty.fmt.val (el m))))
          ∧ (e.instr = .vsumc d a pg → ty = .f32 → within 2 → ∃ u, leaves u ∧
            let r := tree sumNode j fun n => (fp32.val (el n), .num false 0 0)
            Closes (decide (∀ n, n < e.pcount → bothFinite (fp32.val (el n)) (fp32.val (el n)) = true)) r.1 r.2
              (vgetHi (file u) st.nlanes k.rbase 0 d.val 32 0) (vgetLo (file u) st.nlanes k.rbase 0 d.val 32 0)))
/-- Entries that write no V register by an element rule: VEXT and RBGET write Xd (R121, R119); RBSET leaves; VLD.L of FP32 or INT32 memory
at width 32 copies memory, VST.L leaves an access outstanding towards its bytes (R103, R104); a deferred fault holds the sequencer (R116). A VSFU at a sequencer's head asks for the SFU, which takes the first to ask into the octet's queue of 16 and later writes its results into the strand (R133, R134). An XMIT drives
its 16 bytes at its slot (R187); an armed XSEL takes the word of its source's lane, or sets XSTAT.MISS (R188). In an exchange phase a store and an XMIT
leave at the end of a cycle (R220, R272), and Xd of a VEXT or an RBGET is there after its latency (R135). DEDUCED (log 10): a VLD reads all its elements in the step that starts its entry, and a VST becomes one
access, where R92 makes each element atomic and not the whole. -/
def Obligations.SequencerEntries : Prop :=
  (∀ (s : State) (c : CoreId) (t : StrandId) (e : SeqEntry) (d a b : Reg) (pg : Fin 8) (ty : ITy) (v : BitVec 4) (x : Nat),
      let st := s.strand c.val t.val
      let k := st.ctxOf e
      let ea := vaof e.xa.ptr
      let f := fmtof e.xa.ptr
      let go (u : State) : Prop := exec (.sequencerEntryStart c t) s = .next u ∧ (u.strand c.val t.val).seq = st.seq.tail
      Starts s c.val t.val e →
      (e.instr = .vext d a b pg ty → e.xd = some x → ∃ u, go u ∧ SameMemory s u ∧ (Tab.get {} x (u.strand c.val t.val).x).val =
          (if e.pcount ≤ e.xa.val.toNat then 0 else BitVec.ofInt 64 (ty.read (k.el a ty.bits e.xa.val.toNat)))
            ∧ (Tab.get {} x (u.strand c.val t.val).x).busy = (s.core c.val).exch.active)
        ∧ (e.instr = .rbget d → e.xd = some x → ∃ u, go u
          ∧ Tab.get {} x (u.strand c.val t.val).x = { val := BitVec.ofNat 64 e.rbase, busy := (s.core c.val).exch.active })
        ∧ (e.instr = .rbset v → ∃ u, go u ∧ (u.strand c.val t.val).v = st.v ∧ (u.strand c.val t.val).x = st.x)
        ∧ ((f = 3 ∨ f = 8) → blkof e.xa.ptr = 0 → e.pwidth = 32 → ea % 4 = 0 → ea + 4 * e.pcount ≤ 0x16000 → 0 < e.pcount → s.rects = [] → s.badWords = [] →
            2 ≤ st.nlanes → st.nlanes ≤ 64 →
            let bytes := span (c.val * 0x20000 + ea) (4 * e.pcount)
            (e.instr = .vld d a pg .L → st.holdsBytes bytes = false → e.rbase < 16 →
                (d.val + groupRegs st.nlanes 32 e.pcount ≤ 16 ∨ (16 ≤ d.val ∧ d.val + groupRegs st.nlanes 32 e.pcount ≤ 32)) →
                ∃ u, go u ∧ SameMemory s u ∧ ∀ n, n < e.pcount →
                  vget (u.strand c.val t.val).v st.nlanes k.rbase 0 d.val 32 n = s.readN (c.val * 0x20000 + ea + 4 * n) 4)
              ∧ (e.instr = .vst d a pg .L → ∃ u q, exec (.sequencerEntryStart c t) s = .next u ∧
                  ((s.core c.val).exch.active = false → (u.strand c.val t.val).seq = st.seq.tail)
                  ∧ ((s.core c.val).exch.active = true → (u.strand c.val t.val).leaving = some (s.time + 2) ∧ (u.strand c.val t.val).endCycle.seq = st.seq.tail)
                  ∧ SameMemory s u ∧ (u.strand c.val t.val).out = st.out ++ [q] ∧ q.op = .store ∧ q.bytes = bytes
                  ∧ ∀ n, n < e.pcount → q.data / 2 ^ (32 * n) % 2 ^ 32 = k.el d 32 n))
        ∧ (∀ q m, e.instr = .vld d a q m → vecFormatOk e.instr f (blkof e.xa.ptr) e.pwidth = false →
            ∃ u, exec (.sequencerEntryStart c t) s = .next u ∧ (u.strand c.val t.val).seq = [] ∧ (u.strand c.val t.val).seqHeld = st.seq
              ∧ (u.strand c.val t.val).seqFault = some { code := 0x13, eva := ea } ∧ (u.strand c.val t.val).v = st.v ∧ SameMemory s u))
    ∧ (∀ (s : State) (c : CoreId) (t : StrandId) (e : SeqEntry) (d a : Reg) (pg : Fin 8) (ty : FTy) (fn : SfuFn) (slot : BitVec 13) (g : BitVec 4)
        (o : Fin 1024) (q : SfuReq) (rest : List SfuReq) (x : Armed) (w : BitVec 128),
      let st := s.strand c.val t.val
      let k := s.core c.val
      (Starts s c.val t.val e → e.instr = .vsfu d a pg ty fn → st.sfuAt = none → ∃ u, exec (.sfuRequestAccept c t) s = .next u
          ∧ (u.strand c.val t.val).sfuAt = some s.time ∧ (u.strand c.val t.val).seq = st.seq ∧ (u.strand c.val t.val).v = st.v)
        ∧ (Starts s c.val t.val e → e.instr = .vsfu d a pg ty fn → st.sfuAt.isSome = true → s.asksFirst c.val t.val = true → (s.octet (octetOf c.val)).sfu.length < 16 → ∃ u n, exec (.sfuRequestAccept c t) s = .next u
          ∧ (u.octet (octetOf c.val)).sfu = (s.octet (octetOf c.val)).sfu ++ [n] ∧ n.core = c.val ∧ n.strand = t.val ∧ n.src = st.v ∧ n.entry.instr = e.instr
          ∧ (u.strand c.val t.val).seq = st.seq.tail)
        ∧ ((s.octet o.val).sfu = q :: rest → (s.core q.core).part.occupied = true → (s.core q.core).part.launch = q.launch → (s.core q.core).part.rank = q.rank →
          ∃ u, exec (.sfuResult o) s = .next u
          ∧ (u.octet o.val).sfu = rest ∧ u.strand q.core q.strand = q.apply (s.strand q.core q.strand) ∧ SameMemory s u)
        ∧ (Starts s c.val t.val e → e.instr = .xmit slot a g → k.exch.active = true → s.xcyc c.val = slot.toNat →
          Tab.has slot.toNat k.exch.lane = false → e.rbase < 16 → ∃ u, exec (.xmitDrive c t) s = .next u
          ∧ Tab.get 0 slot.toNat (u.core c.val).exch.lane = segOf (st.vreg (phys e.rbase a.val)).val g.toNat
          ∧ (u.strand c.val t.val).leaving = some (s.time + 1) ∧ (u.strand c.val t.val).endCycle.seq = st.seq.tail)
        ∧ (k.exch.active = true → k.exch.armed = [x] → x.used = false → x.slot ≤ s.xcyc c.val → x.seg < 16 →
          (s.laneWord c.val x = some w → ∃ u, exec (.xselSample c) s = .next u ∧ (u.core c.val).endCycle.exch.armed = []
              ∧ segOf ((u.strand c.val x.strand).vreg x.reg).val x.seg = w ∧ (u.core c.val).exch.miss = k.exch.miss)
            ∧ (s.laneWord c.val x = none → ∃ u, exec (.xselSample c) s = .next u ∧ (u.core c.val).endCycle.exch.armed = [] ∧ (u.core c.val).exch.miss = true
              ∧ (u.strand c.val x.strand).v = (s.strand c.val x.strand).v)))

/-! ## Events -/

/-- The table's register writes (R54, R95, R119, R165, R184, R229): the register takes the value; a supervisor's register at user privilege takes
0x05, a refused write 0x02. -/
def Obligations.RegisterWriteEvents : Prop :=
  ∀ (s : State) (c : CoreId) (t : StrandId) (v : Word) (sel : BitVec 12) (size : Bool) (s1 : State),
    let st := s.strand c.val t.val
    let p := (s.core c.val).part
    let trap (code : Nat) : State := s.takeFault c.val t.val { code := code } false false false false st.pc
    let low := v &&& ~~~0x3F#64 = 0
    (v.toNat < 16 → st.seq.length < 16 → ∃ u e, exec (.rbaseWrite c t v) s = .next u ∧ (u.strand c.val t.val).rbase = BitVec.ofNat 4 v.toNat
        ∧ (u.strand c.val t.val).seq = st.seq ++ [e] ∧ e.instr = .rbset (BitVec.ofNat 4 v.toNat))
      ∧ (16 ≤ v.toNat → exec (.rbaseWrite c t v) s = .next (trap 0x02))
      ∧ (v.toNat < 2 ^ 17 → p.headOk (BitVec.ofNat 17 v.toNat) = true → p.overflow = [] → ∃ u, exec (.pailheadWrite c t v) s = .next u
        ∧ (u.core c.val).part.pailHead = BitVec.ofNat 17 v.toNat ∧ (u.core c.val).part.pailTail = p.pailTail ∧ SameMemory s u)
      ∧ (st.stat.sup = true → v.toNat < 2 ^ 15 → pailPlaced p.pailBase.toNat v.toNat = true →
        ∃ u, exec (.pailGeometryWrite c t true v) s = .next u ∧ (u.core c.val).part.pailSize = BitVec.ofNat 15 v.toNat)
      ∧ (st.stat.sup = true → v.toNat < 2 ^ 17 → pailPlaced v.toNat p.pailSize.toNat = true →
        ∃ u, exec (.pailGeometryWrite c t false v) s = .next u ∧ (u.core c.val).part.pailBase = BitVec.ofNat 17 v.toNat)
      ∧ (st.stat.sup = false → exec (.pailGeometryWrite c t size v) s = .next (trap 0x05))
      ∧ (v &&& ~~~0x800F07FF#64 = 0 → (s.core c.val).exch.active = false → (s.core c.val).exch.waiting = false →
        ∃ u, exec (.xsrcentWrite c t v) s = .next u ∧ Tab.get 0 st.regs.xsrcix.toNat (u.core c.val).part.xsrc = BitVec.ofNat 32 v.toNat)
      ∧ ((s.core c.val).exch.active = true → v &&& ~~~0x800F07FF#64 = 0 → exec (.xsrcentWrite c t v) s = .next s)
      ∧ (low → v.toNat % 8 ≤ 5 → v.toNat / 8 % 8 ≤ 5 → ∃ u, exec (.mscopeWrite c t v) s = .next u
        ∧ (u.strand c.val t.val).regs = { st.regs with ldasc := BitVec.ofNat 3 v.toNat, stlsc := BitVec.ofNat 3 (v.toNat / 8) })
      ∧ (low → (5 < v.toNat % 8 ∨ 5 < v.toNat / 8 % 8) → exec (.mscopeWrite c t v) s = .next (trap 0x02))
      ∧ (v = 0xC000000000000000#64 → ∃ u, exec (.engerrWrite c t v) s = .next u
        ∧ (u.strand c.val t.val).regs = { st.regs with engerr := st.regs.engerr &&& 0x3FFFFFFFFFFFFFFF#64 })
      ∧ ((selSuper sel.toNat = false ∨ st.stat.sup = true) → s.writeSel c.val t.val sel.toNat v = .ok s1 → exec (.stateRegisterWrite c t sel v) s = .next s1)
      ∧ ((selSuper sel.toNat = false ∨ st.stat.sup = true) → s.writeSel c.val t.val sel.toNat v = .bad →
        exec (.stateRegisterWrite c t sel v) s = .next (trap 0x02))
/-- A pending arrival fault is taken between bundles, with DEF set and EPC the next bundle (R253); a deferred sequencer fault with VEC set too, EPC
its entry's bundle and VRESUME.PC the next one, in a barrier as well (R116, R253); an uncorrectable error takes 0x3F (R250). A user
event's delivery (R59): the lowest code that is pending and enabled, UEVPC the next bundle, the pc at UEVEC; it comes after every fault that
is pending (R253). -/
def Obligations.DeliveryEvents : Prop :=
  ∀ (s : State) (c : CoreId) (t : StrandId) (p : Pending) (rest : List Pending) (k : Nat) (f : FaultInfo) (q : SeqEntry),
    let st := s.strand c.val t.val
    let e := (s.core c.val).exch
    let calm := st.status = .running ∧ st.inBarrier = false ∧ st.stat.sup = false
    (calm → st.seqFault = none → st.churnFault = none → st.arrivals = p :: rest → p.code < 64 → p.acc < 8 → ∃ u, exec (.faultEntry c t false) s = .next u ∧
        let n := u.strand c.val t.val
        n.regs.cause.toNat = p.code + 128 + 1024 * p.acc ∧ n.regs.eva = BitVec.ofNat 54 p.eva ∧ n.regs.epc.toNat = st.pc.toNat / 4 * 4
          ∧ n.pc.toNat = st.regs.fvec.toNat / 4 * 4 ∧ n.stat.sup = true ∧ n.arrivals = rest)
      ∧ (st.status = .running → st.stat.sup = false → st.seqFault = some f → st.churnFault = none → st.seqHeld.head? = some q → st.loop = none →
        f.code < 64 → f.acc < 8 → f.trapno = 0 → ∃ u, exec (.faultEntry c t false) s = .next u ∧
        let n := u.strand c.val t.val
        n.regs.cause.toNat = f.code + 64 * b2n q.arith + 384 + 1024 * f.acc ∧ n.regs.epc.toNat = q.pc.toNat / 4 * 4 ∧ n.stat.sup = true
          ∧ n.vresume = { pc := st.pc, pend := true, skip := st.vresume.skip } ∧ n.seqHeld = st.seqHeld ∧ n.seqFault = none)
      ∧ (st.status = .running → st.inBarrier = false →
        exec (.faultEntry c t true) s = .next (s.takeFault c.val t.val { code := 0x3F } false false false false st.pc))
      ∧ (calm → st.seqFault = none → st.churnFault = none → st.arrivals = [] → st.refusals = [] → st.yieldDue = false →
        st.stat.uev = false → st.stat.slave = false → st.regs.uevec ≠ 0 → e.active = false → e.waiting = false → 1 ≤ k → k ≤ 5 →
        (st.regs.evpend &&& st.regs.evena).getLsbD k = true → (∀ j, j < k → (st.regs.evpend &&& st.regs.evena).getLsbD j = false) →
        ∃ u, exec (.userEventDelivery c t) s = .next u ∧
          let n := u.strand c.val t.val
          n.pc = jumpAddr (st.regs.uevec.setWidth 64) ∧ n.stat.uev = true ∧ n.regs.uevpc = st.pc ∧ n.regs.uevcode.toNat = k
            ∧ n.regs.evpend = st.regs.evpend &&& ~~~(BitVec.ofNat 6 (2 ^ k)) ∧ n.asleep = none ∧ n.promote = none ∧ n.x = st.x ∧ n.stat.sup = st.stat.sup)
      ∧ ((st.regs.evpend &&& st.regs.evena).toNat = 0 → exec (.userEventDelivery c t) s = .next s)
      ∧ (calm → (st.seqFault.isSome = true ∨ st.arrivals ≠ [] ∨ st.refusals ≠ []) → st.churnFault = none → exec (.userEventDelivery c t) s = .next s)
/-- Wake-ups (R270, Table 14.8): a registered sleeper whose word can now complete completes it, as the word does; one that cannot sleeps on. RECV
gives the head slot, EVWAIT the code, LDS and LDE the loaded value once every word is full, CBWAIT ERR once REMAIN is 0, TAKE.WAIT 1 and the
record; an unregistered request registers where there is room (R97). A sleeper that found no room registers once there is some (R97); an exchange phase starts at its cycle 0, and the XPHASE completes with ARRIVE
= the stamp of its arrival (R185). -/
def Obligations.WakeEvents : Prop :=
  (∀ (s : State) (c : CoreId) (t : StrandId) (z : Sleep) (t2 : State) (d b : Reg) (k : Nat) (m : Mode) (off : BitVec 11) (bytes : List Nat)
        (r : TaskRec),
      let st := s.strand c.val t.val
      let a : State := ((s.at_ c.val t.val).setMe { st with asleep := none }).withVia (st.asleep.elim [] (·.via))
      let p := (s.core c.val).part
      let woken : State := ((t2.withoutVia (s.at_ c.val t.val) (st.asleep.elim [] (·.via))).complete c.val t.val).at_ s.curCore s.curStrand
      let wakes (i : Instr) (v : Word) (u : State) : Prop := exec i s = .next u ∧ (u.strand c.val t.val).asleep = none
        ∧ (u.strand c.val t.val).pc = st.npc ∧ (d.val ≠ 0 → (u.strand c.val t.val).xr d.val = v)
      let tasks := (s.cluster (clusterOf c.val)).tasks
      let free := st.regs.evpend &&& ~~~st.regs.evena
      st.asleep = some z → z.registered = true → z.released = false → s.fenced c.val = false →
        (sleepEff z a = .done t2 → t2.curCore = c.val → t2.curStrand = t.val → (t2.strand c.val t.val).asleep = none →
            (z.kind = .recv → exec (.recvWake c t) s = .next woken) ∧ (z.kind = .full → exec (.fullWaitWake c t) s = .next woken)
              ∧ (z.kind = .completion → exec (.cbwaitWake c t) s = .next woken) ∧ (z.kind = .event → exec (.evwaitWake c t) s = .next woken)
              ∧ (z.kind = .task → exec (.takeWaitWake c t) s = .next woken))
          ∧ (z.kind = .recv → z.arith = none → z.control = .recv d → st.stat.slave = false → p.pailHead ≠ p.pailTail → d.val ≠ 0 → ∃ u, exec (.recvWake c t) s = .next u
            ∧ (u.strand c.val t.val).asleep = none ∧ (u.strand c.val t.val).pc = st.npc
            ∧ (u.strand c.val t.val).xr d.val = BitVec.ofNat 64 (p.pailBase.toNat + p.pailHead.toNat % p.pailSize.toNat))
          ∧ (z.kind = .recv → z.arith = none → z.control = .recv d → p.pailHead = p.pailTail → exec (.recvWake c t) s = .next s)
          ∧ (z.kind = .event → z.arith = none → z.control = .evwait d → d.val ≠ 0 → 1 ≤ k → k ≤ 5 → free.getLsbD k = true →
            (∀ j, 1 ≤ j → j < k → free.getLsbD j = false) → ∃ u, exec (.evwaitWake c t) s = .next u ∧ (u.strand c.val t.val).asleep = none
              ∧ (u.strand c.val t.val).xr d.val = BitVec.ofNat 64 k ∧ (u.strand c.val t.val).regs.evpend = st.regs.evpend &&& ~~~(BitVec.ofNat 6 (2 ^ k)))
          ∧ (z.arith = none → st.stat.slave = false →
            (let f := fmtof (st.xptr b.val)
             let n := accsize f
             let ea := gEa (st.xptr b.val) off n
             let full (acc : AccKind) : Prop := z.kind = .full ∧ f ≤ 0x0C ∧ a.check c.val st.stat.sup st.regs.asid .loadStore acc m ea n n true = .ok bytes
              ∧ (∀ w ∈ wordsOf bytes, w ∉ s.empties) ∧ st.accRoom .load = true ∧ st.holdsBytes bytes = false ∧ a.vecMeets bytes = false ∧ s.badWords = []
             (z.control = .lds d b m off → full .load → ∃ u, wakes (.fullWaitWake c t) (loadVal f (s.readB bytes)) u ∧ SameMemory s u)
              ∧ (z.control = .lde d b m off → full .loadEmpty → (m ≠ .C ∨ n ≤ 4) → ∃ u, wakes (.fullWaitWake c t) (loadVal f (s.readB bytes)) u
                ∧ (∀ x, u.byteAt x = s.byteAt x) ∧ ∀ x ∈ bytes, u.isFull x = false))
              ∧ (let ea := vaof (st.xptr b.val)
                 let w := s.readN (c.val * 0x20000 + ea) 4
                 z.kind = .completion → z.control = .cbwait d b → ea % 4 = 0 → ea + 4 ≤ 0x16000 → s.rects = [] → st.out = [] → st.seq = [] → s.records = [] →
                  w % 2 ^ 24 = 0 → ∃ u, wakes (.cbwaitWake c t) (BitVec.ofNat 64 (w / 2 ^ 31 % 2)) u ∧ SameMemory s u)
              ∧ (z.kind = .task → z.control = .take d true → st.mBusy = false → tasks.find? (fun x => x.ctx == p.ctx) = some r →
                ∃ u, wakes (.takeWaitWake c t) 1 u ∧ (u.strand c.val t.val).m = r.data ∧ (u.cluster (clusterOf c.val)).tasks = tasks.erase r)))
    ∧ (∀ (s : State) (c : CoreId) (t : StrandId) (z : Sleep),
      let st := s.strand c.val t.val
      let x := (s.core c.val).exch
      (st.asleep = some z → z.registered = false → z.released = false →
          (∃ w l t2, sleepEff z (((s.at_ c.val t.val).setMe { st with asleep := none }).withVia z.via) = .sleep w l t2) →
          s.roomToWait z.kind z.words = true → ∃ u, exec (.waitRequestRetry c t) s = .next u ∧ (u.strand c.val t.val).asleep = some { z with registered := true }
            ∧ SameMemory s u ∧ (u.strand c.val t.val).x = st.x)
        ∧ (x.waiting = true → x.start ≤ s.time → x.strand = t.val → st.asleep = some z → z.arith = none → z.before = none → st.stat.slave = false →
          ∃ u, exec (.exchangePhaseStart c) s = .next u ∧ (u.core c.val).exch.waiting = false ∧ (u.core c.val).exch.active = x.active
            ∧ (u.strand c.val t.val).asleep = none ∧ (u.strand c.val t.val).pc = st.npc ∧ (u.strand c.val t.val).regs.arrive =
              BitVec.ofNat 64 (Tab.get { episode := 0, stamp := 0, open_ := false } (z.words.headD 0) st.bars).stamp)
        ∧ (x.waiting = true → s.time < x.start → exec (.exchangePhaseStart c) s = .next s))
/-- The Churn's queue (R151, R157, R158): the head starts where no check fails, is held with its fault where one does; an MPROG reads its block, and
checks it, when it starts (R149); a running entry retires with its effect: MZERO clears its tile, MSEMI and MPROG set semiring and program, MSTZ stores and MLDZ loads 256 elements, RINGDEF defines its ring,
a tile operation computes its tile and pops its rings (R142), once its strand's earlier stores there are performed (R160); a ring that starves for 1 ms takes 0x31. DEDUCED (log 10): MSTZ writes and MLDZ reads its
1 KiB in the one step of its retirement, where R153 makes only each element atomic. -/
def Obligations.ChurnEvents : Prop :=
  ∀ (s : State) (c : CoreId) (e : ChurnEntry) (rest : List ChurnEntry) (f : FaultInfo) (bytes : List Nat) (z : Fin 2) (ga gb : Fin 4) (clr : Bool)
      (r : Semiring) (x y : Reg) (a b : Ring),
    let k := s.core c.val
    let st := s.strand c.val e.strand
    let mx (u : State) : StrandMx := (u.strand c.val e.strand).mx
    let retires (u : State) : Prop := exec (.churnEntryRetire c) s = .next u ∧ (u.core c.val).churnRun = none
    let held := ∀ v, (s.strand c.val v).churnHeld = []
    let waits := k.churnRun = none ∧ k.churnQ = e :: rest ∧ k.churnMiss = none ∧ k.churnMissFault = none ∧ s.fenced c.val = false
    let ea := vaof e.pa
    let local_ (n : Nat) : Prop := ea % 128 = 0 ∧ ea + n ≤ 0x16000 ∧ s.rects = [] ∧ s.badWords = []
    (waits → held → s.tileFault c.val e = none → s.otherFormatFault c.val e = none → s.churnBytes c.val e = .ok bytes → s.churnHeldUp c.val e bytes = false →
        s.churnBad e bytes = none → (∀ q m, e.instr = .mprog q m → progOk (BitVec.ofNat 256 (s.readB bytes)) = true) →
        ∃ u n, exec (.churnEntryStart c) s = .next u ∧ (u.core c.val).churnRun = some n ∧ n = { e with since := s.time, block := n.block }
          ∧ (∀ q m, e.instr = .mprog q m → n.block = BitVec.ofNat 256 (s.readB bytes)) ∧ (u.core c.val).churnQ = rest ∧ SameMemory s u)
      ∧ (∀ q m, waits → e.instr = .mprog q m → s.churnBytes c.val e = .ok bytes → s.churnHeldUp c.val e bytes = false → s.churnBad e bytes = none →
        progOk (BitVec.ofNat 256 (s.readB bytes)) = false → ∃ u, exec (.churnEntryStart c) s = .next u ∧ (u.core c.val).churnRun = none
          ∧ (u.strand c.val e.strand).churnFault = some { code := 0x13 } ∧ (u.strand c.val e.strand).mx.prog = st.mx.prog)
      ∧ (waits → held → s.tileFault c.val e = some f → (∀ q ∈ rest, q.strand ≠ e.strand) → ∃ u, exec (.churnEntryStart c) s = .next u
        ∧ (u.core c.val).churnRun = none ∧ (u.core c.val).churnQ = rest ∧ (u.strand c.val e.strand).churnHeld = [e] ∧ (u.strand c.val e.strand).churnFault = some f
        ∧ (u.strand c.val e.strand).mx = st.mx)
      ∧ (k.churnRun = some e → held → s.fenced c.val = false → e.tab = none →
        (e.instr = .mzero z → ∃ u, retires u ∧ (mx u).tile z = {} ∧ SameMemory s u) ∧ (e.instr = .msemi r → ∃ u, retires u ∧ (mx u).semi = r)
          ∧ (∀ m, e.instr = .mprog x m → ∃ u, retires u ∧ (mx u).prog = some e.block ∧ SameMemory s u)
          ∧ (e.instr = .mstz x z .L .native → local_ 1024 → ∃ u, retires u ∧ u.readN (c.val * 0x20000 + ea) 1024 = (st.mx.tile z).bits.toNat
              ∧ SameOutside (span (c.val * 0x20000 + ea) 1024) s u ∧ mx u = st.mx)
          ∧ (e.instr = .mldz z x .L → local_ 1024 → ∃ u, retires u ∧ ((mx u).tile z).bits = BitVec.ofNat 8192 (s.readN (c.val * 0x20000 + ea) 1024)
              ∧ SameMemory s u)
          ∧ (e.instr = .ringdef ga x y .L → 0 < e.len.toNat → k.copiesToRing ga e.id = false → ∃ u g, retires u
              ∧ (u.core c.val).ring ga.val k.part.launch = some g ∧ g.ea = ea ∧ g.size = e.len.toNat ∧ g.fmt = fmtof e.pa ∧ g.head = 0 ∧ g.tail = 0)
          ∧ (e.instr = .ringdef ga x y .L → e.len = 0 → ∃ u, retires u ∧ (u.core c.val).ring ga.val k.part.launch = none)
          ∧ (ga ≠ gb → k.ring ga.val k.part.launch = some a → k.ring gb.val k.part.launch = some b → s.badWords = [] →
            let free (nb : Nat) : Prop := s.pendingMeets c.val e.strand e.id true (s.ringBytes c.val a a.head (ringNeeds ga gb nb a b).1
              ++ s.ringBytes c.val b b.head (ringNeeds ga gb nb a b).2) = false
            let ta := s.ringTileAt c.val a a.head
            let tb := s.ringTileAt c.val b b.head
            let pops (u : State) (nb : Nat) : Prop := (u.core c.val).ring ga.val k.part.launch = some { a with head := (a.head + tileBytes a.fmt) % 2 ^ 32 }
              ∧ (u.core c.val).ring gb.val k.part.launch = some { b with head := (b.head + nb * tileBytes b.fmt) % 2 ^ 32 } ∧ SameMemory s u
            (e.instr = .mma z ga gb clr → free 1 → isSparse a.fmt = false → tileBytes a.fmt ≤ a.occ → tileBytes b.fmt ≤ b.occ → ∃ u, retires u ∧ pops u 1
                ∧ (mx u).tile z = (mmaTile st.mx.semi k.dtab ta tb fun n => if clr then semiIdentity st.mx.semi else (st.mx.tile z).at_ n).1)
              ∧ (e.instr = .mrun z ga gb clr → free 1 → isSparse a.fmt = false → tileBytes a.fmt ≤ a.occ → tileBytes b.fmt ≤ b.occ → ∃ u, retires u ∧ pops u 1
                ∧ (mx u).tile z = (mrunTile (st.mx.prog.getD 0) k.dtab ta tb fun n => if clr then 0 else (st.mx.tile z).at_ n).1)
              ∧ (e.instr = .mmas z ga gb clr → free 2 → isSparse a.fmt = true → separatorOk ta.f ta.v = true → tileBytes a.fmt ≤ a.occ →
                2 * tileBytes b.fmt ≤ b.occ → ∃ u, retires u ∧ pops u 2
                ∧ (mx u).tile z = (mmasTile st.mx.semi k.dtab ta tb (s.ringTileAt c.val b (b.head + tileBytes b.fmt))
                  fun n => if clr then semiIdentity st.mx.semi else (st.mx.tile z).at_ n).1)))
      ∧ (k.churnRun = some e → s.fenced c.val = false → (s.waitsRing c.val e.instr).isSome = true → e.since + 2000000 ≤ s.time → ∃ u, exec (.ringStarved c) s = .next u
        ∧ (u.core c.val).churnRun = none ∧ (u.strand c.val e.strand).churnFault = some { code := 0x31 })
      ∧ (k.churnRun = some e → s.time < e.since + 2000000 → exec (.ringStarved c) s = .next s)
/-- An MMA of INT8 tiles under plus-times adds to each element the inner product of a strip of A with a strip of B, modulo 2^32 (R146); an
MMA.CLR starts from 0. -/
def Obligations.IntegerTiles : Prop :=
  ∀ (t : Option (BitVec 8192)) (a b : OpTile) (start : Nat → Nat) (m n : Nat), a.f = 1 → b.f = 1 → m < 16 → n < 16 → (∀ i, start i < 2 ^ 32) →
    let r := mmaTile .plusTimes t a b start
    r.1.int = true ∧ (r.1.at_ (16 * m + n) : Int) =
      ((start (16 * m + n) : Int) + ((List.range 32).map fun k => tileInt 1 a.v m k * tileInt 1 b.v n k).sum) % 2 ^ 32
/-- The copy engine (R224 to R234): a command leaves the queue and runs; a copy of one FP32 element in the TCM writes its four bytes and no other,
and ends; a CPYS whose ring is undefined records 0x30; one bound to its ring pushes a tile and advances the tail; 1 ms without room records 0x37; a finished command counts its completion
word down, sets it full, and raises event 1 under .EV; an arrival at REMAIN = 0 sets ERR and records 0x36. -/
def Obligations.CopyEvents : Prop :=
  ∀ (s : State) (c : CoreId) (q : CopyCmd) (rest : List CopyCmd) (run : CopyRun) (x y w : Reg) (g gen : Nat) (r : Ring) (strips bytes : List Nat) (seed : Word),
    let k := s.core c.val
    let at_ (p : Word) : Nat := c.val * 0x20000 + vaof p
    let word := c.val * 0x20000 + descCtl run.cmd.desc
    let old := s.readN word 4
    let regs (u : State) : StrandRegs := (u.strand c.val run.cmd.strand).regs
    let steps (u : State) (n : CopyRun) : Prop := exec (.copyCommandStart c) s = .next u ∧ (u.core c.val).engRun = some n
    let one := run.cmd.instr = .cpy x y w false false .L .L ∧ fmtof run.cmd.src = 8 ∧ fmtof run.cmd.dst = 8 ∧ (∀ j, j < 4 → descCount run.cmd.desc j = 1)
      ∧ vaof run.cmd.src % 4 = 0 ∧ vaof run.cmd.dst % 4 = 0 ∧ vaof run.cmd.src + 4 ≤ 0x16000 ∧ vaof run.cmd.dst + 4 ≤ 0x16000 ∧ s.rects = [] ∧ s.badWords = []
    s.fenced c.val = false →
    (k.engRun = none → k.engQ = q :: rest → s.copyReady c.val q = true → ∃ u n, steps u n ∧ (u.core c.val).engQ = rest
        ∧ n.cmd = q ∧ n.moved = 0 ∧ n.finished = false ∧ n.seed = q.seed ∧ n.since = s.time ∧ SameMemory s u)
      ∧ (k.engRun = some run → run.finished = false → run.bound = none → k.engMiss = none → k.engMissFault = none →
        (one → run.moved = 0 → ∃ u n, steps u n ∧ n.cmd = run.cmd ∧ n.moved = 1 ∧ n.finished = false
            ∧ u.readN (at_ run.cmd.dst) 4 = s.readN (at_ run.cmd.src) 4 ∧ SameOutside (span (at_ run.cmd.dst) 4) s u)
          ∧ (one → run.moved = 1 → ∃ u n, steps u n ∧ n.cmd = run.cmd ∧ n.finished = true ∧ n.err = none ∧ SameMemory s u)
          ∧ (∀ h a b m n l, run.cmd.instr = .cpys h a b m n l → k.ringdefsBefore h run.cmd.id = false → k.ring h.val run.cmd.launch = none →
            ∃ u n, steps u n ∧ n.finished = true ∧ n.err.map Prod.fst = some 0x30))
      ∧ (k.engRun = some run → run.finished = false → run.bound = some (g, gen) → k.ring g run.cmd.launch = some r → r.gen = gen →
        (r.occ + tileBytes r.fmt ≤ r.size → k.engMiss = none → k.engMissFault = none → s.rects = [] →
          s.pendingMeets c.val run.cmd.strand run.cmd.id false (s.ringBytes c.val r r.tail (tileBytes r.fmt)) = false →
          s.readRows c.val run.cmd r run.seed (span (run.moved * tileRows r.fmt) (tileRows r.fmt)) = .ok (strips, bytes, seed) →
          ∃ u n, exec (.cpysTilePush c) s = .next u ∧ (u.core c.val).ring g run.cmd.launch = some { r with tail := (r.tail + tileBytes r.fmt) % 2 ^ 32 }
            ∧ (u.core c.val).engRun = some n ∧ n.moved = run.moved + 1 ∧ n.cmd = run.cmd
            ∧ SameOutside (s.ringBytes c.val r r.tail (tileBytes r.fmt)) s u)
          ∧ (r.size < r.occ + tileBytes r.fmt → run.since + 2000000 ≤ s.time → ∃ u n, exec (.ringRoomTimeout c) s = .next u
            ∧ (u.core c.val).engRun = some n ∧ n.finished = true ∧ n.err = some (0x37, r.ea) ∧ SameMemory s u))
      ∧ (k.engRun = some run → run.finished = true → run.err = none →
        (old < 2 ^ 31 → old % 2 ^ 24 ≠ 0 → ∃ u, exec (.completionArrival c) s = .next u ∧ u.readN word 4 = old - 1 ∧ u.isFull word = true
            ∧ SameOutside (span word 4) s u ∧ (u.core c.val).engRun = none ∧ (regs u).engerr = (s.strand c.val run.cmd.strand).regs.engerr
            ∧ (copyEv run.cmd.instr = true → (regs u).evpend.getLsbD 1 = true ∧ (regs u).englast = BitVec.ofNat 17 (descCtl run.cmd.desc)))
          ∧ (old < 2 ^ 31 → old % 2 ^ 24 = 0 → (s.strand c.val run.cmd.strand).regs.engerr = 0 → descCtl run.cmd.desc < 2 ^ 17 →
            ∃ u, exec (.completionArrival c) s = .next u ∧ u.readN word 4 = old + 2 ^ 31
            ∧ (regs u).engerr = BitVec.ofNat 64 (2 ^ 63 + 0x36 * 2 ^ 56 + descCtl run.cmd.desc)))
/-- Messages and posts on their way (R166, R170, R171, R175, R246): an accepted message stands at the tail slot of its pail, one that finds it full in
the overflow ring, one that finds that full is refused for room and leaves again after 256 cycles; an acknowledgement frees the
sender's buffer; a refusal reaches the sender's queue; a message forwarded to a core behind a fence is refused with 0x16; a post joins its cluster's
queue, from which the records of ended contexts are gone by then (log 70, DESIGN CHOICE). A register send's arrival (R178, Table 8.4): a stale capability is refused with 0x20; a full register without WM gives the strand 0x22; else the
register takes the value and is full; one to X24 to X27 lands in the shadow register under UEV (log 24, DEDUCED). -/
def Obligations.MessageEvents : Prop :=
  (∀ (s : State) (f : Flit) (c : Nat) (at_ code : Nat),
      let p := (s.core c).part
      let slot := c * 0x20000 + p.pailBase.toNat + p.pailTail.toNat % p.pailSize.toNat
      let m : Msg := { data := f.data, core := f.src, strand := f.strand, id := f.id, rel := f.rel }
      let live := s.liveTasks f.dst
      s.flit f.id = some f →
        ((f.kind = 2 ∨ f.kind = 3) → s.arrivalGate f = some none → s.targetOf f f.dst = .resident c → s.forwardFenced f c = true →
            ∃ u, exec (.messageAccept f.id) s = .next u ∧ (u.flit f.id).map (·.state) = some (.refused 0x16) ∧ SameMemory s u)
          ∧ ((f.kind = 2 ∨ f.kind = 3) → s.arrivalGate f = some none → s.targetOf f f.dst = .resident c → s.forwardFenced f c = false → p.done = false →
          (p.overflow = [] → p.occupancy ≠ p.pailSize.toNat → ∃ u, exec (.messageAccept f.id) s = .next u ∧ (u.core c).part.pailTail = p.pailTail + 64
              ∧ u.readN slot 64 = f.data.toNat ∧ SameOutside (span slot 64) s u ∧ (∀ b ∈ span slot 64, u.isFull b = true) ∧ (u.flit f.id).map (·.state) = some .acked)
            ∧ (p.occupancy = p.pailSize.toNat → p.overflow.length < 64 → ∃ u, exec (.messageAccept f.id) s = .next u ∧ (u.core c).part.overflow = p.overflow ++ [m]
              ∧ SameMemory s u ∧ (u.flit f.id).map (·.state) = some .acked)
            ∧ (64 ≤ p.overflow.length → ∃ u, exec (.messageAccept f.id) s = .next u ∧ (u.flit f.id).map (·.state) = some (.refusedRoom s.time) ∧ SameMemory s u))
          ∧ (f.state = .refusedRoom at_ → at_ + 256 ≤ s.time → ∃ u, exec (.messageResend f.id) s = .next u ∧ (u.flit f.id).map (·.state) = some .inFlight)
          ∧ (f.state = .refusedRoom at_ → s.time < at_ + 256 → exec (.messageResend f.id) s = .next s)
          ∧ (f.state = .acked → s.senderOf f = .resident c → ∃ u, exec (.sendAcknowledge f.id) s = .next u ∧ u.flit f.id = none
            ∧ u.strand c f.strand = (s.strand c f.strand).freeSend f ∧ SameMemory s u)
          ∧ (f.state = .refused code → s.senderOf f = .resident c → ∃ u, exec (.sendRefusal f.id) s = .next u ∧ u.flit f.id = none
            ∧ (u.strand c f.strand).refusals = (s.strand c f.strand).refusals ++ [{ code := code, eva := f.refusalEva, rsfail := some f.target }])
          ∧ (f.kind = 4 → s.arrivalGate f = some none → live.length < 4096 → ∃ u, exec (.postDelivery f.id) s = .next u
            ∧ (u.cluster f.dst).tasks = live ++ [{ ctx := f.ctx, data := f.data, rel := f.rel }] ∧ (u.flit f.id).map (·.state) = some .acked)
          ∧ (f.kind = 4 → s.arrivalGate f = some none → 4096 ≤ live.length → ∃ u, exec (.postDelivery f.id) s = .next u
            ∧ (u.flit f.id).map (·.state) = some (.refusedRoom s.time)))
    ∧ (∀ (s : State) (f : Flit) (c : Nat),
      let t := s.targetStrand f f.dst (capStrand f.target)
      let st := s.strand c t
      let reg := f.target.toNat / 2 ^ 41 % 32
      let many := f.target.toNat / 2 ^ 40 % 2
      s.flit f.id = some f → f.kind = 1 → s.arrivalGate f = some none → s.targetOf f f.dst = .resident c → s.forwardFenced f c = false →
      (s.core c).part.done = false →
        (BitVec.ofNat 16 (f.target.toNat / 2 ^ 24) ≠ st.regs.capgen → ∃ u, exec (.registerArrival f.id) s = .next u
            ∧ (u.flit f.id).map (·.state) = some (.refused 0x20) ∧ u.strand c t = st)
          ∧ (BitVec.ofNat 16 (f.target.toNat / 2 ^ 24) = st.regs.capgen → st.status = .running →
            ((st.xreg reg).full = true → many = 0 → ∃ u, exec (.registerArrival f.id) s = .next u
              ∧ (u.strand c t).arrivals = st.arrivals ++ [{ code := 0x22, eva := reg }] ∧ (u.strand c t).xreg reg = st.xreg reg)
            ∧ (((st.xreg reg).full = false ∨ many = 1) → 0 < reg → ∃ u, exec (.registerArrival f.id) s = .next u
              ∧ ((u.strand c t).xreg reg).val = f.data.setWidth 64 ∧ ((u.strand c t).xreg reg).full = true
              ∧ ((u.strand c t).xreg reg).mark = decide ((f.data.setWidth 64).toNat / 2 ^ 58 ≠ 0) ∧ (u.flit f.id).map (·.state) = some .acked ∧ SameMemory s u)))
/-- Accesses that the fabric ends or repeats (R164, R204, R205, R313, log 45): an error and a peer without a port end the access, nothing written, and reach
the strand between bundles; a detected link error makes the request of an atomic that has left its core leave again; a partial packet is NACKed and resent. -/
def Obligations.AccessFaultEvents : Prop :=
  ∀ (s : State) (c : CoreId) (t : StrandId) (a : Access) (f : FaultInfo),
    let st := s.strand c.val t.val
    let ended (u : State) (g : FaultInfo) : Prop := (u.strand c.val t.val).access a.id = none ∧ SameMemory s u
      ∧ (u.strand c.val t.val).arrivals = st.arrivals ++ [{ code := g.code, eva := g.eva, acc := g.acc }]
    (st.access a.id = some a → a.err = some f → ∃ u, exec (.accessReply c t a.id) s = .next u ∧ ended u f)
      ∧ (st.access a.id = some a → a.performed = false → a.bytes.any s.peerDown = true → max a.since s.portsDown + 128000 ≤ s.time →
        ∃ u, exec (.peerNoPortTimeout c t a.id) s = .next u ∧ ended u { code := 0x1E, acc := a.op.acc, eva := a.ea })
      ∧ (st.access a.id = some a → s.time < max a.since s.portsDown + 128000 → exec (.peerNoPortTimeout c t a.id) s = .next s)
      ∧ (st.access a.id = some a → ∃ u, exec (.detectedLinkError a.id) s = .next u ∧ SameMemory s u ∧ (u.strand c.val t.val).access a.id
        = some (if a.leaves c.val = true then { a with performed := false, resent := a.resent || a.performed } else a))
      ∧ (s.splitAccess a.id = true → a.id ∉ s.nacked → ∃ u, exec (.reassemblyTimeout a.id) s = .next u ∧ u.nacked = s.nacked ++ [a.id] ∧ SameMemory s u)
      ∧ (a.id ∈ s.nacked → ∃ u, exec (.nackResend a.id) s = .next u ∧ a.id ∉ u.nacked ∧ SameMemory s u)
      ∧ (a.id ∉ s.nacked → exec (.nackResend a.id) s = .next s)
/-- Power and speed (R13 to R15, R110, R293 to R296; amounts of log 22): a rail settles at its target, and in a raise the clocks step up after it; a
lowering re-measurement takes effect at once in CGEN, and its clock within 50 µs; a lane takes its points; the instants of R293 and R295 set
requests, budgets, by what the period has measured and the event adds, and permit rates. -/
def Obligations.PowerEvents : Prop :=
  ∀ (s : State) (c : CoreId) (q : Fin 2048) (cvf cvl pts : BitVec 128) (f l : List Nat) (o : Fin 1024) (j : Fin 128) (v d bw st est : Nat) (p : Fin 4) (tj : Int),
    let k := (s.core c.val).curve
    let curve (u : State) : Curve := (u.core c.val).curve
    let pm := 350 + max (550 * min (s.meter.bytes + bw) 2690000000 / 2690000000)
      (550 * min (s.meter.stalled + st) s.meter.clocked / max s.meter.clocked 1)
    let cls := s.spent.top p.val
    let rail := s.rail q.val
    (pointsOf cvf = some f → pointsOf cvl = some l → someBelow f k.cvf = true → (s.core c.val).exch.active = false → ∃ u, exec (.remeasurement c cvf cvl) s = .next u
        ∧ (curve u).cvf = f ∧ (curve u).cvl = l ∧ (curve u).cgen = k.cgen + 1 ∧ (curve u).due = some (min (s.time + 100000) (k.due.getD (s.time + 100000))))
      ∧ (k.due = some d → d ≤ s.time → ∃ u, exec (.curveUpdateTimeout c) s = .next u ∧ (curve u).due = none ∧ (curve u).cvf = k.cvf
        ∧ (u.rail (quadOf c.val)).volt = (s.rail (quadOf c.val)).volt)
      ∧ (k.due = some d → s.time < d → exec (.curveUpdateTimeout c) s = .next s)
      ∧ (pointsOf pts = some l → ∃ u, exec (.laneRemeasurement o j pts) s = .next u ∧ ((u.octet o.val).lane j.val).pts = l
        ∧ ((u.octet o.val).lane j.val).owner = ((s.octet o.val).lane j.val).owner ∧ SameMemory s u)
      ∧ (k.laneDue = some d → ∃ u, exec (.laneCapApply c) s = .next u ∧ (curve u).laneDue = none ∧ (curve u).cfreq = k.cfreq)
      ∧ (s.time % 20000 = 0 → s.lastTick ≠ s.time → ∃ u, exec .powerControlTick s = .next u ∧ u.lastTick = s.time ∧ SameMemory s u
        ∧ (Tab.has c.val s.cores = true → (s.core c.val).part.occupied = false → (curve u).request = 0))
      ∧ (s.time % 20000 ≠ 0 → exec .powerControlTick s = .next s)
      ∧ (rail.stepUp = false → rail.target = some v → ∃ u, exec (.railSettle q) s = .next u ∧ (u.rail q.val).volt = v
        ∧ (rail.volt < v → (u.rail q.val).stepUp = true ∧ (u.rail q.val).target = none ∧ (curve u).cfreq = k.cfreq))
      ∧ (rail.stepUp = true → ∃ u, exec (.railSettle q) s = .next u ∧ (u.rail q.val).volt = rail.volt ∧ (u.rail q.val).stepUp = false)
      ∧ (rail.stepUp = false → rail.target = none → exec (.railSettle q) s = .next s)
      ∧ (s.time % 200000 = 0 → s.lastBudget ≠ s.time → ∃ u, exec (.budgetTick bw st est p) s = .next u ∧ u.budgetMem = pm ∧ u.budgetArray = 3000 - pm
        ∧ u.meter = {} ∧ u.lastBudget = s.time
        ∧ (Tab.has c.val s.cores = true → s.arrayPower + est ≤ 1000 * u.budgetArray → (u.core c.val).throttled = false)
        ∧ (Tab.has c.val s.cores = true → 1000 * u.budgetArray < s.arrayPower + est → (u.core c.val).rate cls = max ((s.core c.val).rate cls / 2) 1))
      ∧ (s.time % 200000 ≠ 0 → exec (.budgetTick bw st est p) s = .next s)
      ∧ (∃ u, exec (.junctionSample c tj) s = .next u ∧ (curve u).tj = tj ∧ (105 < tj → (curve u).heating = true) ∧ (tj < 100 → (curve u).heating = false))
/-- The host port (R309 to R311, R313): SUBHI in sequence joins the FIFO of 4,096, a repeat counts DUP, a gap sets GAP; SUBSTAT clears; BAR0 registers
are written and read (SUBLO and SUBHI read 0, R6); BAR2 reads and writes where the supervisor has mapped it; a peer reads, writes and does
the atomics of Table 9.6 while a port is up; event entries are written at EQTAIL; a submission is taken where there is a standby, or
rejected with its reason. BAR2 as a list of mapped ranges, with nothing reached elsewhere and no atomics, is log 67 (DESIGN CHOICE); that an access which
ends in an error returns 0 is log 77 (DESIGN CHOICE). -/
def Obligations.HostEvents : Prop :=
  ∀ (s : State) (req pa n : Nat) (off : BitVec 36) (v cmp : Word) (k : Fin 9) (ak : AtomicKind) (narrow un : Bool) (bytes : List Nat) (o : Fin 64)
      (p : Fin 16) (op : RemoteOp) (e : BitVec 256) (rest : List (BitVec 256))
      (sub : Word) (cx : BitVec 16) (sq : BitVec 32) (fifo : List (Word × BitVec 16 × BitVec 32)) (rd : PacketRead),
    let h := s.host
    let q := BitVec.ofNat 32 v.toNat
    let slot := h.eqbase.toNat / 64 * 64 + h.eqtail.toNat % h.ring * 32
    let a := sub.toNat % 2 ^ 54
    let packet := Packet.ofBits (if sub.getLsbD 63 then s.readN a 128 else s.hostRead a 128)
    let own (m : Nat) : Prop := s.ports ≠ 0 ∧ (∀ b ∈ span pa m, ownRegion b ≠ .hole) ∧ s.remoteOk (span pa m) = true
    let clean (l : List Nat) (x : Nat) : Nat := if s.badIn l = none then x else 0
    let size := if narrow then 4 else 8
    let old := s.readN pa size
    let new := atomicNew (atomicInstr ak) (8 * size) un old (v.toNat % 2 ^ (8 * size)) (cmp.toNat % 2 ^ (8 * size))
    (q = h.nextSeq → h.fifo.length < 4096 → ∃ u, exec (.submissionCommit req v) s = .next u ∧ u.host.nextSeq = h.nextSeq + 1
        ∧ u.host.fifo = h.fifo ++ [(Tab.get 0 req h.sublo, BitVec.ofNat 16 (v.toNat / 2 ^ 32), q)])
      ∧ (q = h.nextSeq → 4096 ≤ h.fifo.length → ∃ u, exec (.submissionCommit req v) s = .next u ∧ u.host.fifo = h.fifo ∧ u.host.full = true)
      ∧ (q ≠ h.nextSeq → (h.nextSeq - q).toNat < 2 ^ 31 → ∃ u, exec (.submissionCommit req v) s = .next u ∧ u.host = { h with dup := sat12 h.dup })
      ∧ (2 ^ 31 ≤ (h.nextSeq - q).toNat → ∃ u, exec (.submissionCommit req v) s = .next u ∧ u.host = { h with gap := true })
      ∧ (∃ u, exec (.substatWrite 0xFFFFFFFF) s = .next u ∧ u.host = { h with drop := 0, dup := 0, gap := false, full := false })
      ∧ (∃ u, exec (.substatWrite 0) s = .next u ∧ u.host = h)
      ∧ (∃ u, exec (.eqheadWrite v) s = .next u ∧ u.host = { h with eqhead := q })
      ∧ (∃ u, exec (.bar0RegisterWrite req 0x0000 v) s = .next u ∧ u.host = { h with sublo := Tab.put req v h.sublo })
      ∧ exec (.bar0RegisterWrite req 0x0008 v) s = exec (.submissionCommit req v) s ∧ exec (.bar0RegisterWrite req 0x0010 v) s = exec (.substatWrite v) s
      ∧ exec (.bar0RegisterWrite req 0x0028 v) s = exec (.eqheadWrite v) s
      ∧ s.readBar0 0x0000 = 0 ∧ s.readBar0 0x0008 = 0 ∧ s.readBar0 0x0028 = h.eqhead.setWidth 64 ∧ s.readBar0 0x0030 = h.eqtail.setWidth 64
      ∧ (placeAll h.bar2Byte (span off.toNat k.val) = some bytes → s.remoteOk bytes = true →
        (∃ u, exec (.hostBar2Access off (.read k)) s = .next u ∧ u.host.readData = clean bytes (s.readB bytes) ∧ SameMemory s u)
          ∧ (bytes.Nodup → ∃ u, exec (.hostBar2Access off (.write k v)) s = .next u ∧ u.readB bytes = v.toNat % 256 ^ k.val ∧ SameOutside bytes s u))
      ∧ (placeAll h.bar2Byte (span off.toNat k.val) = none →
        exec (.hostBar2Access off (.read k)) s = .next s ∧ exec (.hostBar2Access off (.write k v)) s = .next s)
      ∧ exec (.hostBar2Access off (.atomic ak narrow un v cmp)) s = .next s
      ∧ (own k.val → (∃ u, exec (.peerRequest o pa (.read k)) s = .next u ∧ Tab.get 0 o.val u.host.peerData = clean (span pa k.val) (s.readN pa k.val)
          ∧ SameMemory s u)
        ∧ (∃ u, exec (.peerRequest o pa (.write k v)) s = .next u ∧ u.readN pa k.val = v.toNat % 256 ^ k.val ∧ SameOutside (span pa k.val) s u))
      ∧ (own size → pa % size = 0 → s.badIn (span pa size) ≠ none → ∃ u, exec (.peerRequest o pa (.atomic ak narrow un v cmp)) s = .next u
        ∧ Tab.get 0 o.val u.host.peerData = 0 ∧ SameMemory s u)
      ∧ (own size → pa % size = 0 → s.badIn (span pa size) = none → ∃ u, exec (.peerRequest o pa (.atomic ak narrow un v cmp)) s = .next u ∧ Tab.get 0 o.val u.host.peerData = old
        ∧ u.readN pa size = (if new.2 then new.1 % 256 ^ size else old) ∧ SameOutside (span pa size) s u)
      ∧ (s.ports = 0 → exec (.peerRequest o pa op) s = .next s)
      ∧ (∃ u, exec (.linkPortDown p) s = .next u ∧ u.ports.getLsbD p.val = false ∧ (∀ j, j ≠ p.val → u.ports.getLsbD j = s.ports.getLsbD j)
        ∧ (s.ports ≠ 0 → u.ports = 0 → u.portsDown = s.time))
      ∧ (∃ u, exec (.linkPortUp p) s = .next u ∧ u.ports.getLsbD p.val = true ∧ ∀ j, j ≠ p.val → u.ports.getLsbD j = s.ports.getLsbD j)
      ∧ (h.hold = e :: rest → (h.eqtail - h.eqhead).toNat < h.ring → h.eqbase ≠ 0 → h.store = [] → ∃ u, exec .eventQueueWrite s = .next u
        ∧ u.hostRead slot 32 = e.toNat ∧ u.host.eqtail = h.eqtail + 1 ∧ u.host.hold = rest ∧ (h.eqtail = h.eqhead → Tab.get 0 0 u.host.msix = Tab.get 0 0 h.msix + 1)
        ∧ SameMemory s u)
      ∧ (h.hold = [] → exec .eventQueueWrite s = .next s)
      ∧ (h.fifo = (sub, cx, sq) :: fifo → s.control.step = 7 → s.control.standby = true → h.store = [] → h.keptFull = false →
        (s.rejectReason sub rd = n → 0 < n → n < 256 → ∃ u x, exec (.submissionTake rd) s = .next u ∧ u.host.fifo = fifo ∧ u.host.hold = h.hold ++ [x]
            ∧ x.toNat = 5 + sq.toNat * 2 ^ 8 + cx.toNat * 2 ^ 40 + n * 2 ^ 56 + sub.toNat * 2 ^ 64)
          ∧ (s.rejectReason sub rd = 0 → s.complAddr cx.toNat packet = some pa → s.packetCode cx.toNat packet = 0 → ∃ u l, exec (.submissionTake rd) s = .next u
            ∧ u.launch? s.nextLaunch = some l ∧ l.packet = packet ∧ l.ctx = cx.toNat ∧ l.released = false
            ∧ (u.ctx cx.toNat).queue = (s.ctx cx.toNat).queue ++ [s.nextLaunch] ∧ u.nextLaunch = s.nextLaunch + 1)
          ∧ (s.rejectReason sub rd = 0 → s.complAddr cx.toNat packet = some pa → s.packetCode cx.toNat packet = n → 0 < n → ∃ u l,
            exec (.submissionTake rd) s = .next u ∧ u.launch? s.nextLaunch = some l ∧ l.refused = n ∧ l.complete = true ∧ l.flags.getLsbD 0 = true))
      ∧ (s.control.standby = false → exec (.submissionTake rd) s = .next s)
/-- Launches (R278, R279, R280, R285, R288, R291, R244): a release keeps an image copy for each die with members, in `Launch.copies` and in no byte of a
vat (log 4, the model's choice), and places every member as R279 says, on its core's usable strands in rising number (log 28, the model's
reading); a failed dependence refuses it with code 4; a member's task ends, drained and charged, and is counted; one in the monitor for a cause is
ended by it (log 54, the model's choice); no task ends or replays on a fenced core, nor ends where the other core of its DUAL pair is fenced; the timeout flags the launch and ends its tasks; an exhausted die takes
half of the richest die's items; a replay goes on record by record, waits for the lanes that it has asked for, stops with 0x34 at a recorded word
that is no instruction (log 81, the model's choice), and ends at END. -/
def Obligations.LaunchEvents : Prop :=
  ∀ (s : State) (id : Nat) (l : Launch) (c : CoreId) (members : List (Nat × Nat)) (r m stage t code v left : Nat) (d : Fin 4) (z : Fin 2) (g : RecGroup),
    let p := (s.core c.val).part
    let ready := s.launch? id = some l ∧ s.control.step = 7 ∧ s.control.stopped = false ∧ s.eligibleLaunch id l = true ∧ s.unavailable l.ctx l.packet = false
    let tape := p.tape.seg.recs.drop p.tape.next
    let opd := p.tape.seg.operandOf fun i => Tab.get 0 i p.tape.args
    let t0 := (p.strands.head?.map (·.1)).getD 0
    let word (d : Nat) : Nat := rangeWord l.rangeSlot d
    let x := s.readN (word v) 8
    let mid := wordNext x + (left + 1) / 2
    (ready → s.depFailed l.packet.dep0 = false → s.depFailed l.packet.dep1 = false → s.nextRelease = some id → s.pick l = some members → l.packet.dual = false →
        l.reruns = [] → l.restart = false → l.packet.tape = 0 → l.packet.convoy = false → (members.map (·.1)).Nodup → ∃ u n, exec (.launchRelease id) s = .next u ∧ u.launch? id = some n
          ∧ n.released = true ∧ n.releaseTime = s.time ∧ n.members.map (fun y => (y.core, y.stage)) = members
          ∧ (d.val ∈ diesOf (members.map (·.1)) → Tab.get 0 d.val n.copies = s.imageOf l)
          ∧ (members[r]? = some (m, stage) → t ∈ (s.core m).test.strands.take (l.packet.strands + 1) →
            let q := (u.core m).part
            let st := u.strand m t
            q.resident = true ∧ q.launch = id ∧ q.ctx = l.ctx ∧ q.rank = r ∧ q.nstr = l.packet.strands + 1 ∧ st.status = .running ∧ st.stat.sup = false
              ∧ st.pc = BitVec.ofNat 54 (l.packet.image + l.packet.entry) ∧ st.xr 31 = BitVec.ofNat 64 (0x16000 - 0x800 * t) ∧ st.ycnt = 0
              ∧ st.seed = l.packet.pseed ^^^ BitVec.ofNat 64 (4 * r + t) ∧ st.regs.rank = BitVec.ofNat 32 r ∧ st.regs.gsize = BitVec.ofNat 32 members.length))
      ∧ (ready → l.reruns = [] → s.partnerGone l = false → s.depFailed l.packet.dep0 = true → ∃ u n, exec (.launchRelease id) s = .next u ∧ u.launch? id = some n ∧ n.complete = true ∧ n.refused = 4
        ∧ n.flags.getLsbD 0 = true)
      ∧ (s.launch? id = none → exec (.launchRelease id) s = .next s)
      ∧ (s.pairFenced c.val = true → exec (.taskEnd c) s = .next s) ∧ (p.allEnded = true → p.charged = true → exec (.taskEnd c) s = .next s)
      ∧ (p.occupied = true → p.mirror = false → s.pairFenced c.val = false → p.allEnded = true → s.drained c.val = true → p.charged = false → s.launch? p.launch = some l → ∃ u n, exec (.taskEnd c) s = .next u
        ∧ (u.core c.val).part.done = true ∧ u.launch? p.launch = some n ∧ n.count = l.count + 1
        ∧ (p.cause.isSome = true → n.flags.getLsbD 0 = true) ∧ (l.members.length ≤ l.count + 1 → n.complete = true))
      ∧ (p.occupied = true → p.mirror = false → p.allEnded = false → s.pairFenced c.val = false → p.monitorCause = some code → ∃ u, exec (.taskEnd c) s = .next u
        ∧ (u.core c.val).part.allEnded = true ∧ (u.core c.val).part.taskFault = some (p.taskFault.getD code))
      ∧ (s.launch? id = some l → l.released = true → l.complete = false → l.packet.timeout ≠ 0 → l.releaseTime + 2000000 * l.packet.timeout ≤ s.time →
        l.flags.getLsbD 2 = false → ∃ u n, exec (.launchTimeout id) s = .next u ∧ u.launch? id = some n ∧ n.flags.getLsbD 0 = true ∧ n.flags.getLsbD 2 = true
          ∧ (r < l.members.length → s.memberAt id r = .resident c.val → (u.core c.val).part.allEnded = true))
      ∧ (s.launch? id = some l → s.time < l.releaseTime + 2000000 * l.packet.timeout → exec (.launchTimeout id) s = .next s)
      ∧ (s.launch? id = some l → l.released = true → l.complete = false → l.packet.steals = true → d.val ∈ l.dies →
        l.rangeSlot < 8192 → s.readN (word d.val) 8 ≠ doneWord → wordEnd (s.readN (word d.val) 8) ≤ wordNext (s.readN (word d.val) 8) →
        s.richest l.rangeSlot d.val l.dies = some (v, left) → 2 ≤ left → ∃ u, exec (.stealReport id d) s = .next u
          ∧ u.readN (word v) 8 = wordNext x + mid * 2 ^ 32 ∧ u.readN (word d.val) 8 = mid + wordEnd x * 2 ^ 32)
      ∧ (p.tape.mode = 2 → s.fenced c.val = true → exec (.replayRecord c) s = .next s)
      ∧ (p.occupied = true → p.tape.mode = 2 → (s.strand c.val t0).status = .running → s.fenced c.val = false → (s.strand c.val t0).churnFault = none → (s.strand c.val t0).seqFault = none →
        (s.strand c.val t0).missFault = none → (s.strand c.val t0).miss = none → (s.strand c.val t0).claim ≠ none → exec (.replayRecord c) s = .next s)
      ∧ (p.occupied = true → p.tape.mode = 2 → (s.strand c.val t0).status = .running → s.fenced c.val = false → (s.strand c.val t0).churnFault = none → (s.strand c.val t0).seqFault = none →
        (s.strand c.val t0).missFault = none → (s.strand c.val t0).miss = none → (s.strand c.val t0).claim = none →
        ((tape = [] ∨ tape.head?.map (·.kind) = some 7) → ∃ u, exec (.replayRecord c) s = .next u ∧ (u.strand c.val t0).status = .ended)
          ∧ (groupAt opd tape = some g → g.head.kind = 1 → g.instr = none → ∃ u, exec (.replayRecord c) s = .next u ∧ (u.strand c.val t0).status = .ended
            ∧ (u.core c.val).part.taskFault = some (p.taskFault.getD 0x34))
          ∧ (groupAt opd tape = some g → g.head.kind = 1 → g.instr = some (.mzero z) → g.head.pair = false → (s.core c.val).churnQ.length < 2 →
            ∃ u q, exec (.replayRecord c) s = .next u ∧ (u.core c.val).churnQ = (s.core c.val).churnQ ++ [q] ∧ q.instr = .mzero z
              ∧ (u.core c.val).part.tape.next = p.tape.next + g.size))
/-- Contexts and translation (R258, R261, R263, R266, R268, R269, R292): a marked part whose strands are all held, drained and charged, is saved and leaves
its core, none from a fenced one; the scheduler acts on a curve notification first, which marks a part of FAST or FRUGAL that its core's new points cannot
bring to MINF (when it does is log 76, DESIGN CHOICE); one that is to migrate is saved where a core takes it, and else its strands run on with the mark; it is restored
only on the core that R292 selects; holds lift after 20 µs; a save image is restored with its registers, on its core's usable strands in rising number, and with its XSTAT; at the end of a
forwarding window CAPGEN increases and every empty register becomes full; the walker queue's requests are answered by an entry or a
fault; a shootdown leaves no selected entry. -/
def Obligations.ContextEvents : Prop :=
  ∀ (s : State) (c : CoreId) (t : StrandId) (i : Nat) (im : Image) (q : MissReq) (k : TlbKind) (b : BitVec 128) (e : TlbEntry) (cl : Fin 256)
      (asid : BitVec 16) (lo hi : VAddr) (old : Strand) (u0 j a k' : Nat) (l : Launch),
    let p := (s.core c.val).part
    let w := s.cluster (clusterOf c.val)
    let same (x : Part) : Bool := x.launch == im.part.launch && x.rank == im.part.rank
    let n := s.numberAt same u0 (s.newNumber im u0 t.val) 8
    let asks := (s.cluster cl.val).walker = [q] ∧ q.who = .scalar ∧ q.kind = .loadStore ∧ q.core = c.val ∧ q.strand = t.val
      ∧ (s.strand c.val t.val).miss = some q
    let leaves := p.occupied = true ∧ p.mirror = false ∧ p.marked = true ∧ p.allHeld = true ∧ s.drained c.val = true ∧ p.charged = false
      ∧ s.pairFenced c.val = false ∧ p.partner = none ∧ (s.core c.val).curve.notified = false
    let save := s.save c.val
    (leaves → (p.migrate = true → (save.2.migrateTo save.1).isSome = true) → ∃ u n, exec (.contextSwitchOut c) s = .next u
        ∧ (u.core c.val).part.resident = false ∧ u.image? s.nextId = some n ∧ n.oldCore = c.val ∧ n.restored = none ∧ n.part.launch = p.launch ∧ n.part.rank = p.rank
        ∧ n.part.migrate = p.migrate ∧ (Tab.get {} t.val n.part.strands).x = (s.strand c.val t.val).x ∧ (Tab.get {} t.val n.part.strands).pc = (s.strand c.val t.val).pc)
      ∧ (leaves → p.migrate = true → save.2.migrateTo save.1 = none → ∃ u, exec (.contextSwitchOut c) s = .next u ∧ (u.core c.val).part = p.runOn
        ∧ u.images = s.images ∧ SameMemory s u)
      ∧ ((s.core c.val).curve.notified = false → p.marked = false ∨ s.pairFenced c.val = true ∨ p.charged = true → exec (.contextSwitchOut c) s = .next s)
      ∧ ((s.core c.val).curve.notified = true → ∃ u, exec (.contextSwitchOut c) s = .next u ∧ (u.core c.val).curve.notified = false ∧ SameMemory s u
        ∧ (p.occupied = true → p.mirror = false → s.launch? p.launch = some l → l.packet.sel ≠ 0 → l.packet.sel ≠ 1 →
          Curve.speed { (s.core c.val).curve with cfreq := curvef (s.core c.val).curve.cvf 950 } < l.packet.minf →
          (u.core c.val).part.marked = true ∧ (u.core c.val).part.migrate = true
            ∧ (Tab.has t.val p.strands = true → (u.strand c.val t.val).regs.evpend.getLsbD 4 = true)))
      ∧ (Tab.has t.val p.strands = true → (s.strand c.val t.val).status = .held → (s.strand c.val t.val).heldAt + 40000 ≤ s.time → p.allHeld = false →
        s.pairFenced c.val = false → ∃ u, exec (.holdTimeout c) s = .next u ∧ (u.core c.val).part.marked = false ∧ (u.strand c.val t.val).status = .running)
      ∧ (s.image? i = some im → im.restored = none → (im.part.migrate = true → s.migrateTo im = some c.val) → s.inMap c.val = true → s.placeOk im c.val = true → s.sfuLanded im = true → s.takesSave im c.val = true →
        s.lanesFit im c.val = true → ∃ u, exec (.contextRestore i c) s = .next u ∧ (u.core c.val).part.launch = im.part.launch
          ∧ (u.core c.val).part.rank = im.part.rank ∧ (u.core c.val).exch = im.exch
          ∧ ((im.part.strands.map (·.1)).Nodup → im.part.strands[j]? = some (a, old) → (s.core c.val).test.strands[j]? = some k' →
            (u.strand c.val k').x = old.x ∧ (u.strand c.val k').pc = old.pc)
          ∧ (c.val ≠ im.oldCore → (u.image? i).map (·.restored) = some (some c.val)))
      ∧ (s.image? i = some im → im.part.migrate = true → s.inMap c.val = true → s.placeOk im c.val = true → s.migrateTo im ≠ some c.val →
        exec (.contextRestore i c) s = .next s)
      ∧ (s.image? i = some im → im.restored = some u0 → im.closed = false → im.until_ ≤ s.time → im.part.strands = [(t.val, old)] →
        s.findPart same u0 8 = .resident c.val → ∃ u, exec (.forwardingWindowEnd i) s = .next u
          ∧ (u.image? i).map (·.closed) = some true ∧ (u.strand c.val n).regs.capgen = (s.strand c.val n).regs.capgen + 1
          ∧ (∀ y ∈ (u.strand c.val n).x, y.2.full = true) ∧ ∀ y ∈ (u.strand c.val n).v, y.2.full = true)
      ∧ (w.overflow.find? (fun x => x.core == c.val && x.kind == k && x.strand == t.val) = some q → w.walker = [] → ∃ u, exec (.walkerQueueRetry c k t) s = .next u
        ∧ (u.cluster (clusterOf c.val)).walker = [q] ∧ (u.cluster (clusterOf c.val)).overflow = w.overflow.erase q)
      ∧ (asks → entryOf b = some e → ∃ u, exec (.tscReply cl (.entry b)) s = .next u ∧ (u.strand c.val t.val).miss = none
        ∧ (u.strand c.val t.val).missFault = none ∧ (u.core c.val).tlbLS.head? = some e ∧ (u.cluster cl.val).walker = [] ∧ (u.cluster cl.val).tscDown = false)
      ∧ (asks → ∃ u, exec (.tscReply cl .noMapping) s = .next u ∧ (u.strand c.val t.val).miss = none
        ∧ (u.strand c.val t.val).missFault = some { code := 0x11, eva := q.va } ∧ (u.cluster cl.val).walker = [])
      ∧ (asks → ∃ u, exec (.tscReply cl .unavailable) s = .next u ∧ (u.strand c.val t.val).missFault = some { code := 0x1B, eva := q.va }
        ∧ (u.cluster cl.val).tscDown = true)
      ∧ ((s.cores.any fun x => x.2.stillUses asid lo.toNat hi.toNat) = false → ∃ u, exec (.shootdown asid lo hi) s = .next u ∧ SameMemory s u
        ∧ ∀ n ∈ u.cores, ∀ y ∈ n.2.tlbLS ++ n.2.tlbMX ++ n.2.tlbCE ++ n.2.tlbIF, y.shot asid lo.toNat hi.toNat = false)
      ∧ ((s.cores.any fun x => x.2.stillUses asid lo.toNat hi.toNat) = true → exec (.shootdown asid lo hi) s = .next s)
/-- Containment, redundant pairs and in-field test (R300 to R308): a fence; its ports, which drop the accesses that its agents have not performed and end
those into it with 0x16; reset (no context resident), pattern and its results; a failed pair is fenced in the same step as a rectangle of its own, and
at its reset its task runs again on a fresh pair, at once or as soon as one is free (log 48, the model's reading), or ends: with 0x3C past 64 effects at a
unit, without it where TIMEOUT has ended it; a test of a free
core, its abort for a launch of higher PRIO, pass, after which the TCM is zero (log 59, the model's reading: R306 says so of an abort), fail
and expiry; corrected errors are counted, saturating. -/
def Obligations.ReliabilityEvents : Prop :=
  ∀ (s : State) (c : CoreId) (t k d x y w h q f : Nat) (r : Rect) (failed : List Nat) (l : Launch) (run : Rerun) (reruns : List Rerun),
    let p := (s.core c.val).part
    let test (u : State) : TestState := (u.core c.val).test
    let fresh : Rect := { d := d, x0 := x, y0 := y, w := w, h := h, state := .fencing, since := s.time }
    let pair : Rect := { d := dieOf c.val, x0 := coreX c.val, y0 := coreY c.val / 2 * 2, w := 1, h := 2, state := .fencing, since := s.time, dual := true }
    let many := (s.core c.val).effects.any fun n => 64 < n.2
    (d < 4 → 1 ≤ w → 1 ≤ h → x + w ≤ 64 → y + h ≤ 32 → (s.rects.filter fun e => !e.2.dual).length < 16 →
        (∀ n ∈ fresh.cores, ∀ e ∈ s.rects, e.2.has n = false) → ∃ u, exec (.containmentFence d x y w h) s = .next u
        ∧ u.rect? s.nextId = some fresh ∧ SameMemory s u ∧ u.cores = s.cores)
      ∧ (16 ≤ (s.rects.filter fun e => !e.2.dual).length → exec (.containmentFence d x y w h) s = .next s)
      ∧ ((4 ≤ d ∨ 64 < x + w ∨ 32 < y + h ∨ w = 0 ∨ h = 0) → exec (.containmentFence d x y w h) s = .next s)
      ∧ (s.rect? k = some r →
        (r.state = .fencing → ∃ u, exec (.containmentFenced k) s = .next u ∧ u.rect? k = some { r with state := .fenced, since := s.time } ∧ SameMemory s u
            ∧ (r.has (s.selfCore c.val) = true → ∀ a ∈ (u.strand c.val t).out, a.performed = true)
            ∧ (r.has (s.selfCore c.val) = false → ∀ a ∈ (s.strand c.val t).out, a.performed = false → r.holds a.bytes = true →
              { a with err := some { code := 0x16, acc := a.op.acc, eva := a.ea } } ∈ (u.strand c.val t).out))
          ∧ (r.state = .fenced → r.dual = false → ∃ u, exec (.containmentReset k) s = .next u ∧ u.rect? k = some { r with state := .reset, since := s.time }
            ∧ ∀ n ∈ r.cores, (u.core n).part.resident = false ∧ (u.core n).dtab = none ∧ (u.core n).churnQ = [])
          ∧ (r.state = .fenced → r.dual = true → s.launch? p.launch = some l → l.packet.dual = true → (s.core (partnerOf c.val)).part.occupied = true →
            (r.cores.find? fun n => (s.core n).part.occupied && !(s.core n).part.mirror && (s.core n).part.partner.isSome) = some c.val → r.has c.val = true →
            (many = false → l.flags.getLsbD 2 = false → l.reruns = [] → ∃ u n, exec (.containmentReset k) s = .next u
                ∧ (u.core c.val).part.resident = false ∧ u.launch? p.launch = some n ∧ n.count = l.count
                ∧ (n.reruns = [{ old := p, core := c.val }] ∨ (n.reruns = [] ∧ n.flags.getLsbD 6 = true
                  ∧ ∃ f, (u.core f).part.occupied = true ∧ (u.core f).part.launch = p.launch ∧ (u.core f).part.rank = p.rank)))
              ∧ (many = true → l.flags.getLsbD 2 = false → ∃ u, exec (.containmentReset k) s = .next u ∧ (u.core c.val).part.resident = false
                ∧ (u.launch? p.launch).map (·.flags.getLsbD 0) = some true)
              ∧ (l.flags.getLsbD 2 = true → ∃ u, exec (.containmentReset k) s = .next u ∧ (u.core c.val).part.resident = false
                ∧ (u.launch? p.launch).map (·.count) = some (l.count + 1)))
          ∧ (r.state = .reset → r.since + 40000 ≤ s.time → ∃ u, exec (.containmentTest k) s = .next u ∧ u.rect? k = some { r with state := .test, since := s.time })
          ∧ (r.state = .test → r.since + 400000 ≤ s.time → ∃ u, exec (.containmentTestEnd k failed) s = .next u ∧ u.rect? k = none
            ∧ (c.val ∈ r.cores → c.val ∈ failed → (test u).inMap = false)
            ∧ (c.val ∈ r.cores → c.val ∉ failed → (test u).passed = true ∧ (test u).lastPass = s.time ∧ (test u).inMap = (s.core c.val).test.inMap)))
      ∧ (s.launch? k = some l → l.reruns = run :: reruns → s.freshPair l k run.core = some f → ∃ u n, exec (.launchRelease k) s = .next u
        ∧ (u.core f).part.occupied = true ∧ (u.core f).part.launch = k ∧ (u.core f).part.rank = run.old.rank
        ∧ u.launch? k = some n ∧ n.reruns = reruns ∧ n.flags.getLsbD 6 = true)
      ∧ (s.launch? k = some l → l.released = true → l.reruns = run :: reruns → s.freshPair l k run.core = none → exec (.launchRelease k) s = .next s)
      ∧ (p.partner = some q → p.occupied = true → p.mirror = false → (∀ e ∈ s.rects, e.2.dual = true → e.2.has c.val = false) →
        ∃ u, exec (.dualMismatch c) s = .next u ∧ (s.itemWaits c.val = true → exec (.dualPartnerTimeout c) s = .next u)
          ∧ u.rect? s.nextId = some { pair with state := .fenced } ∧ SameMemory s u
          ∧ (s.selfCore c.val = c.val → ∀ a ∈ (u.strand c.val t).out, a.performed = true))
      ∧ (p.partner = none → exec (.dualMismatch c) s = .next s) ∧ (s.itemWaits c.val = false → exec (.dualPartnerTimeout c) s = .next s)
      ∧ (s.inMap c.val = true → p.occupied = false → (∀ e ∈ s.images, e.2.oldCore ≠ c.val) → (s.core c.val).test.testing = false → s.host.store = [] →
        (∀ e ∈ s.rects, e.2.has c.val = false) →
        ∃ u, exec (.infieldTestStart c) s = .next u ∧ (test u).testing = true ∧ (test u).since = s.time)
      ∧ (p.occupied = true → exec (.infieldTestStart c) s = .next s)
      ∧ ((s.core c.val).test.testing = true → s.testInWay c.val = true → ∃ u, exec (.infieldTestAbort c) s = .next u
        ∧ test u = { (s.core c.val).test with testing := false })
      ∧ (s.testInWay c.val = false → exec (.infieldTestAbort c) s = .next s)
      ∧ (s.patternOver c.val = true → ∃ u, exec (.infieldTestPass c) s = .next u ∧ (test u).testing = false ∧ (test u).passed = true ∧ (test u).lastPass = s.time
        ∧ ∀ b, c.val * 0x20000 ≤ b → b < c.val * 0x20000 + 0x16000 → u.byteAt b = 0)
      ∧ (s.patternOver c.val = true → ∃ u, exec (.infieldTestFail c) s = .next u ∧ (test u).testing = false ∧ (test u).inMap = false)
      ∧ (s.patternOver c.val = false → exec (.infieldTestPass c) s = .next s ∧ exec (.infieldTestFail c) s = .next s)
      ∧ (s.inMap c.val = true → (s.core c.val).test.heldOut = false → (s.lastPass c.val).getD 0 + 172800000000000 ≤ s.time →
        ∃ u, exec (.infieldPassExpiry c) s = .next u ∧ test u = { (s.core c.val).test with heldOut := true })
      ∧ (s.time < (s.lastPass c.val).getD 0 + 172800000000000 → exec (.infieldPassExpiry c) s = .next s)
      ∧ (∃ u, exec (.softErrorCorrected c false) s = .next u
        ∧ (u.core c.val).softCore.toNat = min ((s.core c.val).softCore.toNat + 1) (2 ^ 32 - 1) ∧ SameMemory s u)
      ∧ (∃ u, exec (.softErrorCorrected c true) s = .next u
        ∧ (u.octet (octetOf c.val)).soft.toNat = min ((s.octet (octetOf c.val)).soft.toNat + 1) (2 ^ 32 - 1) ∧ (u.core c.val).softCore = (s.core c.val).softCore)
/-- Control complexes and start-up (R314 to R317): a live update makes the standby ready exactly where its image has the root key hash of mask ROM and
verifies under both keys, and importing where it reads the state table; a role swap and a failover make it active and raise a takeover entry; without
a standby the device stops with FAIL = 5; a start ends at the first failing step, with its FAIL (Table 19.4); else it leaves no context resident,
and a cold one all memory zero (log 4, the model's choice). A warm start verifies the copy that LP6 retains where it is the image requested; it keeps
memory exactly where the identity key is the same (log 59, the model's reading), marks every launch complete and clears nothing of the host port
(log 67, the model's choices; R310 speaks of the FIFO alone), where no core of the map fails the sweep; and it is cold after a start that failed. -/
def Obligations.StartupEvents : Prop :=
  ∀ (s : State) (d : StartData) (image : BootImage) (ver : BitVec 32) (b : Bool),
    let k := s.control
    let ends (u : State) (fail : BitVec 4) (step : BitVec 3) : Prop :=
      u.control.fail = fail ∧ u.control.step = step ∧ u.control.stopped = true ∧ u.control.standby = false ∧ SameMemory s u
    let bad (i : BootImage) := imageKeyHash i ≠ k.rom
    let posts (u : State) : Prop := ∃ x, entryKind x = 3 ∧
      if s.host.takes 3 = true then u.host.hold = s.host.hold ++ [x] ∧ u.host.store = s.host.store
      else u.host.hold = s.host.hold ∧ u.host.store = s.host.store ++ [x]
    let runs (u : State) : Prop := u.control.step = 7 ∧ u.control.fail = 0 ∧ u.control.standby = true ∧ u.control.ms = d.ms
      ∧ u.control.version = d.version ∧ u.control.peer = d.peer ∧ u.control.rom = k.rom ∧ u.control.identity = some d.identity
      ∧ ∀ c, (u.core c).part.resident = false
    let i := (k.retained d.image).getD d.image
    let skip := s.warmSkip d
    (∃ u, exec (.liveUpdate image b ver) s = .next u ∧ SameMemory s u ∧
        if bad image ∨ imageSigned image = false then u.control = { k with standby := false, imported := false }
        else u.control = { k with standby := true, standbyVersion := ver, imported := b })
      ∧ (k.imported = true → k.standby = true → ∃ u, exec .roleSwap s = .next u ∧ u.control.activeB = !k.activeB ∧ u.control.version = k.standbyVersion
        ∧ u.control.standby = true ∧ posts u)
      ∧ ((k.imported = false ∨ k.standby = false) → exec .roleSwap s = .next s)
      ∧ (k.standby = true → ∃ u, exec .failover s = .next u ∧ u.control.activeB = !k.activeB ∧ u.control.version = k.standbyVersion
        ∧ u.control.standby = false ∧ posts u)
      ∧ (k.standby = false → ∃ u, exec .failover s = .next u ∧ u.control = { k with stopped := true, fail := 5 })
      ∧ (∃ u, exec (.coldStart d) s = .next u ∧ u.control.cold = true ∧ u.control.skip = 0 ∧
        if bad d.image then ends u 2 1
        else if imageSigned d.image = false then ends u 1 1
        else if d.trainOk = false then ends u 3 3
        else if d.measureOk = false then ends u 4 4
        else if d.sweepOk = false then ends u 4 5
        else runs u ∧ u.control.source = some d.source ∧ u.control.image = some d.image ∧ (∀ a, u.byteAt a = 0) ∧ u.launches = []
          ∧ ∀ c, c ∈ d.failed → (u.core c).test.inMap = false)
      ∧ (k.startFailed = false → ∃ u, exec (.warmStart d) s = .next u ∧ u.control.cold = false ∧ u.control.skip = skip.bits ∧
        if bad i then ends u 2 1
        else if imageSigned i = false then ends u 1 1
        else if skip.train = false ∧ d.trainOk = false then ends u 3 3
        else if skip.measure = false ∧ d.measureOk = false then ends u 4 4
        else if skip.sweep = false ∧ d.sweepOk = false then ends u 4 5
        else runs u ∧ u.control.source = (if skip.load then k.source else some d.source) ∧ u.control.image = some i
          ∧ (skip.train = true → k.identity = some d.identity ∧ ∀ a, u.byteAt a = s.byteAt a) ∧ (skip.train = false → ∀ a, u.byteAt a = 0)
          ∧ (∀ e ∈ u.launches, e.2.complete = true)
          ∧ ((∀ c ∈ d.failed, s.inMap c = false ∨ s.freshPass c = true) → u.host = s.host)
          ∧ ∀ c, c ∈ d.failed → c < 8192 → s.freshPass c = false → (u.core c).test.inMap = false)
      ∧ (k.startFailed = true → exec (.warmStart d) s = exec (.coldStart d) s)

/-! ## Whole-machine rules -/

/-- An instruction word writes no byte of memory when it issues, but for CBINIT and for what frees a pail's slots (RACK, a write of PAILHEAD); a
store's bytes change when its access is performed. At user privilege no word, faulting or not, changes FVEC, ASID or the supervisor's
save registers of its strand (R43). -/
def Obligations.WordsKeepMemoryAndProtection : Prop :=
  ∀ (i : Instr) (s t : State), isEvent i = false → exec i s = .next t →
    ((∀ a b, i ≠ .cbinit a b) → i ≠ .rack → (∀ f a, i ≠ .sets f a) → (∀ d f a, i ≠ .swaps d f a) → ∀ x, t.byteAt x = s.byteAt x)
      ∧ (s.me.stat.sup = false →
          let r := (t.strand s.curCore s.curStrand).regs
          r.fvec = s.me.regs.fvec ∧ r.asid = s.me.regs.asid ∧ r.svs = s.me.regs.svs)
end

