-- ==== Sys2Proof/Laws/PerInstr.lean ====
section
/-!
SUPPORT. Laws of every constructor of `Instr`: the encoding lies in bits 30:0 of a word.
-/
namespace Sys2Proof

theorem bit_lt (b : Bool) : bit b < 2 := by cases b <;> decide
theorem Mode.code_lt (x : Mode) : x.code < 4 := by cases x <;> decide
theorem Scope.code_lt (x : Scope) : x.code < 6 := by cases x <;> decide
theorem Order.code_lt (x : Order) : x.code < 4 := by cases x <;> decide
theorem FenceKind.code_lt (x : FenceKind) : x.code < 4 := by cases x <;> decide
theorem BLevel.code_lt (x : BLevel) : x.code < 3 := by cases x <;> decide
theorem RClass.code_lt (r : RClass) : r.code < 2 := by cases r <;> decide
theorem FTy.codes_lt (x : FTy) : x.code < 3 ∧ x.cell < 3 ∧ 8 ≤ x.codeV ∧ x.codeV < 11 := by cases x <;> decide
theorem ITy.code_lt (x : ITy) : x.code < 8 := by cases x <;> decide
theorem ETy.code_lt (x : ETy) : x.code < 11 := by
  cases x with
  | int t => exact Nat.lt_trans t.code_lt (by decide)
  | flt t => exact t.codes_lt.2.2.2
theorem FCond.code_lt (x : FCond) : x.code < 4 := by cases x <;> decide
theorem Width.code_lt (x : Width) : x.code < 4 := by cases x <;> decide
theorem RMode.code_lt (x : RMode) : x.code < 5 := by cases x <;> decide
theorem SfuFn.code_lt (x : SfuFn) : x.code < 8 := by cases x <;> decide
theorem Semiring.code_lt (x : Semiring) : x.code < 5 := by cases x <;> decide
theorem ZFmt.code_lt (x : ZFmt) : x.code < 3 := by cases x <;> decide

namespace Laws.EncodeRange

/-- The encoding of the instruction lies in bits 30:0 (L is bit 31); an event's is 0. -/
def Statement (i : Instr) : Prop := encode i < 2 ^ 31

theorem nop : Statement (.nop) := by
  show encD _ _ < _
  unfold encD; omega
theorem bra (off : BitVec 23) : Statement (.bra off) := by
  show encD _ _ < _
  have := off.isLt
  unfold encD; omega
theorem call (off : BitVec 23) : Statement (.call off) := by
  show encD _ _ < _
  have := off.isLt
  unfold encD; omega
theorem ret : Statement (.ret) := by
  show encD _ _ < _
  unfold encD; omega
theorem jmpr (a : Reg) : Statement (.jmpr a) := by
  show encA _ _ _ _ _ < _
  have := a.isLt
  unfold encA; omega
theorem callr (a : Reg) : Statement (.callr a) := by
  show encA _ _ _ _ _ < _
  have := a.isLt
  unfold encA; omega
theorem beq (d : Reg) (a : Reg) (off : BitVec 13) : Statement (.beq d a off) := by
  show encB _ _ _ _ < _
  have := d.isLt
  have := a.isLt
  have := off.isLt
  unfold encB; omega
theorem bne (d : Reg) (a : Reg) (off : BitVec 13) : Statement (.bne d a off) := by
  show encB _ _ _ _ < _
  have := d.isLt
  have := a.isLt
  have := off.isLt
  unfold encB; omega
theorem blt (d : Reg) (a : Reg) (off : BitVec 13) : Statement (.blt d a off) := by
  show encB _ _ _ _ < _
  have := d.isLt
  have := a.isLt
  have := off.isLt
  unfold encB; omega
theorem bge (d : Reg) (a : Reg) (off : BitVec 13) : Statement (.bge d a off) := by
  show encB _ _ _ _ < _
  have := d.isLt
  have := a.isLt
  have := off.isLt
  unfold encB; omega
theorem bltn (d : Reg) (a : Reg) (off : BitVec 13) : Statement (.bltn d a off) := by
  show encB _ _ _ _ < _
  have := d.isLt
  have := a.isLt
  have := off.isLt
  unfold encB; omega
theorem bgen (d : Reg) (a : Reg) (off : BitVec 13) : Statement (.bgen d a off) := by
  show encB _ _ _ _ < _
  have := d.isLt
  have := a.isLt
  have := off.isLt
  unfold encB; omega
theorem beqi (d : Reg) (i : BitVec 5) (off : BitVec 13) : Statement (.beqi d i off) := by
  show encB _ _ _ _ < _
  have := d.isLt
  have := i.isLt
  have := off.isLt
  unfold encB; omega
theorem bnei (d : Reg) (i : BitVec 5) (off : BitVec 13) : Statement (.bnei d i off) := by
  show encB _ _ _ _ < _
  have := d.isLt
  have := i.isLt
  have := off.isLt
  unfold encB; omega
theorem bz (d : Reg) (off : BitVec 18) : Statement (.bz d off) := by
  show encC _ _ _ < _
  have := d.isLt
  have := off.isLt
  unfold encC; omega
theorem bnz (d : Reg) (off : BitVec 18) : Statement (.bnz d off) := by
  show encC _ _ _ < _
  have := d.isLt
  have := off.isLt
  unfold encC; omega
theorem yield (dl : BitVec 10) (kv : Bool) : Statement (.yield dl kv) := by
  show encC _ _ _ < _
  have := dl.isLt
  have := bit_lt kv
  unfold encC; omega
theorem gets (d : Reg) (sel : BitVec 12) : Statement (.gets d sel) := by
  show encB _ _ _ _ < _
  have := d.isLt
  have := sel.isLt
  unfold encB; omega
theorem sets (sel : BitVec 12) (a : Reg) : Statement (.sets sel a) := by
  show encB _ _ _ _ < _
  have := sel.isLt
  have := a.isLt
  unfold encB; omega
theorem swaps (d : Reg) (sel : BitVec 12) (a : Reg) : Statement (.swaps d sel a) := by
  show encB _ _ _ _ < _
  have := d.isLt
  have := sel.isLt
  have := a.isLt
  unfold encB; omega
theorem trap (n : BitVec 16) : Statement (.trap n) := by
  show encC _ _ _ < _
  have := n.isLt
  unfold encC; omega
theorem eret : Statement (.eret) := by
  show encD _ _ < _
  unfold encD; omega
theorem uevret : Statement (.uevret) := by
  show encD _ _ < _
  unfold encD; omega
theorem evwait (d : Reg) : Statement (.evwait d) := by
  show encA _ _ _ _ _ < _
  have := d.isLt
  unfold encA; omega
theorem evmask (d : Reg) (a : Reg) : Statement (.evmask d a) := by
  show encA _ _ _ _ _ < _
  have := d.isLt
  have := a.isLt
  unfold encA; omega
theorem spill (cls : RClass) (d : Reg) (c : Reg) : Statement (.spill cls d c) := by
  show encA _ _ _ _ _ < _
  have := cls.code_lt
  have := d.isLt
  have := c.isLt
  unfold encA; omega
theorem fill (cls : RClass) (d : Reg) (c : Reg) : Statement (.fill cls d c) := by
  show encA _ _ _ _ _ < _
  have := cls.code_lt
  have := d.isLt
  have := c.isLt
  unfold encA; omega
theorem mkrcap (d : Reg) (a : Reg) (cls : RClass) (wm : Bool) : Statement (.mkrcap d a cls wm) := by
  show encA _ _ _ _ _ < _
  have := d.isLt
  have := a.isLt
  have := cls.code_lt
  have := bit_lt wm
  unfold encA; omega
theorem rvoke : Statement (.rvoke) := by
  show encD _ _ < _
  unfold encD; omega
theorem iflush (a : Reg) (b : Reg) : Statement (.iflush a b) := by
  show encA _ _ _ _ _ < _
  have := a.isLt
  have := b.isLt
  unfold encA; omega
theorem ld (d : Reg) (b : Reg) (m : Mode) (off : BitVec 11) : Statement (.ld d b m off) := by
  show encG _ _ _ _ _ < _
  have := d.isLt
  have := b.isLt
  have := m.code_lt
  have := off.isLt
  unfold encG; omega
theorem lds (d : Reg) (b : Reg) (m : Mode) (off : BitVec 11) : Statement (.lds d b m off) := by
  show encG _ _ _ _ _ < _
  have := d.isLt
  have := b.isLt
  have := m.code_lt
  have := off.isLt
  unfold encG; omega
theorem lda (d : Reg) (b : Reg) (m : Mode) (off : BitVec 11) : Statement (.lda d b m off) := by
  show encG _ _ _ _ _ < _
  have := d.isLt
  have := b.isLt
  have := m.code_lt
  have := off.isLt
  unfold encG; omega
theorem lde (d : Reg) (b : Reg) (m : Mode) (off : BitVec 11) : Statement (.lde d b m off) := by
  show encG _ _ _ _ _ < _
  have := d.isLt
  have := b.isLt
  have := m.code_lt
  have := off.isLt
  unfold encG; omega
theorem st (d : Reg) (b : Reg) (m : Mode) (off : BitVec 11) : Statement (.st d b m off) := by
  show encG _ _ _ _ _ < _
  have := d.isLt
  have := b.isLt
  have := m.code_lt
  have := off.isLt
  unfold encG; omega
theorem stf (d : Reg) (b : Reg) (m : Mode) (off : BitVec 11) : Statement (.stf d b m off) := by
  show encG _ _ _ _ _ < _
  have := d.isLt
  have := b.isLt
  have := m.code_lt
  have := off.isLt
  unfold encG; omega
theorem stl (d : Reg) (b : Reg) (m : Mode) (off : BitVec 11) : Statement (.stl d b m off) := by
  show encG _ _ _ _ _ < _
  have := d.isLt
  have := b.isLt
  have := m.code_lt
  have := off.isLt
  unfold encG; omega
theorem ldp (d : Reg) (b : Reg) (m : Mode) (off : BitVec 11) : Statement (.ldp d b m off) := by
  show encG _ _ _ _ _ < _
  have := d.isLt
  have := b.isLt
  have := m.code_lt
  have := off.isLt
  unfold encG; omega
theorem stp (d : Reg) (b : Reg) (m : Mode) (off : BitVec 11) : Statement (.stp d b m off) := by
  show encG _ _ _ _ _ < _
  have := d.isLt
  have := b.isLt
  have := m.code_lt
  have := off.isLt
  unfold encG; omega
theorem pfch (b : Reg) (m : Mode) (off : BitVec 11) : Statement (.pfch b m off) := by
  show encG _ _ _ _ _ < _
  have := b.isLt
  have := m.code_lt
  have := off.isLt
  unfold encG; omega
theorem clfe (a : Reg) (b : Reg) (m : Mode) : Statement (.clfe a b m) := by
  show encA _ _ _ _ _ < _
  have := a.isLt
  have := b.isLt
  have := m.code_lt
  unfold encA; omega
theorem aadd (d : Reg) (a : Reg) (b : Reg) (w : Bool) (o : Order) (s : Scope) (m : Mode) : Statement (.aadd d a b w o s m) := by
  show encA _ _ _ _ _ < _
  have := d.isLt
  have := a.isLt
  have := b.isLt
  have := bit_lt w
  have := o.code_lt
  have := s.code_lt
  have := m.code_lt
  unfold encA; omega
theorem aand (d : Reg) (a : Reg) (b : Reg) (w : Bool) (o : Order) (s : Scope) (m : Mode) : Statement (.aand d a b w o s m) := by
  show encA _ _ _ _ _ < _
  have := d.isLt
  have := a.isLt
  have := b.isLt
  have := bit_lt w
  have := o.code_lt
  have := s.code_lt
  have := m.code_lt
  unfold encA; omega
theorem aor (d : Reg) (a : Reg) (b : Reg) (w : Bool) (o : Order) (s : Scope) (m : Mode) : Statement (.aor d a b w o s m) := by
  show encA _ _ _ _ _ < _
  have := d.isLt
  have := a.isLt
  have := b.isLt
  have := bit_lt w
  have := o.code_lt
  have := s.code_lt
  have := m.code_lt
  unfold encA; omega
theorem axor (d : Reg) (a : Reg) (b : Reg) (w : Bool) (o : Order) (s : Scope) (m : Mode) : Statement (.axor d a b w o s m) := by
  show encA _ _ _ _ _ < _
  have := d.isLt
  have := a.isLt
  have := b.isLt
  have := bit_lt w
  have := o.code_lt
  have := s.code_lt
  have := m.code_lt
  unfold encA; omega
theorem amin (d : Reg) (a : Reg) (b : Reg) (w : Bool) (o : Order) (s : Scope) (m : Mode) : Statement (.amin d a b w o s m) := by
  show encA _ _ _ _ _ < _
  have := d.isLt
  have := a.isLt
  have := b.isLt
  have := bit_lt w
  have := o.code_lt
  have := s.code_lt
  have := m.code_lt
  unfold encA; omega
theorem amax (d : Reg) (a : Reg) (b : Reg) (w : Bool) (o : Order) (s : Scope) (m : Mode) : Statement (.amax d a b w o s m) := by
  show encA _ _ _ _ _ < _
  have := d.isLt
  have := a.isLt
  have := b.isLt
  have := bit_lt w
  have := o.code_lt
  have := s.code_lt
  have := m.code_lt
  unfold encA; omega
theorem aswp (d : Reg) (a : Reg) (b : Reg) (w : Bool) (o : Order) (s : Scope) (m : Mode) : Statement (.aswp d a b w o s m) := by
  show encA _ _ _ _ _ < _
  have := d.isLt
  have := a.isLt
  have := b.isLt
  have := bit_lt w
  have := o.code_lt
  have := s.code_lt
  have := m.code_lt
  unfold encA; omega
theorem acas (d : Reg) (a : Reg) (b : Reg) (w : Bool) (o : Order) (s : Scope) (m : Mode) : Statement (.acas d a b w o s m) := by
  show encA _ _ _ _ _ < _
  have := d.isLt
  have := a.isLt
  have := b.isLt
  have := bit_lt w
  have := o.code_lt
  have := s.code_lt
  have := m.code_lt
  unfold encA; omega
theorem accf (a : Reg) (b : Reg) (f : FTy) (s : Scope) (m : Mode) : Statement (.accf a b f s m) := by
  show encA _ _ _ _ _ < _
  have := a.isLt
  have := b.isLt
  have := f.codes_lt
  have := s.code_lt
  have := m.code_lt
  unfold encA; omega
theorem cellrd (d : Reg) (a : Reg) (clr : Bool) (f : FTy) (s : Scope) (m : Mode) : Statement (.cellrd d a clr f s m) := by
  show encA _ _ _ _ _ < _
  have := d.isLt
  have := a.isLt
  have := bit_lt clr
  have := f.codes_lt
  have := s.code_lt
  have := m.code_lt
  unfold encA; omega
theorem fence (k : FenceKind) (s : Scope) : Statement (.fence k s) := by
  show encA _ _ _ _ _ < _
  have := k.code_lt
  have := s.code_lt
  unfold encA; omega
theorem promote (a : Reg) (s : Scope) (m : Mode) : Statement (.promote a s m) := by
  show encA _ _ _ _ _ < _
  have := a.isLt
  have := s.code_lt
  have := m.code_lt
  unfold encA; omega
theorem bar (k : BitVec 4) (lv : BLevel) : Statement (.bar k lv) := by
  show encC _ _ _ < _
  have := k.isLt
  have := lv.code_lt
  unfold encC; omega
theorem bari (k : BitVec 4) (lv : BLevel) : Statement (.bari k lv) := by
  show encC _ _ _ < _
  have := k.isLt
  have := lv.code_lt
  unfold encC; omega
theorem barw (k : BitVec 4) (lv : BLevel) : Statement (.barw k lv) := by
  show encC _ _ _ < _
  have := k.isLt
  have := lv.code_lt
  unfold encC; omega
theorem bset (d : Reg) (k : BitVec 4) (lv : BLevel) : Statement (.bset d k lv) := by
  show encC _ _ _ < _
  have := d.isLt
  have := k.isLt
  have := lv.code_lt
  unfold encC; omega
theorem send (d : Reg) (a : Reg) : Statement (.send d a) := by
  show encA _ _ _ _ _ < _
  have := d.isLt
  have := a.isLt
  unfold encA; omega
theorem rsend (a : Reg) (b : Reg) : Statement (.rsend a b) := by
  show encA _ _ _ _ _ < _
  have := a.isLt
  have := b.isLt
  unfold encA; omega
theorem rsendv (a : Reg) (b : Reg) (pg : Fin 8) : Statement (.rsendv a b pg) := by
  show encE _ _ _ _ _ _ < _
  have := a.isLt
  have := b.isLt
  have := pg.isLt
  unfold encE; omega
theorem recv (d : Reg) : Statement (.recv d) := by
  show encA _ _ _ _ _ < _
  have := d.isLt
  unfold encA; omega
theorem rpeek (d : Reg) : Statement (.rpeek d) := by
  show encA _ _ _ _ _ < _
  have := d.isLt
  unfold encA; omega
theorem rack : Statement (.rack) := by
  show encD _ _ < _
  unfold encD; omega
theorem post (d : Reg) (a : Reg) : Statement (.post d a) := by
  show encA _ _ _ _ _ < _
  have := d.isLt
  have := a.isLt
  unfold encA; omega
theorem take (d : Reg) (wait : Bool) : Statement (.take d wait) := by
  show encA _ _ _ _ _ < _
  have := d.isLt
  have := bit_lt wait
  unfold encA; omega
theorem next (d : Reg) : Statement (.next d) := by
  show encA _ _ _ _ _ < _
  have := d.isLt
  unfold encA; omega
theorem mcast (d : Reg) (a : Reg) : Statement (.mcast d a) := by
  show encA _ _ _ _ _ < _
  have := d.isLt
  have := a.isLt
  unfold encA; omega
theorem msgmov (a : Reg) (st : Bool) (m : Mode) : Statement (.msgmov a st m) := by
  show encA _ _ _ _ _ < _
  have := a.isLt
  have := bit_lt st
  have := m.code_lt
  unfold encA; omega
theorem xphase (k : BitVec 4) : Statement (.xphase k) := by
  show encC _ _ _ < _
  have := k.isLt
  unfold encC; omega
theorem xmit (slot : BitVec 13) (l : Reg) (g : BitVec 4) : Statement (.xmit slot l g) := by
  show encK _ _ _ _ < _
  have := slot.isLt
  have := l.isLt
  have := g.isLt
  unfold encK; omega
theorem xsel (slot : BitVec 13) (l : Reg) (e : BitVec 5) : Statement (.xsel slot l e) := by
  show encK _ _ _ _ < _
  have := slot.isLt
  have := l.isLt
  have := e.isLt
  unfold encK; omega
theorem xend : Statement (.xend) := by
  show encD _ _ < _
  unfold encD; omega
theorem cpy (a : Reg) (b : Reg) (c : Reg) (clfe : Bool) (ev : Bool) (sm : Mode) (dm : Mode) : Statement (.cpy a b c clfe ev sm dm) := by
  show encA _ _ _ _ _ < _
  have := a.isLt
  have := b.isLt
  have := c.isLt
  have := bit_lt clfe
  have := bit_lt ev
  have := sm.code_lt
  have := dm.code_lt
  unfold encA; omega
theorem cpys (g : Fin 4) (b : Reg) (c : Reg) (clfe : Bool) (ev : Bool) (sm : Mode) : Statement (.cpys g b c clfe ev sm) := by
  show encA _ _ _ _ _ < _
  have := g.isLt
  have := b.isLt
  have := c.isLt
  have := bit_lt clfe
  have := bit_lt ev
  have := sm.code_lt
  unfold encA; omega
theorem cpyg (a : Reg) (b : Reg) (c : Reg) (clfe : Bool) (ev : Bool) (sm : Mode) (dm : Mode) : Statement (.cpyg a b c clfe ev sm dm) := by
  show encA _ _ _ _ _ < _
  have := a.isLt
  have := b.isLt
  have := c.isLt
  have := bit_lt clfe
  have := bit_lt ev
  have := sm.code_lt
  have := dm.code_lt
  unfold encA; omega
theorem cpysc (a : Reg) (b : Reg) (c : Reg) (clfe : Bool) (ev : Bool) (sm : Mode) (dm : Mode) : Statement (.cpysc a b c clfe ev sm dm) := by
  show encA _ _ _ _ _ < _
  have := a.isLt
  have := b.isLt
  have := c.isLt
  have := bit_lt clfe
  have := bit_lt ev
  have := sm.code_lt
  have := dm.code_lt
  unfold encA; omega
theorem cpyq (d : Reg) : Statement (.cpyq d) := by
  show encA _ _ _ _ _ < _
  have := d.isLt
  unfold encA; omega
theorem ringdef (g : Fin 4) (b : Reg) (c : Reg) (m : Mode) : Statement (.ringdef g b c m) := by
  show encA _ _ _ _ _ < _
  have := g.isLt
  have := b.isLt
  have := c.isLt
  have := m.code_lt
  unfold encA; omega
theorem ringst (d : Reg) (g : Fin 4) : Statement (.ringst d g) := by
  show encA _ _ _ _ _ < _
  have := d.isLt
  have := g.isLt
  unfold encA; omega
theorem tguard (a : Reg) (i : BitVec 6) : Statement (.tguard a i) := by
  show encB _ _ _ _ < _
  have := a.isLt
  have := i.isLt
  unfold encB; omega
theorem tslot (a : Reg) (i : BitVec 6) : Statement (.tslot a i) := by
  show encB _ _ _ _ < _
  have := a.isLt
  have := i.isLt
  unfold encB; omega
theorem cbinit (a : Reg) (b : Reg) : Statement (.cbinit a b) := by
  show encA _ _ _ _ _ < _
  have := a.isLt
  have := b.isLt
  unfold encA; omega
theorem cbwait (d : Reg) (a : Reg) : Statement (.cbwait d a) := by
  show encA _ _ _ _ _ < _
  have := d.isLt
  have := a.isLt
  unfold encA; omega
theorem cbtest (d : Reg) (a : Reg) : Statement (.cbtest d a) := by
  show encA _ _ _ _ _ < _
  have := d.isLt
  have := a.isLt
  unfold encA; omega
theorem vld (d : Reg) (a : Reg) (pg : Fin 8) (m : Mode) : Statement (.vld d a pg m) := by
  show encE _ _ _ _ _ _ < _
  have := d.isLt
  have := a.isLt
  have := pg.isLt
  have := m.code_lt
  unfold encE; omega
theorem vlds (d : Reg) (a : Reg) (b : Reg) (pg : Fin 8) (m : Mode) : Statement (.vlds d a b pg m) := by
  show encE _ _ _ _ _ _ < _
  have := d.isLt
  have := a.isLt
  have := b.isLt
  have := pg.isLt
  have := m.code_lt
  unfold encE; omega
theorem vldg (d : Reg) (a : Reg) (b : Reg) (pg : Fin 8) (m : Mode) : Statement (.vldg d a b pg m) := by
  show encE _ _ _ _ _ _ < _
  have := d.isLt
  have := a.isLt
  have := b.isLt
  have := pg.isLt
  have := m.code_lt
  unfold encE; omega
theorem vst (d : Reg) (a : Reg) (pg : Fin 8) (m : Mode) : Statement (.vst d a pg m) := by
  show encE _ _ _ _ _ _ < _
  have := d.isLt
  have := a.isLt
  have := pg.isLt
  have := m.code_lt
  unfold encE; omega
theorem vsts (d : Reg) (a : Reg) (b : Reg) (pg : Fin 8) (m : Mode) : Statement (.vsts d a b pg m) := by
  show encE _ _ _ _ _ _ < _
  have := d.isLt
  have := a.isLt
  have := b.isLt
  have := pg.isLt
  have := m.code_lt
  unfold encE; omega
theorem vstg (d : Reg) (a : Reg) (b : Reg) (pg : Fin 8) (m : Mode) : Statement (.vstg d a b pg m) := by
  show encE _ _ _ _ _ _ < _
  have := d.isLt
  have := a.isLt
  have := b.isLt
  have := pg.isLt
  have := m.code_lt
  unfold encE; omega
theorem vldb (d : Reg) (a : Reg) (pg : Fin 8) (m : Mode) : Statement (.vldb d a pg m) := by
  show encE _ _ _ _ _ _ < _
  have := d.isLt
  have := a.isLt
  have := pg.isLt
  have := m.code_lt
  unfold encE; omega
theorem vldsy (d : Reg) (a : Reg) (pg : Fin 8) (m : Mode) : Statement (.vldsy d a pg m) := by
  show encE _ _ _ _ _ _ < _
  have := d.isLt
  have := a.isLt
  have := pg.isLt
  have := m.code_lt
  unfold encE; omega
theorem vclaim (d : Reg) (n : BitVec 7) : Statement (.vclaim d n) := by
  show encC _ _ _ < _
  have := d.isLt
  have := n.isLt
  unfold encC; omega
theorem vfree : Statement (.vfree) := by
  show encD _ _ < _
  unfold encD; omega
theorem vseq (a : Reg) (len : BitVec 4) (step : BitVec 4) : Statement (.vseq a len step) := by
  show encB _ _ _ _ < _
  have := a.isLt
  have := len.isLt
  have := step.isLt
  unfold encB; omega
theorem vrep (a : Reg) (len : BitVec 4) (stride : BitVec 4) : Statement (.vrep a len stride) := by
  show encB _ _ _ _ < _
  have := a.isLt
  have := len.isLt
  have := stride.isLt
  unfold encB; omega
theorem pset (d : Fin 8) (a : Reg) (w : Width) : Statement (.pset d a w) := by
  show encA _ _ _ _ _ < _
  have := d.isLt
  have := a.isLt
  have := w.code_lt
  unfold encA; omega
theorem pseti (d : Fin 8) (c : BitVec 16) (w : Width) : Statement (.pseti d c w) := by
  show encC _ _ _ < _
  have := d.isLt
  have := c.isLt
  have := w.code_lt
  unfold encC; omega
theorem pget (d : Reg) (a : Fin 8) : Statement (.pget d a) := by
  show encA _ _ _ _ _ < _
  have := d.isLt
  have := a.isLt
  unfold encA; omega
theorem rbset (v : BitVec 4) : Statement (.rbset v) := by
  show encC _ _ _ < _
  have := v.isLt
  unfold encC; omega
theorem rbget (d : Reg) : Statement (.rbget d) := by
  show encA _ _ _ _ _ < _
  have := d.isLt
  unfold encA; omega
theorem dtload (a : Reg) (m : Mode) : Statement (.dtload a m) := by
  show encA _ _ _ _ _ < _
  have := a.isLt
  have := m.code_lt
  unfold encA; omega
theorem add (d : Reg) (a : Reg) (b : Reg) (w : Bool) : Statement (.add d a b w) := by
  show encA _ _ _ _ _ < _
  have := d.isLt
  have := a.isLt
  have := b.isLt
  have := bit_lt w
  unfold encA; omega
theorem addi (d : Reg) (a : Reg) (i : BitVec 13) : Statement (.addi d a i) := by
  show encB _ _ _ _ < _
  have := d.isLt
  have := a.isLt
  have := i.isLt
  unfold encB; omega
theorem sub (d : Reg) (a : Reg) (b : Reg) (w : Bool) : Statement (.sub d a b w) := by
  show encA _ _ _ _ _ < _
  have := d.isLt
  have := a.isLt
  have := b.isLt
  have := bit_lt w
  unfold encA; omega
theorem mul (d : Reg) (a : Reg) (b : Reg) (w : Bool) : Statement (.mul d a b w) := by
  show encA _ _ _ _ _ < _
  have := d.isLt
  have := a.isLt
  have := b.isLt
  have := bit_lt w
  unfold encA; omega
theorem mulh (d : Reg) (a : Reg) (b : Reg) (w : Bool) : Statement (.mulh d a b w) := by
  show encA _ _ _ _ _ < _
  have := d.isLt
  have := a.isLt
  have := b.isLt
  have := bit_lt w
  unfold encA; omega
theorem mulhn (d : Reg) (a : Reg) (b : Reg) (w : Bool) : Statement (.mulhn d a b w) := by
  show encA _ _ _ _ _ < _
  have := d.isLt
  have := a.isLt
  have := b.isLt
  have := bit_lt w
  unfold encA; omega
theorem div (d : Reg) (a : Reg) (b : Reg) (w : Bool) : Statement (.div d a b w) := by
  show encA _ _ _ _ _ < _
  have := d.isLt
  have := a.isLt
  have := b.isLt
  have := bit_lt w
  unfold encA; omega
theorem divn (d : Reg) (a : Reg) (b : Reg) (w : Bool) : Statement (.divn d a b w) := by
  show encA _ _ _ _ _ < _
  have := d.isLt
  have := a.isLt
  have := b.isLt
  have := bit_lt w
  unfold encA; omega
theorem rem (d : Reg) (a : Reg) (b : Reg) (w : Bool) : Statement (.rem d a b w) := by
  show encA _ _ _ _ _ < _
  have := d.isLt
  have := a.isLt
  have := b.isLt
  have := bit_lt w
  unfold encA; omega
theorem remn (d : Reg) (a : Reg) (b : Reg) (w : Bool) : Statement (.remn d a b w) := by
  show encA _ _ _ _ _ < _
  have := d.isLt
  have := a.isLt
  have := b.isLt
  have := bit_lt w
  unfold encA; omega
theorem and (d : Reg) (a : Reg) (b : Reg) : Statement (.and d a b) := by
  show encA _ _ _ _ _ < _
  have := d.isLt
  have := a.isLt
  have := b.isLt
  unfold encA; omega
theorem andi (d : Reg) (a : Reg) (i : BitVec 13) : Statement (.andi d a i) := by
  show encB _ _ _ _ < _
  have := d.isLt
  have := a.isLt
  have := i.isLt
  unfold encB; omega
theorem or (d : Reg) (a : Reg) (b : Reg) : Statement (.or d a b) := by
  show encA _ _ _ _ _ < _
  have := d.isLt
  have := a.isLt
  have := b.isLt
  unfold encA; omega
theorem ori (d : Reg) (a : Reg) (i : BitVec 13) : Statement (.ori d a i) := by
  show encB _ _ _ _ < _
  have := d.isLt
  have := a.isLt
  have := i.isLt
  unfold encB; omega
theorem xor (d : Reg) (a : Reg) (b : Reg) : Statement (.xor d a b) := by
  show encA _ _ _ _ _ < _
  have := d.isLt
  have := a.isLt
  have := b.isLt
  unfold encA; omega
theorem xori (d : Reg) (a : Reg) (i : BitVec 13) : Statement (.xori d a i) := by
  show encB _ _ _ _ < _
  have := d.isLt
  have := a.isLt
  have := i.isLt
  unfold encB; omega
theorem shl (d : Reg) (a : Reg) (b : Reg) (w : Bool) : Statement (.shl d a b w) := by
  show encA _ _ _ _ _ < _
  have := d.isLt
  have := a.isLt
  have := b.isLt
  have := bit_lt w
  unfold encA; omega
theorem shli (d : Reg) (a : Reg) (s : BitVec 6) : Statement (.shli d a s) := by
  show encB _ _ _ _ < _
  have := d.isLt
  have := a.isLt
  have := s.isLt
  unfold encB; omega
theorem shr (d : Reg) (a : Reg) (b : Reg) (w : Bool) : Statement (.shr d a b w) := by
  show encA _ _ _ _ _ < _
  have := d.isLt
  have := a.isLt
  have := b.isLt
  have := bit_lt w
  unfold encA; omega
theorem shri (d : Reg) (a : Reg) (s : BitVec 6) : Statement (.shri d a s) := by
  show encB _ _ _ _ < _
  have := d.isLt
  have := a.isLt
  have := s.isLt
  unfold encB; omega
theorem sra (d : Reg) (a : Reg) (b : Reg) (w : Bool) : Statement (.sra d a b w) := by
  show encA _ _ _ _ _ < _
  have := d.isLt
  have := a.isLt
  have := b.isLt
  have := bit_lt w
  unfold encA; omega
theorem srai (d : Reg) (a : Reg) (s : BitVec 6) : Statement (.srai d a s) := by
  show encB _ _ _ _ < _
  have := d.isLt
  have := a.isLt
  have := s.isLt
  unfold encB; omega
theorem slt (d : Reg) (a : Reg) (b : Reg) : Statement (.slt d a b) := by
  show encA _ _ _ _ _ < _
  have := d.isLt
  have := a.isLt
  have := b.isLt
  unfold encA; omega
theorem sltn (d : Reg) (a : Reg) (b : Reg) : Statement (.sltn d a b) := by
  show encA _ _ _ _ _ < _
  have := d.isLt
  have := a.isLt
  have := b.isLt
  unfold encA; omega
theorem slti (d : Reg) (a : Reg) (i : BitVec 13) : Statement (.slti d a i) := by
  show encB _ _ _ _ < _
  have := d.isLt
  have := a.isLt
  have := i.isLt
  unfold encB; omega
theorem min (d : Reg) (a : Reg) (b : Reg) : Statement (.min d a b) := by
  show encA _ _ _ _ _ < _
  have := d.isLt
  have := a.isLt
  have := b.isLt
  unfold encA; omega
theorem max (d : Reg) (a : Reg) (b : Reg) : Statement (.max d a b) := by
  show encA _ _ _ _ _ < _
  have := d.isLt
  have := a.isLt
  have := b.isLt
  unfold encA; omega
theorem movi (d : Reg) (i : BitVec 18) : Statement (.movi d i) := by
  show encC _ _ _ < _
  have := d.isLt
  have := i.isLt
  unfold encC; omega
theorem movhi (d : Reg) (i : BitVec 18) : Statement (.movhi d i) := by
  show encC _ _ _ < _
  have := d.isLt
  have := i.isLt
  unfold encC; omega
theorem clz (d : Reg) (a : Reg) : Statement (.clz d a) := by
  show encA _ _ _ _ _ < _
  have := d.isLt
  have := a.isLt
  unfold encA; omega
theorem popc (d : Reg) (a : Reg) : Statement (.popc d a) := by
  show encA _ _ _ _ _ < _
  have := d.isLt
  have := a.isLt
  unfold encA; omega
theorem padd (d : Reg) (a : Reg) (b : Reg) : Statement (.padd d a b) := by
  show encA _ _ _ _ _ < _
  have := d.isLt
  have := a.isLt
  have := b.isLt
  unfold encA; omega
theorem paddi (d : Reg) (a : Reg) (i : BitVec 13) : Statement (.paddi d a i) := by
  show encB _ _ _ _ < _
  have := d.isLt
  have := a.isLt
  have := i.isLt
  unfold encB; omega
theorem ptag (d : Reg) (a : Reg) (f : BitVec 6) (e : BitVec 4) : Statement (.ptag d a f e) := by
  show encB _ _ _ _ < _
  have := d.isLt
  have := a.isLt
  have := f.isLt
  have := e.isLt
  unfold encB; omega
theorem pstrip (d : Reg) (a : Reg) : Statement (.pstrip d a) := by
  show encA _ _ _ _ _ < _
  have := d.isLt
  have := a.isLt
  unfold encA; omega
theorem sel (d : Reg) (a : Reg) (b : Reg) : Statement (.sel d a b) := by
  show encA _ _ _ _ _ < _
  have := d.isLt
  have := a.isLt
  have := b.isLt
  unfold encA; omega
theorem fadd (d : Reg) (a : Reg) (b : Reg) (t : FTy) (sr : Bool) : Statement (.fadd d a b t sr) := by
  show encA _ _ _ _ _ < _
  have := d.isLt
  have := a.isLt
  have := b.isLt
  have := t.codes_lt
  have := bit_lt sr
  unfold encA; omega
theorem fmul (d : Reg) (a : Reg) (b : Reg) (t : FTy) (sr : Bool) : Statement (.fmul d a b t sr) := by
  show encA _ _ _ _ _ < _
  have := d.isLt
  have := a.isLt
  have := b.isLt
  have := t.codes_lt
  have := bit_lt sr
  unfold encA; omega
theorem fma (d : Reg) (a : Reg) (b : Reg) (t : FTy) (sr : Bool) : Statement (.fma d a b t sr) := by
  show encA _ _ _ _ _ < _
  have := d.isLt
  have := a.isLt
  have := b.isLt
  have := t.codes_lt
  have := bit_lt sr
  unfold encA; omega
theorem fcvt (d : Reg) (a : Reg) (dt : ETy) (st : ETy) (sr : Bool) : Statement (.fcvt d a dt st sr) := by
  show encA _ _ _ _ _ < _
  have := d.isLt
  have := a.isLt
  have := dt.code_lt
  have := st.code_lt
  have := bit_lt sr
  unfold encA; omega
theorem fcmp (d : Reg) (a : Reg) (b : Reg) (t : FTy) (c : FCond) : Statement (.fcmp d a b t c) := by
  show encA _ _ _ _ _ < _
  have := d.isLt
  have := a.isLt
  have := b.isLt
  have := t.codes_lt
  have := c.code_lt
  unfold encA; omega
theorem vadd (d : Reg) (a : Reg) (b : Reg) (pg : Fin 8) (t : ITy) (sat : Bool) : Statement (.vadd d a b pg t sat) := by
  show encE _ _ _ _ _ _ < _
  have := d.isLt
  have := a.isLt
  have := b.isLt
  have := pg.isLt
  have := t.code_lt
  have := bit_lt sat
  unfold encE; omega
theorem vsub (d : Reg) (a : Reg) (b : Reg) (pg : Fin 8) (t : ITy) (sat : Bool) : Statement (.vsub d a b pg t sat) := by
  show encE _ _ _ _ _ _ < _
  have := d.isLt
  have := a.isLt
  have := b.isLt
  have := pg.isLt
  have := t.code_lt
  have := bit_lt sat
  unfold encE; omega
theorem vmul (d : Reg) (a : Reg) (b : Reg) (pg : Fin 8) (t : ITy) : Statement (.vmul d a b pg t) := by
  show encE _ _ _ _ _ _ < _
  have := d.isLt
  have := a.isLt
  have := b.isLt
  have := pg.isLt
  have := t.code_lt
  unfold encE; omega
theorem vmulh (d : Reg) (a : Reg) (b : Reg) (pg : Fin 8) (t : ITy) : Statement (.vmulh d a b pg t) := by
  show encE _ _ _ _ _ _ < _
  have := d.isLt
  have := a.isLt
  have := b.isLt
  have := pg.isLt
  have := t.code_lt
  unfold encE; omega
theorem vand (d : Reg) (a : Reg) (b : Reg) (pg : Fin 8) (t : ITy) : Statement (.vand d a b pg t) := by
  show encE _ _ _ _ _ _ < _
  have := d.isLt
  have := a.isLt
  have := b.isLt
  have := pg.isLt
  have := t.code_lt
  unfold encE; omega
theorem vor (d : Reg) (a : Reg) (b : Reg) (pg : Fin 8) (t : ITy) : Statement (.vor d a b pg t) := by
  show encE _ _ _ _ _ _ < _
  have := d.isLt
  have := a.isLt
  have := b.isLt
  have := pg.isLt
  have := t.code_lt
  unfold encE; omega
theorem vxor (d : Reg) (a : Reg) (b : Reg) (pg : Fin 8) (t : ITy) : Statement (.vxor d a b pg t) := by
  show encE _ _ _ _ _ _ < _
  have := d.isLt
  have := a.isLt
  have := b.isLt
  have := pg.isLt
  have := t.code_lt
  unfold encE; omega
theorem vshl (d : Reg) (a : Reg) (b : Reg) (pg : Fin 8) (t : ITy) : Statement (.vshl d a b pg t) := by
  show encE _ _ _ _ _ _ < _
  have := d.isLt
  have := a.isLt
  have := b.isLt
  have := pg.isLt
  have := t.code_lt
  unfold encE; omega
theorem vshr (d : Reg) (a : Reg) (b : Reg) (pg : Fin 8) (t : ITy) : Statement (.vshr d a b pg t) := by
  show encE _ _ _ _ _ _ < _
  have := d.isLt
  have := a.isLt
  have := b.isLt
  have := pg.isLt
  have := t.code_lt
  unfold encE; omega
theorem vsra (d : Reg) (a : Reg) (b : Reg) (pg : Fin 8) (t : ITy) : Statement (.vsra d a b pg t) := by
  show encE _ _ _ _ _ _ < _
  have := d.isLt
  have := a.isLt
  have := b.isLt
  have := pg.isLt
  have := t.code_lt
  unfold encE; omega
theorem vmin (d : Reg) (a : Reg) (b : Reg) (pg : Fin 8) (t : ITy) : Statement (.vmin d a b pg t) := by
  show encE _ _ _ _ _ _ < _
  have := d.isLt
  have := a.isLt
  have := b.isLt
  have := pg.isLt
  have := t.code_lt
  unfold encE; omega
theorem vmax (d : Reg) (a : Reg) (b : Reg) (pg : Fin 8) (t : ITy) : Statement (.vmax d a b pg t) := by
  show encE _ _ _ _ _ _ < _
  have := d.isLt
  have := a.isLt
  have := b.isLt
  have := pg.isLt
  have := t.code_lt
  unfold encE; omega
theorem vcmp (d : Reg) (a : Reg) (b : Reg) (pg : Fin 8) (t : ITy) (lt : Bool) : Statement (.vcmp d a b pg t lt) := by
  show encE _ _ _ _ _ _ < _
  have := d.isLt
  have := a.isLt
  have := b.isLt
  have := pg.isLt
  have := t.code_lt
  have := bit_lt lt
  unfold encE; omega
theorem vsel (d : Reg) (a : Reg) (b : Reg) (pg : Fin 8) (t : ITy) : Statement (.vsel d a b pg t) := by
  show encE _ _ _ _ _ _ < _
  have := d.isLt
  have := a.isLt
  have := b.isLt
  have := pg.isLt
  have := t.code_lt
  unfold encE; omega
theorem vbcst (d : Reg) (a : Reg) (pg : Fin 8) (t : ITy) : Statement (.vbcst d a pg t) := by
  show encE _ _ _ _ _ _ < _
  have := d.isLt
  have := a.isLt
  have := pg.isLt
  have := t.code_lt
  unfold encE; omega
theorem vext (d : Reg) (a : Reg) (b : Reg) (pg : Fin 8) (t : ITy) : Statement (.vext d a b pg t) := by
  show encE _ _ _ _ _ _ < _
  have := d.isLt
  have := a.isLt
  have := b.isLt
  have := pg.isLt
  have := t.code_lt
  unfold encE; omega
theorem vperm (d : Reg) (a : Reg) (b : Reg) (pg : Fin 8) (t : ITy) : Statement (.vperm d a b pg t) := by
  show encE _ _ _ _ _ _ < _
  have := d.isLt
  have := a.isLt
  have := b.isLt
  have := pg.isLt
  have := t.code_lt
  unfold encE; omega
theorem vslide (d : Reg) (a : Reg) (b : Reg) (pg : Fin 8) (t : ITy) (up : Bool) : Statement (.vslide d a b pg t up) := by
  show encE _ _ _ _ _ _ < _
  have := d.isLt
  have := a.isLt
  have := b.isLt
  have := pg.isLt
  have := t.code_lt
  have := bit_lt up
  unfold encE; omega
theorem viota (d : Reg) (pg : Fin 8) (t : ITy) : Statement (.viota d pg t) := by
  show encE _ _ _ _ _ _ < _
  have := d.isLt
  have := pg.isLt
  have := t.code_lt
  unfold encE; omega
theorem vfadd (d : Reg) (a : Reg) (b : Reg) (pg : Fin 8) (t : FTy) (sr : Bool) : Statement (.vfadd d a b pg t sr) := by
  show encE _ _ _ _ _ _ < _
  have := d.isLt
  have := a.isLt
  have := b.isLt
  have := pg.isLt
  have := t.codes_lt
  have := bit_lt sr
  unfold encE; omega
theorem vfsub (d : Reg) (a : Reg) (b : Reg) (pg : Fin 8) (t : FTy) (sr : Bool) : Statement (.vfsub d a b pg t sr) := by
  show encE _ _ _ _ _ _ < _
  have := d.isLt
  have := a.isLt
  have := b.isLt
  have := pg.isLt
  have := t.codes_lt
  have := bit_lt sr
  unfold encE; omega
theorem vfmul (d : Reg) (a : Reg) (b : Reg) (pg : Fin 8) (t : FTy) (sr : Bool) : Statement (.vfmul d a b pg t sr) := by
  show encE _ _ _ _ _ _ < _
  have := d.isLt
  have := a.isLt
  have := b.isLt
  have := pg.isLt
  have := t.codes_lt
  have := bit_lt sr
  unfold encE; omega
theorem vfma (d : Reg) (a : Reg) (b : Reg) (pg : Fin 8) (t : FTy) (sr : Bool) : Statement (.vfma d a b pg t sr) := by
  show encE _ _ _ _ _ _ < _
  have := d.isLt
  have := a.isLt
  have := b.isLt
  have := pg.isLt
  have := t.codes_lt
  have := bit_lt sr
  unfold encE; omega
theorem vfms (d : Reg) (a : Reg) (b : Reg) (pg : Fin 8) (t : FTy) (sr : Bool) : Statement (.vfms d a b pg t sr) := by
  show encE _ _ _ _ _ _ < _
  have := d.isLt
  have := a.isLt
  have := b.isLt
  have := pg.isLt
  have := t.codes_lt
  have := bit_lt sr
  unfold encE; omega
theorem vfmin (d : Reg) (a : Reg) (b : Reg) (pg : Fin 8) (t : FTy) : Statement (.vfmin d a b pg t) := by
  show encE _ _ _ _ _ _ < _
  have := d.isLt
  have := a.isLt
  have := b.isLt
  have := pg.isLt
  have := t.codes_lt
  unfold encE; omega
theorem vfmax (d : Reg) (a : Reg) (b : Reg) (pg : Fin 8) (t : FTy) : Statement (.vfmax d a b pg t) := by
  show encE _ _ _ _ _ _ < _
  have := d.isLt
  have := a.isLt
  have := b.isLt
  have := pg.isLt
  have := t.codes_lt
  unfold encE; omega
theorem vfabs (d : Reg) (a : Reg) (pg : Fin 8) (t : FTy) : Statement (.vfabs d a pg t) := by
  show encE _ _ _ _ _ _ < _
  have := d.isLt
  have := a.isLt
  have := pg.isLt
  have := t.codes_lt
  unfold encE; omega
theorem vfcmp (d : Reg) (a : Reg) (b : Reg) (pg : Fin 8) (t : FTy) (lt : Bool) : Statement (.vfcmp d a b pg t lt) := by
  show encE _ _ _ _ _ _ < _
  have := d.isLt
  have := a.isLt
  have := b.isLt
  have := pg.isLt
  have := t.codes_lt
  have := bit_lt lt
  unfold encE; omega
theorem vfcvt (d : Reg) (a : Reg) (pg : Fin 8) (dt : ETy) (st : ETy) (sr : Bool) : Statement (.vfcvt d a pg dt st sr) := by
  show encE _ _ _ _ _ _ < _
  have := d.isLt
  have := a.isLt
  have := pg.isLt
  have := dt.code_lt
  have := st.code_lt
  have := bit_lt sr
  unfold encE; omega
theorem vfrnd (d : Reg) (a : Reg) (pg : Fin 8) (t : FTy) (mode : RMode) : Statement (.vfrnd d a pg t mode) := by
  show encE _ _ _ _ _ _ < _
  have := d.isLt
  have := a.isLt
  have := pg.isLt
  have := t.codes_lt
  have := mode.code_lt
  unfold encE; omega
theorem vaddx (d : Reg) (a : Reg) (b : Reg) (pg : Fin 8) (t : FTy) : Statement (.vaddx d a b pg t) := by
  show encE _ _ _ _ _ _ < _
  have := d.isLt
  have := a.isLt
  have := b.isLt
  have := pg.isLt
  have := t.codes_lt
  unfold encE; omega
theorem vsubx (d : Reg) (a : Reg) (b : Reg) (pg : Fin 8) (t : FTy) : Statement (.vsubx d a b pg t) := by
  show encE _ _ _ _ _ _ < _
  have := d.isLt
  have := a.isLt
  have := b.isLt
  have := pg.isLt
  have := t.codes_lt
  unfold encE; omega
theorem vmulx (d : Reg) (a : Reg) (b : Reg) (pg : Fin 8) (t : FTy) : Statement (.vmulx d a b pg t) := by
  show encE _ _ _ _ _ _ < _
  have := d.isLt
  have := a.isLt
  have := b.isLt
  have := pg.isLt
  have := t.codes_lt
  unfold encE; omega
theorem dwadd (d : Reg) (a : Reg) (b : Reg) (pg : Fin 8) : Statement (.dwadd d a b pg) := by
  show encE _ _ _ _ _ _ < _
  have := d.isLt
  have := a.isLt
  have := b.isLt
  have := pg.isLt
  unfold encE; omega
theorem dwsub (d : Reg) (a : Reg) (b : Reg) (pg : Fin 8) : Statement (.dwsub d a b pg) := by
  show encE _ _ _ _ _ _ < _
  have := d.isLt
  have := a.isLt
  have := b.isLt
  have := pg.isLt
  unfold encE; omega
theorem dwmul (d : Reg) (a : Reg) (b : Reg) (pg : Fin 8) : Statement (.dwmul d a b pg) := by
  show encE _ _ _ _ _ _ < _
  have := d.isLt
  have := a.isLt
  have := b.isLt
  have := pg.isLt
  unfold encE; omega
theorem dwnorm (d : Reg) (a : Reg) (pg : Fin 8) : Statement (.dwnorm d a pg) := by
  show encE _ _ _ _ _ _ < _
  have := d.isLt
  have := a.isLt
  have := pg.isLt
  unfold encE; omega
theorem vsum (d : Reg) (a : Reg) (pg : Fin 8) (t : FTy) : Statement (.vsum d a pg t) := by
  show encE _ _ _ _ _ _ < _
  have := d.isLt
  have := a.isLt
  have := pg.isLt
  have := t.codes_lt
  unfold encE; omega
theorem vsumc (d : Reg) (a : Reg) (pg : Fin 8) : Statement (.vsumc d a pg) := by
  show encE _ _ _ _ _ _ < _
  have := d.isLt
  have := a.isLt
  have := pg.isLt
  unfold encE; omega
theorem vredmax (d : Reg) (a : Reg) (pg : Fin 8) (t : FTy) : Statement (.vredmax d a pg t) := by
  show encE _ _ _ _ _ _ < _
  have := d.isLt
  have := a.isLt
  have := pg.isLt
  have := t.codes_lt
  unfold encE; omega
theorem vscale (d : Reg) (a : Reg) (b : Reg) (pg : Fin 8) (t : FTy) (sr : Bool) : Statement (.vscale d a b pg t sr) := by
  show encE _ _ _ _ _ _ < _
  have := d.isLt
  have := a.isLt
  have := b.isLt
  have := pg.isLt
  have := t.codes_lt
  have := bit_lt sr
  unfold encE; omega
theorem vsfu (d : Reg) (a : Reg) (pg : Fin 8) (t : FTy) (f : SfuFn) : Statement (.vsfu d a pg t f) := by
  show encE _ _ _ _ _ _ < _
  have := d.isLt
  have := a.isLt
  have := pg.isLt
  have := t.codes_lt
  have := f.code_lt
  unfold encE; omega
theorem mzero (c : Fin 2) : Statement (.mzero c) := by
  show encA _ _ _ _ _ < _
  have := c.isLt
  unfold encA; omega
theorem mma (c : Fin 2) (ga : Fin 4) (gb : Fin 4) (clr : Bool) : Statement (.mma c ga gb clr) := by
  show encA _ _ _ _ _ < _
  have := c.isLt
  have := ga.isLt
  have := gb.isLt
  have := bit_lt clr
  unfold encA; omega
theorem mmas (c : Fin 2) (ga : Fin 4) (gb : Fin 4) (clr : Bool) : Statement (.mmas c ga gb clr) := by
  show encA _ _ _ _ _ < _
  have := c.isLt
  have := ga.isLt
  have := gb.isLt
  have := bit_lt clr
  unfold encA; omega
theorem msemi (s : Semiring) : Statement (.msemi s) := by
  show encA _ _ _ _ _ < _
  have := s.code_lt
  unfold encA; omega
theorem mprog (a : Reg) (m : Mode) : Statement (.mprog a m) := by
  show encA _ _ _ _ _ < _
  have := a.isLt
  have := m.code_lt
  unfold encA; omega
theorem mrun (c : Fin 2) (ga : Fin 4) (gb : Fin 4) (clr : Bool) : Statement (.mrun c ga gb clr) := by
  show encA _ _ _ _ _ < _
  have := c.isLt
  have := ga.isLt
  have := gb.isLt
  have := bit_lt clr
  unfold encA; omega
theorem mstz (a : Reg) (c : Fin 2) (m : Mode) (f : ZFmt) : Statement (.mstz a c m f) := by
  show encA _ _ _ _ _ < _
  have := a.isLt
  have := c.isLt
  have := m.code_lt
  have := f.code_lt
  unfold encA; omega
theorem mldz (c : Fin 2) (a : Reg) (m : Mode) : Statement (.mldz c a m) := by
  show encA _ _ _ _ _ < _
  have := c.isLt
  have := a.isLt
  have := m.code_lt
  unfold encA; omega
theorem mmovzv (a : Reg) (c : Fin 2) (row : BitVec 4) : Statement (.mmovzv a c row) := by
  show encA _ _ _ _ _ < _
  have := a.isLt
  have := c.isLt
  have := row.isLt
  unfold encA; omega
theorem msync : Statement (.msync) := by
  show encA _ _ _ _ _ < _
  unfold encA; omega
theorem mstat (a : Reg) : Statement (.mstat a) := by
  show encA _ _ _ _ _ < _
  have := a.isLt
  unfold encA; omega
theorem rbaseWrite (c : CoreId) (t : StrandId) (v : Word) : Statement (.rbaseWrite c t v) := Nat.two_pow_pos 31
theorem pailheadWrite (c : CoreId) (t : StrandId) (v : Word) : Statement (.pailheadWrite c t v) := Nat.two_pow_pos 31
theorem pailGeometryWrite (c : CoreId) (t : StrandId) (size : Bool) (v : Word) : Statement (.pailGeometryWrite c t size v) := Nat.two_pow_pos 31
theorem xsrcentWrite (c : CoreId) (t : StrandId) (v : Word) : Statement (.xsrcentWrite c t v) := Nat.two_pow_pos 31
theorem mscopeWrite (c : CoreId) (t : StrandId) (v : Word) : Statement (.mscopeWrite c t v) := Nat.two_pow_pos 31
theorem engerrWrite (c : CoreId) (t : StrandId) (v : Word) : Statement (.engerrWrite c t v) := Nat.two_pow_pos 31
theorem stateRegisterWrite (c : CoreId) (t : StrandId) (sel : BitVec 12) (v : Word) : Statement (.stateRegisterWrite c t sel v) := Nat.two_pow_pos 31
theorem faultEntry (c : CoreId) (t : StrandId) (unc : Bool) : Statement (.faultEntry c t unc) := Nat.two_pow_pos 31
theorem userEventDelivery (c : CoreId) (t : StrandId) : Statement (.userEventDelivery c t) := Nat.two_pow_pos 31
theorem sequencerEntryStart (c : CoreId) (t : StrandId) : Statement (.sequencerEntryStart c t) := Nat.two_pow_pos 31
theorem sfuRequestAccept (c : CoreId) (t : StrandId) : Statement (.sfuRequestAccept c t) := Nat.two_pow_pos 31
theorem sfuResult (o : Fin 1024) : Statement (.sfuResult o) := Nat.two_pow_pos 31
theorem churnEntryStart (c : CoreId) : Statement (.churnEntryStart c) := Nat.two_pow_pos 31
theorem churnEntryRetire (c : CoreId) : Statement (.churnEntryRetire c) := Nat.two_pow_pos 31
theorem ringStarved (c : CoreId) : Statement (.ringStarved c) := Nat.two_pow_pos 31
theorem copyCommandStart (c : CoreId) : Statement (.copyCommandStart c) := Nat.two_pow_pos 31
theorem cpysTilePush (c : CoreId) : Statement (.cpysTilePush c) := Nat.two_pow_pos 31
theorem ringRoomTimeout (c : CoreId) : Statement (.ringRoomTimeout c) := Nat.two_pow_pos 31
theorem completionArrival (c : CoreId) : Statement (.completionArrival c) := Nat.two_pow_pos 31
theorem recvWake (c : CoreId) (t : StrandId) : Statement (.recvWake c t) := Nat.two_pow_pos 31
theorem fullWaitWake (c : CoreId) (t : StrandId) : Statement (.fullWaitWake c t) := Nat.two_pow_pos 31
theorem waitRequestRetry (c : CoreId) (t : StrandId) : Statement (.waitRequestRetry c t) := Nat.two_pow_pos 31
theorem cbwaitWake (c : CoreId) (t : StrandId) : Statement (.cbwaitWake c t) := Nat.two_pow_pos 31
theorem evwaitWake (c : CoreId) (t : StrandId) : Statement (.evwaitWake c t) := Nat.two_pow_pos 31
theorem takeWaitWake (c : CoreId) (t : StrandId) : Statement (.takeWaitWake c t) := Nat.two_pow_pos 31
theorem barrierRelease (lv : BLevel) (inst : Fin 256) (k : BitVec 4) : Statement (.barrierRelease lv inst k) := Nat.two_pow_pos 31
theorem atomicAtUnit (c : CoreId) (t : StrandId) (id : Nat) : Statement (.atomicAtUnit c t id) := Nat.two_pow_pos 31
theorem messageAccept (id : Nat) : Statement (.messageAccept id) := Nat.two_pow_pos 31
theorem messageResend (id : Nat) : Statement (.messageResend id) := Nat.two_pow_pos 31
theorem sendAcknowledge (id : Nat) : Statement (.sendAcknowledge id) := Nat.two_pow_pos 31
theorem sendRefusal (id : Nat) : Statement (.sendRefusal id) := Nat.two_pow_pos 31
theorem registerArrival (id : Nat) : Statement (.registerArrival id) := Nat.two_pow_pos 31
theorem reassemblyTimeout (id : Nat) : Statement (.reassemblyTimeout id) := Nat.two_pow_pos 31
theorem postDelivery (id : Nat) : Statement (.postDelivery id) := Nat.two_pow_pos 31
theorem exchangePhaseStart (c : CoreId) : Statement (.exchangePhaseStart c) := Nat.two_pow_pos 31
theorem xmitDrive (c : CoreId) (t : StrandId) : Statement (.xmitDrive c t) := Nat.two_pow_pos 31
theorem xselSample (c : CoreId) : Statement (.xselSample c) := Nat.two_pow_pos 31
theorem remeasurement (c : CoreId) (cvf : BitVec 128) (cvl : BitVec 128) : Statement (.remeasurement c cvf cvl) := Nat.two_pow_pos 31
theorem curveUpdateTimeout (c : CoreId) : Statement (.curveUpdateTimeout c) := Nat.two_pow_pos 31
theorem laneRemeasurement (o : Fin 1024) (lane : Fin 128) (pts : BitVec 128) : Statement (.laneRemeasurement o lane pts) := Nat.two_pow_pos 31
theorem laneCapApply (c : CoreId) : Statement (.laneCapApply c) := Nat.two_pow_pos 31
theorem powerControlTick : Statement (.powerControlTick) := Nat.two_pow_pos 31
theorem railSettle (q : Fin 2048) : Statement (.railSettle q) := Nat.two_pow_pos 31
theorem budgetTick (bw st est : Nat) (cls : Fin 4) : Statement (.budgetTick bw st est cls) := Nat.two_pow_pos 31
theorem junctionSample (c : CoreId) (tj : Int) : Statement (.junctionSample c tj) := Nat.two_pow_pos 31
theorem submissionCommit (req : Nat) (v : Word) : Statement (.submissionCommit req v) := Nat.two_pow_pos 31
theorem substatWrite (v : Word) : Statement (.substatWrite v) := Nat.two_pow_pos 31
theorem eqheadWrite (v : Word) : Statement (.eqheadWrite v) := Nat.two_pow_pos 31
theorem bar0RegisterWrite (req : Nat) (off : BitVec 16) (v : Word) : Statement (.bar0RegisterWrite req off v) := Nat.two_pow_pos 31
theorem hostBar2Access (pa : Nat) (op : RemoteOp) : Statement (.hostBar2Access pa op) := Nat.two_pow_pos 31
theorem submissionTake (rd : PacketRead) : Statement (.submissionTake rd) := Nat.two_pow_pos 31
theorem launchRelease (id : Nat) : Statement (.launchRelease id) := Nat.two_pow_pos 31
theorem replayRecord (c : CoreId) : Statement (.replayRecord c) := Nat.two_pow_pos 31
theorem taskEnd (c : CoreId) : Statement (.taskEnd c) := Nat.two_pow_pos 31
theorem eventQueueWrite : Statement (.eventQueueWrite) := Nat.two_pow_pos 31
theorem launchTimeout (id : Nat) : Statement (.launchTimeout id) := Nat.two_pow_pos 31
theorem stealReport (id : Nat) (die : Fin 4) : Statement (.stealReport id die) := Nat.two_pow_pos 31
theorem contextSwitchOut (c : CoreId) : Statement (.contextSwitchOut c) := Nat.two_pow_pos 31
theorem holdTimeout (c : CoreId) : Statement (.holdTimeout c) := Nat.two_pow_pos 31
theorem contextRestore (img : Nat) (c : CoreId) : Statement (.contextRestore img c) := Nat.two_pow_pos 31
theorem forwardingWindowEnd (img : Nat) : Statement (.forwardingWindowEnd img) := Nat.two_pow_pos 31
theorem walkerQueueRetry (c : CoreId) (k : TlbKind) (t : StrandId) : Statement (.walkerQueueRetry c k t) := Nat.two_pow_pos 31
theorem tscReply (cl : Fin 256) (ans : TscAnswer) : Statement (.tscReply cl ans) := Nat.two_pow_pos 31
theorem shootdown (asid : BitVec 16) (lo : VAddr) (hi : VAddr) : Statement (.shootdown asid lo hi) := Nat.two_pow_pos 31
theorem containmentFence (d : Nat) (x0 : Nat) (y0 : Nat) (w : Nat) (h : Nat) : Statement (.containmentFence d x0 y0 w h) := Nat.two_pow_pos 31
theorem containmentFenced (r : Nat) : Statement (.containmentFenced r) := Nat.two_pow_pos 31
theorem containmentReset (r : Nat) : Statement (.containmentReset r) := Nat.two_pow_pos 31
theorem containmentTest (r : Nat) : Statement (.containmentTest r) := Nat.two_pow_pos 31
theorem containmentTestEnd (r : Nat) (failed : List Nat) : Statement (.containmentTestEnd r failed) := Nat.two_pow_pos 31
theorem dualMismatch (c : CoreId) : Statement (.dualMismatch c) := Nat.two_pow_pos 31
theorem dualPartnerTimeout (c : CoreId) : Statement (.dualPartnerTimeout c) := Nat.two_pow_pos 31
theorem infieldTestStart (c : CoreId) : Statement (.infieldTestStart c) := Nat.two_pow_pos 31
theorem infieldTestAbort (c : CoreId) : Statement (.infieldTestAbort c) := Nat.two_pow_pos 31
theorem infieldTestPass (c : CoreId) : Statement (.infieldTestPass c) := Nat.two_pow_pos 31
theorem infieldTestFail (c : CoreId) : Statement (.infieldTestFail c) := Nat.two_pow_pos 31
theorem infieldPassExpiry (c : CoreId) : Statement (.infieldPassExpiry c) := Nat.two_pow_pos 31
theorem softErrorCorrected (c : CoreId) (oct : Bool) : Statement (.softErrorCorrected c oct) := Nat.two_pow_pos 31
theorem peerRequest (p : Fin 64) (pa : Nat) (op : RemoteOp) : Statement (.peerRequest p pa op) := Nat.two_pow_pos 31
theorem linkPortDown (p : Fin 16) : Statement (.linkPortDown p) := Nat.two_pow_pos 31
theorem peerNoPortTimeout (c : CoreId) (t : StrandId) (id : Nat) : Statement (.peerNoPortTimeout c t id) := Nat.two_pow_pos 31
theorem liveUpdate (image : BootImage) (readable : Bool) (version : BitVec 32) : Statement (.liveUpdate image readable version) := Nat.two_pow_pos 31
theorem roleSwap : Statement (.roleSwap) := Nat.two_pow_pos 31
theorem failover : Statement (.failover) := Nat.two_pow_pos 31
theorem coldStart (d : StartData) : Statement (.coldStart d) := Nat.two_pow_pos 31
theorem warmStart (d : StartData) : Statement (.warmStart d) := Nat.two_pow_pos 31
theorem accessPerformed (c : CoreId) (t : StrandId) (id : Nat) : Statement (.accessPerformed c t id) := Nat.two_pow_pos 31
theorem accessReply (c : CoreId) (t : StrandId) (id : Nat) : Statement (.accessReply c t id) := Nat.two_pow_pos 31
theorem nackResend (id : Nat) : Statement (.nackResend id) := Nat.two_pow_pos 31
theorem detectedLinkError (id : Nat) : Statement (.detectedLinkError id) := Nat.two_pow_pos 31
theorem linkPortUp (p : Fin 16) : Statement (.linkPortUp p) := Nat.two_pow_pos 31

end Laws.EncodeRange
end Sys2Proof
end

