-- ==== Sys2Proof/Tests/Slice0.lean ====
section
/-!
SUPPORT. Tests: words that the spec writes out, ill-formed instructions, states that meet the hypotheses of the statements (a
witness of a statement is a theorem that begins with test_ and names it), and steps on small states.
-/
namespace Sys2Proof.Tests
open Sys2Proof.Machine

set_option maxRecDepth 20000
set_option exponentiation.threshold 20000

/-! ## Words of the spec, by family (the assembly stands beside each word in the spec's tables and examples) -/

theorem test_decode_flow : decodeWord 0x80000000 = .instr .nop ∧ decodeWord 0x8797FFFC = .instr (.bnz 5 (-4))
    ∧ decodeWord 0x88000408 = .instr (.yield 8 true) ∧ decodeWord 0x88000010 = .instr (.yield 16 false) := by decide
theorem test_decode_system : decodeWord 0x88900019 = .instr (.gets 4 0x019) ∧ decodeWord 0x89004084 = .instr (.sets 0x084 2)
    ∧ decodeWord 0x8C004000 = .instr (.evmask 0 2) ∧ decodeWord 0x8B000000 = .instr .uevret
    ∧ decodeWord 0x8D968000 = .instr (.mkrcap 5 20 .x false) := by decide
theorem test_decode_memory : decodeWord 0x10144001 = .instr (.ld 5 2 .L 1) ∧ decodeWord 0x9210D7FF = .instr (.st 4 6 .G (-1))
    ∧ decodeWord 0x908D0800 = .instr (.lds 3 8 .C 0) ∧ decodeWord 0x9110D002 = .instr (.lda 4 6 .G 2)
    ∧ decodeWord 0x931C3003 = .instr (.stl 7 1 .G 3) ∧ decodeWord 0x95008500 = .instr (.clfe 4 5 .L) := by decide
theorem test_decode_atomics : decodeWord 0x9811050E = .instr (.aadd 4 8 5 false .relaxed .die .G)
    ∧ decodeWord 0x9B08C724 = .instr (.aswp 2 6 7 false .acq .core .L) ∧ decodeWord 0x9B9105EE = .instr (.acas 4 8 5 true .ar .die .G)
    ∧ decodeWord 0x9C01052E = .instr (.accf 8 5 .b16 .die .G) ∧ decodeWord 0x9C99008E = .instr (.cellrd 6 8 true .f32 .die .G) := by decide
theorem test_decode_synchronisation : decodeWord 0x9D00000E = .instr (.fence .rel .die) ∧ decodeWord 0x9D000014 = .instr (.fence .full .system)
    ∧ decodeWord 0x9D81000E = .instr (.promote 8 .die .G) ∧ decodeWord 0x9E000005 = .instr (.bar 5 .cluster)
    ∧ decodeWord 0x9E800012 = .instr (.bari 2 .die) ∧ decodeWord 0x9F000012 = .instr (.barw 2 .die)
    ∧ decodeWord 0x9F8C0005 = .instr (.bset 3 5 .cluster) := by decide
theorem test_decode_messages : decodeWord 0xA0392000 = .instr (.send 14 9) ∧ decodeWord 0xA0806700 = .instr (.rsend 3 7)
    ∧ decodeWord 0xA1006420 = .instr (.rsendv 3 4 1) ∧ decodeWord 0xA1900000 = .instr (.recv 4) ∧ decodeWord 0xA2100000 = .instr (.rpeek 4)
    ∧ decodeWord 0xA2800000 = .instr .rack ∧ decodeWord 0xA308C000 = .instr (.post 2 6) ∧ decodeWord 0xA38C0001 = .instr (.take 3 true)
    ∧ decodeWord 0xA4280000 = .instr (.next 10) ∧ decodeWord 0xA488C000 = .instr (.mcast 2 6)
    ∧ decodeWord 0xA501A004 = .instr (.msgmov 13 true .L) := by decide
theorem test_decode_exchange : decodeWord 0xA5800002 = .instr (.xphase 2) ∧ decodeWord 0xA600A0C1 = .instr (.xmit 40 6 1)
    ∧ decodeWord 0xA680C503 = .instr (.xsel 49 8 3) ∧ decodeWord 0xA7000000 = .instr .xend := by decide
theorem test_decode_engines : decodeWord 0xA8516C60 = .instr (.cpy 20 11 12 false true .G .L) ∧ decodeWord 0xA8816C20 = .instr (.cpys 0 11 12 false false .G)
    ∧ decodeWord 0xAA180000 = .instr (.cpyq 6) ∧ decodeWord 0xAA814B00 = .instr (.ringdef 0 10 11 .L)
    ∧ decodeWord 0xAB182000 = .instr (.ringst 6 1) ∧ decodeWord 0xAB80E002 = .instr (.tguard 7 2) ∧ decodeWord 0xAC014000 = .instr (.tslot 10 0)
    ∧ decodeWord 0xAC806400 = .instr (.cbinit 3 4) ∧ decodeWord 0xAD146000 = .instr (.cbwait 5 3) ∧ decodeWord 0xAD946000 = .instr (.cbtest 5 3) := by decide
theorem test_decode_vector_memory : decodeWord 0xB0014022 = .instr (.vld 0 10 1 .G) ∧ decodeWord 0xB181A022 = .instr (.vst 0 13 1 .G) := by decide
theorem test_decode_vector_control : decodeWord 0xB8040004 = .instr (.vclaim 1 4) ∧ decodeWord 0xB8800000 = .instr .vfree
    ∧ decodeWord 0xB900A011 = .instr (.vseq 5 1 1) ∧ decodeWord 0xBA058002 = .instr (.pset 1 12 .w32)
    ∧ decodeWord 0xBA86000A = .instr (.pseti 1 10 .w32) ∧ decodeWord 0xBB800000 = .instr (.rbset 0) := by decide
theorem test_decode_integer : decodeWord 0x4024A600 = .instr (.add 9 5 6 false) ∧ decodeWord 0xC09CA040 = .instr (.addi 7 5 64)
    ∧ decodeWord 0xCD940002 = .instr (.movi 5 2) ∧ decodeWord 0xCD9FFFFE = .instr (.movi 7 (-2)) ∧ decodeWord 0xCE141000 = .instr (.movhi 5 4096)
    ∧ decodeWord 0xD094A009 = .instr (.ptag 5 5 9 0) ∧ decodeWord 0xD0A94153 = .instr (.ptag 10 10 0x13 5)
    ∧ decodeWord 0xD038DFF0 = .instr (.paddi 14 6 (-16)) := by decide
theorem test_decode_vector_integer : decodeWord 0xD4880124 = .instr (.vadd 2 0 1 1 .i32 false) ∧ decodeWord 0xD7008422 = .instr (.vor 0 4 4 1 .i16)
    ∧ decodeWord 0xDC3C800C = .instr (.vext 15 4 0 0 .n32) ∧ decodeWord 0xDDA80002 = .instr (.viota 10 0 .i16) := by decide
theorem test_decode_vector_float : decodeWord 0x5E080130 = .instr (.vfadd 2 0 1 1 .f32 false) ∧ decodeWord 0xDF420030 = .instr (.vfmul 16 16 0 1 .f32 false)
    ∧ decodeWord 0xE2A94114 = .instr (.vfcvt 10 10 0 (.flt .b16) (.int .i16) false) ∧ decodeWord 0xE3880110 = .instr (.vaddx 2 0 1 0 .f32)
    ∧ decodeWord 0xE790C030 = .instr (.vsumc 4 6 1) ∧ decodeWord 0xE8800732 = .instr (.vscale 0 0 7 1 .f16 false) := by decide
theorem test_decode_matrix : decodeWord 0xE9800100 = .instr (.mzero 1) ∧ decodeWord 0xEA002101 = .instr (.mma 1 0 1 true)
    ∧ decodeWord 0xEA886001 = .instr (.mmas 0 2 3 true) ∧ decodeWord 0xEB9C0000 = .instr (.mprog 7 .L) ∧ decodeWord 0xEC002000 = .instr (.mrun 0 0 1 false)
    ∧ decodeWord 0xECB00002 = .instr (.mstz 12 0 .G .native) ∧ decodeWord 0xEC900006 = .instr (.mstz 4 0 .G .b16) ∧ decodeWord 0xED300100 = .instr (.mldz 1 12 .L)
    ∧ decodeWord 0xED900003 = .instr (.mmovzv 4 0 3) ∧ decodeWord 0xEE000000 = .instr .msync ∧ decodeWord 0xEE940000 = .instr (.mstat 5) := by decide
/-- Scalar float: FADD.F32 X9, X5, X6 by Tables 3.2, 3.3 and 3.5: opcode 0xA4, d 9, a 5, b 6, fn 0. -/
theorem test_decode_float : decodeWord 0xD224A600 = .instr (.fadd 9 5 6 .f32 false) := by decide
/-- A NOP with a field that is not 0, and an opcode that is not assigned. -/
theorem test_decode_refused : decodeWord 0x80000001 = .func ∧ decodeWord 0x8F000000 = .opcode := by decide

/-! ## Ill-formed instructions -/

/-- VCLAIM asks for 4 to 64 lanes (R108). -/
theorem test_wf_vclaim : (Instr.vclaim 1 3).wf = false ∧ (Instr.vclaim 1 65).wf = false ∧ (Instr.vclaim 1 64).wf = true := by decide
/-- SPILL and FILL stay within the 32 registers (R36, R63). -/
theorem test_wf_spill : (Instr.spill .x 20 12).wf = false ∧ (Instr.fill .v 31 1).wf = false ∧ (Instr.spill .x 20 11).wf = true := by decide
/-- P0 is no destination (R40). -/
theorem test_wf_pset : (Instr.pset 0 1 .w32).wf = false ∧ (Instr.pseti 0 1 .w32).wf = false ∧ (Instr.pset 1 1 .w32).wf = true := by decide
/-- RINGDEF and MPROG take the modes L and C (Table 3.8). -/
theorem test_wf_ringdef : (Instr.ringdef 0 1 2 .G).wf = false ∧ (Instr.ringdef 0 1 2 .N).wf = false ∧ (Instr.ringdef 0 1 2 .C).wf = true := by decide
theorem test_wf_mprog : (Instr.mprog 1 .G).wf = false ∧ (Instr.mprog 1 .L).wf = true := by decide

/-! ## Small states -/

/-- Strand 0 of core 0 at supervisor privilege, and at user privilege, with its pc at the placed NOP. -/
def w0 : State := State.reset.placed 0x80000000
def me (f : Strand → Strand) (s : State) : State := s.setMe (f s.me)
def my (f : Core → Core) (s : State) : State := s.setMyCore (f s.myCore)
def part (f : Part → Part) (s : State) : State := my (fun k => { k with part := f k.part }) s
def u0 : State := me (fun st => { st with stat := { st.stat with sup := false } }) w0
/-- X registers, by number and value. -/
def xs (l : List (Nat × Nat)) (s : State) : State := me (fun st => l.foldl (fun st e => st.xput e.1 { val := BitVec.ofNat 64 e.2 }) st) s
/-- A fat pointer in X register `n`: format, log2 of the block length, address. -/
def ptr (n f e va : Nat) (s : State) : State := me (fun st => st.xput n { val := BitVec.ofNat 64 (f * 2 ^ 58 + e * 2 ^ 54 + va), mark := true }) s
/-- `exec` answers a next state for which `p` holds. -/
def runs (i : Instr) (s : State) (p : State → Bool) : Bool := match exec i s with | .next t => p t | _ => false
/-- The state with word `w` at offset `k` from the placed code. -/
def code (k w : Nat) (s : State) : State := s.writeN (placedAt + k) 4 w
def at4 : State := me (fun st => { st with pc := 4 }) u0
/-- Lanes 0 to n − 1 of the octet, held by the strand. -/
def lanes (n : Nat) (s : State) : State := me (fun st => { st with lanes := List.range n }) s

theorem fetches (s : State) (pc : VAddr) (pa w : Nat) (h : s.translate s.curCore .fetch s.me.regs.asid .fetch pc.toNat = .ok [pa])
    (hp : s.peerDown pa = false) (ht : tcmCore pa = none) (hb : s.badWords.contains (pa / 4) = false) (hr : s.readN pa 4 = w)
    (hl : s.codeLog = [] := by rfl) : FetchesAt s pc w :=
  ⟨pa, h, hp, fun _ hq => (nomatch ht.symm.trans hq), hb, by simp [State.codeWord, State.oldWords, hl, hr]⟩

/-! ## Witnesses: the machine -/

theorem test_StepRunsLoneWord : u0.agenda = .issue 0 0 :: [] ∧ MayRun (({ u0 with agenda := [] } : State).at_ 0 0)
    ∧ FetchesAt (({ u0 with agenda := [] } : State).at_ 0 0) 0 0x80000000 ∧ 0x80000000 / 2 ^ 31 = 1 ∧ decodeWord 0x80000000 = .instr .nop
    ∧ privileged 0x80000000 = false ∧ (({ u0 with agenda := [] } : State).at_ 0 0).followers 0 0 = [] :=
  ⟨by decide, by decide, fetches _ _ placedAt _ (by decide) (by decide) (by decide) (by decide) (by decide), by decide, by decide, by decide, by decide⟩
/-- The pair of the tutorial: LD X5, L:[X2+8] || ADDI X6, X6, #1. -/
def pair0 : State := code 4 0x4098C001 (code 0 0x10144001 u0)
theorem test_StepRunsPair : MayRun (({ pair0 with agenda := [] } : State).at_ 0 0) ∧ FetchesAt (({ pair0 with agenda := [] } : State).at_ 0 0) 0 0x10144001
    ∧ FetchesAt (({ pair0 with agenda := [] } : State).at_ 0 0) (nextPc 0 4) 0x4098C001 ∧ decodeWord 0x10144001 = .instr (.ld 5 2 .L 1)
    ∧ decodeWord 0x4098C001 = .instr (.addi 6 6 1) ∧ privileged 0x10144001 = false ∧ (({ pair0 with agenda := [] } : State).at_ 0 0).followers 0 0 = [] :=
  ⟨by decide, fetches _ _ placedAt _ (by decide) (by decide) (by decide) (by decide) (by decide),
    fetches _ _ (placedAt + 4) _ (by decide) (by decide) (by decide) (by decide) (by decide), by decide, by decide, by decide, by decide⟩
/-- Pairs of a control word and an arithmetic word: both complete; equal destinations; the first faults; the second faults. -/
theorem test_StepRunsPair_effects : (∀ p ∈ [(Instr.bra 1, Instr.addi 6 6 1), (.call 1, .addi 30 6 1), (.trap 7, .addi 6 6 1), (.nop, .ptag 5 5 13 0)],
      PairReady p.1 p.2 u0 ∧ u0.me.regChecks u0.me.rbase.toNat p.1 = none ∧ u0.me.regChecks u0.me.rbase.toNat p.2 = none)
    ∧ u0.me.sameDest (.bra 1) (.addi 6 6 1) = false ∧ registerWord (.bra 1) = true ∧ registerWord (.addi 6 6 1) = true ∧ floatWord (.addi 6 6 1) = false
    ∧ (Instr.bra 1).op < 0x80 ∧ 0x80 ≤ (Instr.addi 6 6 1).op ∧ u0.me.stat.slave = false ∧ u0.myCore.churnQ.length ≤ 2
    ∧ 30 ∈ (Instr.call 1).xWrites ∧ 30 ∈ (Instr.addi 30 6 1).xWrites ∧ u0.me.sameDest (.trap 7) (.addi 6 6 1) = false ∧ u0.me.sameDest .nop (.ptag 5 5 13 0) = false
    ∧ (match rawOf (.trap 7) (issuedPair u0) with | .trap g => g == { code := 0x08, trapno := 7 } | _ => false) = true
    ∧ (match rawOf (.ptag 5 5 13 0) (issuedPair u0) with | .trap g => g == { code := 0x13 } | _ => false) = true
    ∧ (let t := issuePair (.bra 1) (.addi 6 6 1) u0; t.me.pc == 4 && t.me.xr 6 == 1 && t.me.ycnt == 1) = true
    ∧ (issuePair (.call 1) (.addi 30 6 1) u0).me.regs.cause = 0x03 := by decide
theorem test_DecodeFaults_unaligned : at4.me.stat.slave = false ∧ FetchesAt (code 4 0x10144001 at4) at4.me.pc 0x10144001 ∧ at4.me.pc.toNat % 8 ≠ 0
    ∧ 0x10144001 / 2 ^ 31 = 0 :=
  ⟨by decide, fetches _ _ (placedAt + 4) _ (by decide) (by decide) (by decide) (by decide) (by decide), by decide, by decide⟩
theorem test_DecodeFaults_opcode : FetchesAt (code 0 0x8F000000 u0) u0.me.pc 0x8F000000 ∧ decodeWord 0x8F000000 = .opcode :=
  ⟨fetches _ _ placedAt _ (by decide) (by decide) (by decide) (by decide) (by decide), by decide⟩
theorem test_DecodeFaults_privileged : FetchesAt (code 0 0x8A800000 u0) u0.me.pc 0x8A800000 ∧ decodeWord 0x8A800000 = .instr .eret
    ∧ privileged 0x8A800000 = true ∧ u0.me.stat.sup = false :=
  ⟨fetches _ _ placedAt _ (by decide) (by decide) (by decide) (by decide) (by decide), by decide, by decide, by decide⟩
theorem test_DecodeFaults_func : FetchesAt (code 0 0x80000001 u0) u0.me.pc 0x80000001 ∧ decodeWord 0x80000001 = .func ∧ privileged 0x80000001 = false :=
  ⟨fetches _ _ placedAt _ (by decide) (by decide) (by decide) (by decide) (by decide), by decide, by decide⟩
theorem test_DecodeFaults_pair : FetchesAt (code 0 0x10144001 u0) u0.me.pc 0x10144001
    ∧ FetchesAt (code 4 0x80000000 (code 0 0x10144001 u0)) (nextPc u0.me.pc 4) 0x80000000 ∧ u0.me.pc.toNat % 8 = 0 :=
  ⟨fetches _ _ placedAt _ (by decide) (by decide) (by decide) (by decide) (by decide),
    fetches _ _ (placedAt + 4) _ (by decide) (by decide) (by decide) (by decide) (by decide), by decide⟩
/-- The agenda after a step from `u0`: the turn placed there is past. -/
theorem step_u0 : (match step u0 with | .next t => t.agenda == [] | _ => false) = true ∧ u0.agenda ≠ [] := by decide
theorem test_StepKeepsMemoryCanonical : u0.Inv ∧ ∃ t, step u0 = .next t ∧ t ≠ u0 := by
  have h := step_u0
  refine ⟨⟨by decide, by decide⟩, ?_⟩
  cases hs : step u0 with
  | next t => exact ⟨t, rfl, fun e => h.2 (by simpa [hs, e] using h.1)⟩
  | fault => simp [hs] at h
  | refused => simp [hs] at h
/-- What closes a step changes nothing at `u0`: no strand waits and no pair is at work. -/
theorem test_StepRunsLoneWord_close : u0.pairs = [] ∧ u0.twins = [] ∧ u0.twinImages = [] ∧ u0.waiters = [] := by decide
theorem test_FaultEntry : (u0.strand 0 0).stat.sup = false ∧ (w0.strand 0 0).stat.sup = true ∧ Tab.has 0 (w0.core 0).part.strands = true := by decide
theorem test_IssueChecks : (let s := me (fun st => { st with status := .held }) u0; (s.canIssue && s.me.scoreboard .nop && s.myCore.permitted .nop) = false)
    ∧ privileged (encode .eret) = true ∧ (u0.canIssue && u0.me.scoreboard .eret && u0.myCore.permitted .eret) = true
    ∧ (let s := me (fun st => { st with ybound := 0 }) u0; s.me.ybound.toNat < s.me.ycnt.toNat + 1 ∧ s.me.wordChecks .nop = none
      ∧ (s.canIssue && s.me.scoreboard .nop && s.myCore.permitted .nop) = true ∧ (match rawOf .nop (issued .nop s) with | .wait => false | _ => true) = true)
    ∧ (let s := my (fun k => { k with churnQ := [{ instr := .mzero 0, strand := 0, pc := 0, npc := 4, pa := 0, len := 0 }] }) (me (fun st => { st with ybound := 0 }) u0)
       (match rawOf .msync (issued .msync s) with | .wait => true | _ => false) = true ∧ (s.canIssue && s.me.scoreboard .msync && s.myCore.permitted .msync) = true
        ∧ s.me.wordChecks .msync = none) := by decide

/-! ## Witnesses: scalar words -/

theorem test_Ready_integer : ∀ w : Bool, ∀ i ∈ [Instr.add 1 2 3 w, .sub 1 2 3 w, .mul 1 2 3 w, .mulh 1 2 3 w, .mulhn 1 2 3 w, .div 1 2 3 w, .divn 1 2 3 w,
    .rem 1 2 3 w, .remn 1 2 3 w, .shl 1 2 3 w, .shr 1 2 3 w, .sra 1 2 3 w, .addi 1 2 3, .andi 1 2 3, .ori 1 2 3, .xori 1 2 3, .slti 1 2 3, .shli 1 2 3,
    .shri 1 2 3, .srai 1 2 3, .movi 1 2, .movhi 1 2], Ready i u0 := by decide
theorem test_Ready_logic : ∀ i ∈ [Instr.and 1 2 3, .or 1 2 3, .xor 1 2 3, .slt 1 2 3, .sltn 1 2 3, .min 1 2 3, .max 1 2 3, .clz 1 2, .popc 1 2, .padd 1 2 3,
    .paddi 1 2 3, .ptag 1 2 9 0, .ptag 1 2 13 0, .pstrip 1 2, .sel 1 2 3, .sel 0 2 3], Ready i u0 := by decide
theorem test_Ready_float : ∀ t ∈ [FTy.f32, .f16, .b16], ∀ b : Bool, ∀ i ∈ [Instr.fadd 1 2 3 t b, .fmul 1 2 3 t b, .fma 1 2 3 t b, .fcvt 1 2 (.int .i8) (.flt t) b,
    .fcvt 1 2 (.int .n16) (.int .i32) b, .fcmp 1 2 3 t .un, .fcmp 1 2 3 t .lt], Ready i u0 := by decide
/-- The examples of R77: rows of 0x43488000, 0xC3006666 and 0xC300999A to INT8, and 0x3F808000 to BF16. -/
theorem test_ScalarFloat_convert : (convert (.int .i8) (.flt .f32) .rne 0 0x43488000).bits = 127 ∧ (convert (.int .i8) (.flt .f32) .rne 0 0x43488000).flags = { nv := true }
    ∧ ITy.i8.read (convert (.int .i8) (.flt .f32) .rne 0 0xC3006666).bits = -128 ∧ (convert (.int .i8) (.flt .f32) .rne 0 0xC3006666).flags = { nx := true }
    ∧ (convert (.int .i8) (.flt .f32) .rne 0 0xC300999A).flags = { nv := true }
    ∧ (convert (.flt .b16) (.flt .f32) .rne 0 0x3F808000).bits = 0x3F80 ∧ (convert (.flt .b16) (.flt .f32) .rne 0 0x3F808000).flags = { nx := true }
    ∧ FTy.f32.fmt.val 0x7FC00000 = .nan ∧ FTy.f32.fmt.val 0xFF800000 = .inf true ∧ (match FTy.f32.fmt.val 0x43488000 with | .num _ _ _ => true | _ => false) = true := by decide
theorem test_Ready_flow : ∀ i ∈ [Instr.nop, .bra 1, .call 1, .ret, .jmpr 1, .callr 1, .beq 1 2 3, .bne 1 2 3, .blt 1 2 3, .bge 1 2 3, .bltn 1 2 3, .bgen 1 2 3,
    .beqi 1 2 3, .bnei 1 2 3, .bz 1 2, .bnz 1 2, .trap 7, .uevret, .evwait 1, .evmask 1 2, .gets 1 0x087, .sets 0x008 2, .swaps 1 0x008 2, .gets 1 0xFFF,
    .sets 0x007 1, .rvoke, .iflush 1 2, .mkrcap 1 2 .x false, .mkrcap 1 1 .x true, .mkrcap 1 2 .v false], Ready i u0 := by decide
/-- A word of code that a store has replaced: old or new is open before the IFLUSH, and new after it. -/
def stored0 : State := me (fun st => (st.xw 1 0x100).xw 2 8) ({ u0 with codeLog := [{ word := (placedAt + 0x104) / 4, old := 5, agent := agentOf 0 0, id := 0 }], nextId := 1 } : State)
theorem test_iflush : Ready (.iflush 1 2) stored0 ∧ stored0.oldWords 0 0x104 (placedAt + 0x104) = [5]
    ∧ runs (.iflush 1 2) stored0 (fun t => t.oldWords 0 0x104 (placedAt + 0x104) == []) = true
    ∧ runs (.iflush 2 2) stored0 (fun t => t.oldWords 0 0x104 (placedAt + 0x104) == [5]) = true := by decide
theorem test_Yield : Ready (.yield 8 true) u0 ∧ u0.me.stat.slave = false ∧ u0.me.seq = [] ∧ u0.myCore.churnOf u0.curStrand = false := by decide
theorem test_StateRegisterWords : (issued (.gets 1 0x008) u0).readSel 0 0 0x008 = some 0 ∧ (issued (.gets 1 0xFFF) u0).readSel 0 0 0xFFF = none
    ∧ (∃ s1, (issued (.sets 0x008 2) u0).writeSel 0 0 0x008 5 = .ok s1) ∧ (match (issued (.sets 0x007 2) u0).writeSel 0 0 0x007 5 with | .bad => true | _ => false) = true
    ∧ (∃ s1, (issued (.swaps 1 0x008 2) u0).writeSel 0 0 0x008 5 = .ok s1) := ⟨by decide, by decide, ⟨_, rfl⟩, by decide, ⟨_, rfl⟩⟩
/-- SWAPS of a selector that no chapter assigns, and of one that is not written. -/
theorem test_StateRegisterWords_swaps : Ready (.swaps 1 0xFFF 2) u0 ∧ (issued (.swaps 1 0xFFF 2) u0).readSel 0 0 0xFFF = none ∧ Ready (.swaps 1 0x007 2) u0
    ∧ (match (issued (.swaps 1 0x007 2) u0).writeSel 0 0 0x007 5 with | .bad => true | _ => false) = true
    ∧ runs (.swaps 1 0xFFF 2) u0 (fun t => t.me.regs.cause == 0x02) = true := by decide
/-- Held entries: of the sequencer, to go on at 12, and of the Churn, to go on at 20, the faulting one passed over. -/
def resuming : State := me (fun st => { st with vresume := { pc := 12, pend := true }, mresume := { pc := 20, pend := true, skip := true }
                                                seqHeld := [st.entry (.rbset 5)], churnHeld := [.mzero 0, .mzero 1].map fun i => { instr := i, strand := 0, pc := 16, npc := 20 } }) w0
theorem test_TrapAndReturn_held : Ready .eret resuming ∧ resuming.me.stat.slave = false ∧ resuming.me.vresume.pend = true ∧ resuming.me.mresume.pend = true
    ∧ resuming.me.loop = none ∧ resuming.me.vresume.skip = false
    ∧ runs .eret resuming (fun t => t.me.pc == 20 && t.me.seq.map (·.instr) == [.rbset 5] && t.myCore.churnQ.map (·.instr) == [.mzero 1]
      && !t.me.mresume.pend && !t.me.mresume.skip && !t.me.stat.sup) = true := by decide
theorem test_TrapAndReturn : Ready .eret w0 ∧ w0.me.stat.slave = false ∧ Ready (.trap 7) u0 ∧ w0.me.vresume.pend = false ∧ w0.me.mresume.pend = false ∧ w0.me.churnHeld = [] ∧ u0.me.stat.uev = false
    ∧ (let s := me (fun st => { st with stat := { st.stat with uev := true } }) u0; Ready .uevret s ∧ s.me.stat.uev = true)
    ∧ u0.me.stat.sup = false ∧ (u0.canIssue && u0.me.scoreboard .eret && u0.myCore.permitted .eret) = true := by decide
theorem test_EventWords : (let s := me (fun st => { st with regs := { st.regs with evpend := 0x24, evena := 0x04 } }) u0;
      Ready (.evwait 1) s ∧ (s.me.regs.evpend &&& ~~~s.me.regs.evena).getLsbD 5 = true
        ∧ ∀ j < 5, (s.me.regs.evpend &&& ~~~s.me.regs.evena).getLsbD j = false)
    ∧ (∀ j < 6, (u0.me.regs.evpend &&& ~~~u0.me.regs.evena).getLsbD j = false)
    ∧ (u0.me.xr 2) &&& ~~~0x3E#64 = 0 ∧ Ready (.evmask 1 2) (xs [(2, 1)] u0) ∧ ((xs [(2, 1)] u0).me.xr 2) &&& ~~~0x3E#64 ≠ 0 := by decide
/-- A record of class X and one of class V on the spill stack. -/
def spilled (c : RClass) (n l : Nat) (s : State) : State :=
  me (fun st => { st with spill := [{ cls := c, count := n, lanes := l, xs := List.replicate n {}, vs := List.replicate n 0 }] }) s
theorem test_SpillAndFill_x : Ready (.spill .x 20 11) u0 ∧ u0.me.spill.length ≠ 255 ∧ u0.myPart.parked + 96 ≤ 2048
    ∧ (let s := me (fun st => { st with spill := [{ cls := .x, count := 250, lanes := 0, xs := List.replicate 250 {} }] }) u0;
        Ready (.spill .x 20 11) s ∧ 2048 < s.myPart.parked + 96)
    ∧ (let s := spilled .x 12 0 u0; Ready (.fill .x 20 11) s ∧ Ready (.fill .x 20 10) s ∧ s.me.spill ≠ []) ∧ Ready (.fill .x 20 11) u0 ∧ Ready (.fill .v 20 11) u0 ∧ u0.me.spill = [] := by decide
/-- 255 records on the stack: the 256th SPILL takes 0x18. -/
theorem test_SpillAndFill_depth : (let s := lanes 4 (me (fun st => { st with spill := List.replicate 255 { cls := .x, count := 0, lanes := 0, xs := [] } }) u0)
    s.me.spill.length = 255 ∧ Ready (.spill .x 20 0) s ∧ Ready (.spill .v 20 0) s ∧ 0 < s.me.nlanes
      ∧ runs (.spill .x 20 0) s (fun t => t.me.regs.cause == 0x18) = true ∧ runs (.spill .v 20 0) s (fun t => t.me.regs.cause == 0x18) = true) := by decide
theorem test_SpillAndFill_v : Ready (.spill .v 20 3) u0 ∧ u0.me.nlanes = 0
    ∧ (let s := lanes 4 u0; Ready (.spill .v 20 3) s ∧ 0 < s.me.nlanes ∧ s.myPart.parked + 4 * s.me.nlanes * 4 ≤ 2048 ∧ s.me.seq.length < 16)
    ∧ (let s := spilled .v 4 4 (lanes 4 u0); Ready (.fill .v 20 3) s ∧ 0 < s.me.nlanes) ∧ Ready (.fill .x 20 3) (spilled .v 4 4 u0)
    ∧ (∀ s ∈ [spilled .v 4 8 (lanes 4 u0), spilled .v 5 4 (lanes 4 u0), spilled .x 4 4 (lanes 4 u0)], Ready (.fill .v 20 3) s
      ∧ runs (.fill .v 20 3) s (fun t => t.me.regs.cause == 0x19) = true)
    ∧ (let s := lanes 64 (spilled .x 250 0 u0); Ready (.spill .v 20 3) s ∧ 2048 < s.myPart.parked + 4 * s.me.nlanes * 4) := by decide

/-! ## Witnesses: memory and atomics -/

theorem test_LocalAccess : u0.rects = [] ∧ u0.badWords = [] ∧ u0.me.stat.sup = false ∧ w0.me.stat.sup = true
    ∧ u0.accessBytes .load .L 0x15FF8 8 8 false = .ok (span 0x15FF8 8) ∧ u0.accessBytes .load .L 0x15FF7 8 8 false = .fault { code := 0x10, acc := 1, eva := 0x15FF7 }
    ∧ u0.accessBytes .load .L 0x15FF9 8 8 false = .fault { code := 0x15, acc := 1, eva := 0x15FF9 }
    ∧ w0.accessBytes .store .L 0x16000 8 8 false = .ok (span 0x16000 8) := by decide
/-- Eight bytes of the own TCM at 0x100, to which X2 points with format 0 (raw). -/
def data : State := (xs [(2, 0x100), (3, 5)] u0).writeN 0x100 8 0x1122334455667788
def emptied : State := { data with empties := [0x41] }
theorem test_Loads : (∀ i ∈ [Instr.ld 1 2 .L 0, .lda 1 2 .L 0, .lds 1 2 .L 0, .lde 1 2 .L 0], Ready i data ∧ (issued i data).vecMeets (span 0x100 8) = false
      ∧ (issued i data).accessBytes .load .L 0x100 8 8 true = .ok (span 0x100 8) ∧ (issued i data).accessBytes .load .L 0x100 8 8 false = .ok (span 0x100 8))
    ∧ fmtof (data.me.xptr 2) = 0 ∧ accsize 0 = 8 ∧ data.me.accRoom .load = true ∧ data.me.holdsBytes (span 0x100 8) = false ∧ data.empties = []
    ∧ (issued (.lds 1 2 .L 0) emptied).check 0 false 0 .loadStore .load .L 0x100 8 8 true = .ok (span 0x100 8)
    ∧ Ready (.lde 1 2 .L 0) emptied ∧ (issued (.lde 1 2 .L 0) emptied).check 0 false 0 .loadStore .loadEmpty .L 0x100 8 8 true = .ok (span 0x100 8)
    ∧ (issued (.lde 1 2 .L 0) data).accessBytes .loadEmpty .L 0x100 8 8 true = .ok (span 0x100 8)
    ∧ Ready (.lds 1 2 .L 0) emptied ∧ (∃ w ∈ wordsOf (span 0x100 8), w ∈ emptied.empties) ∧ emptied.me.holdsBytes (span 0x100 8) = false := by decide
theorem test_Loads_values : runs (.lds 1 2 .L 0) data (fun t => t.me.xr 1 == 0x1122334455667788#64 && t.isFull 0x104) = true
    ∧ runs (.lde 1 2 .L 0) data (fun t => t.me.xr 1 == 0x1122334455667788#64 && !t.isFull 0x104 && t.byteAt 0x100 == 0x88#8) = true
    ∧ runs (.lds 1 2 .L 0) emptied (fun t => t.me.asleep.isSome && t.me.pc == 0) = true := by decide
theorem test_StoresAndPairs : (∀ i ∈ [Instr.st 3 2 .L 0, .stf 3 2 .L 0, .stl 3 2 .L 0], Ready i data ∧ (issued i data).vecMeets (span 0x100 8) = false
      ∧ (issued i data).accessBytes .store .L 0x100 8 8 true = .ok (span 0x100 8) ∧ (issued i data).accessBytes .store .L 0x100 8 8 false = .ok (span 0x100 8))
    ∧ data.me.accRoom .store = true ∧ data.me.vecMem = false
    ∧ (∀ i ∈ [Instr.ldp 4 2 .L 0, .stp 4 2 .L 0], Ready i data ∧ (issued i data).vecMeets (span 0x100 16) = false
      ∧ (issued i data).accessBytes .load .L 0x100 16 16 false = .ok (span 0x100 16) ∧ (issued i data).accessBytes .store .L 0x100 16 16 false = .ok (span 0x100 16))
    ∧ Ready (.clfe 2 0 .L) data ∧ data.me.xr 0 = 0 ∧ (let s := xs [(3, 8)] data; Ready (.clfe 2 3 .L) s ∧ (s.me.xr 3).toNat = 8 ∧ vaof (s.me.xptr 2) = 0x100 ∧ s.me.seq = [])
    ∧ (let s := ptr 2 0x18 0 0x100 (xs [(3, 8)] data); Ready (.clfe 2 3 .L) s ∧ 0x0C < fmtof (s.me.xptr 2) ∧ runs (.clfe 2 3 .L) s (fun t => t.me.regs.cause == 0x13) = true) := by decide
/-- An outstanding access of strand 0, able to be performed. -/
def acc (op : AccOp) : Access := { id := 9, op := op, bytes := span 0x100 8, data := 0x0102030405060708, dst := some 1, setFull := true }
def outs (a : Access) : State := me (fun st => { st with out := [a] }) data
theorem test_AccessesPerformed : (∀ op ∈ [AccOp.load, .store, .clear, .atomic (.aadd 1 2 3 false .relaxed .die .L)],
      ((outs (acc op)).strand 0 0).access 9 = some (acc op) ∧ (outs (acc op)).reachable 0 0 (acc op) = true)
    ∧ (acc .store).bytes.Nodup ∧ (acc .load).err = none ∧ (acc .load).acq = none ∧ (acc .load).toM = false ∧ (acc .load).pair = false := by decide
theorem test_AccessesPerformed_values : runs (.accessPerformed 0 0 9) (outs (acc .store)) (fun t => t.readN 0x100 8 == 0x0102030405060708 && t.me.out == []) = true
    ∧ runs (.accessPerformed 0 0 9) (outs (acc .clear)) (fun t => t.readN 0x100 8 == 0x1122334455667788 && !t.isFull 0x100 && !t.isFull 0x107) = true
    ∧ runs (.accessReply 0 0 9) (outs { acc .load with performed := true, result := 0x1122334455667788 })
        (fun t => t.me.xreg 1 == { val := 0x1122334455667788, mark := true } && t.me.out == []) = true := by decide
/-- Replies: of an atomic with a result, of an acquire without releases to settle, of a pair, and of a MSGMOV. -/
theorem test_AccessesPerformed_replies : data.lostIn [] 0 0 .die none = false ∧ data.settled [] 0 0 .die none = true
    ∧ runs (.accessReply 0 0 9) (outs { acc (.atomic (.aadd 1 2 3 false .relaxed .die .L)) with performed := true, result := 77 }) (fun t => t.me.xr 1 == 77) = true
    ∧ runs (.accessReply 0 0 9) (outs { acc .load with performed := true, result := 77, acq := some .die }) (fun t => t.me.xr 1 == 77 && t.me.out == []) = true
    ∧ runs (.accessReply 0 0 9) (outs { acc .load with performed := true, pair := true, dst2 := some 2, bytes := span 0x100 16, result := 5 + 6 * 2 ^ 64 })
        (fun t => t.me.xr 1 == 5 && t.me.xr 2 == 6) = true
    ∧ runs (.accessReply 0 0 9) (outs { acc .load with performed := true, toM := true, dst := none, bytes := span 0x100 64, result := 2 ^ 511 + 3 })
        (fun t => t.me.m == BitVec.ofNat 512 (2 ^ 511 + 3)) = true := by decide
theorem test_Fences : Ready (.pfch 2 .L 0) data ∧ (∀ k ∈ [FenceKind.full, .acq, .rel, .eng], Ready (.fence k .system) data) ∧ data.me.vecMem = false ∧ data.me.out = []
    ∧ data.flits = [] ∧ data.me.seq = [] ∧ data.me.readRecs = [] ∧ data.me.engRecs = [] ∧ data.myCore.copiesOf data.curStrand = 0 ∧ data.myCore.churnOf data.curStrand = false
    ∧ Ready (.promote 2 .die .L) data ∧ vaof (data.me.xptr 2) = 0x100 ∧ data.rects = [] := by decide
theorem test_AtomicsIssue : (∀ mk ∈ [Instr.aadd, .aand, .aor, .axor, .amin, .amax, .aswp, .acas], ∀ o ∈ [Order.relaxed, .acq, .rel, .ar],
      Ready (mk 1 2 3 false o .die .L) data ∧ data.me.accRoom (.atomic (mk 1 2 3 false o .die .L)) = true
        ∧ (issued (mk 1 2 3 false o .die .L) data).accessBytes .atomic .L 0x100 8 8 false = .ok (span 0x100 8)
        ∧ (issued (mk 1 2 3 false o .die .L) data).vecMeets (span 0x100 8) = false) ∧ fmtof (data.me.xptr 2) = 0 ∧ data.me.vecMem = false := by decide
theorem test_AtomicAtUnit : runs (.atomicAtUnit 0 0 9) (outs { acc (.atomic (.aadd 1 2 3 false .relaxed .die .L)) with data := 5 })
      (fun t => t.readN 0x100 8 == 0x112233445566778D && (t.me.access 9).any fun a => a.performed && a.result == 0x1122334455667788) = true
    ∧ (let a : Access := { acc (.atomic (.aadd 1 2 3 false .relaxed .die .N)) with data := 5, bytes := span 0x20100 8 }
       let s : State := { outs a with windows := [{ unit := unitOf 0x20100, src := 0, seq := 0, result := 77 }] }
       a.leaves 0 = true ∧ s.windowHit (unitOf 0x20100) (s.sourceId 0 0) a.seq = some 77 ∧ s.reachable 0 0 a = true
        ∧ runs (.atomicAtUnit 0 0 9) s (fun t => t.readN 0x20100 8 == 0 && (t.me.access 9).any fun a => a.performed && a.result == 77) = true) := by decide
/-- Table 9.6 on words: signed minimum and unsigned, the compare that fails and the one that holds; results sign-extended but for N32. -/
theorem test_AtomicAtUnit_table : (let q (f : Nat) : Access := { acc (.atomic .nop) with size := 4, fmt := f, data := 1 + 5 * 2 ^ 64 }
    atomicEffect (q 3) (.amin 1 2 3 true .relaxed .die .L) 0xFFFFFFFE = (some 0xFFFFFFFE, 0xFFFFFFFFFFFFFFFE)
      ∧ atomicEffect (q 7) (.amin 1 2 3 true .relaxed .die .L) 0xFFFFFFFE = (some 1, 0xFFFFFFFE)
      ∧ atomicEffect (q 3) (.acas 1 2 3 true .relaxed .die .L) 4 = (none, 4) ∧ atomicEffect (q 3) (.acas 1 2 3 true .relaxed .die .L) 5 = (some 1, 5)
      ∧ atomicEffect (q 3) (.aadd 1 2 3 true .relaxed .die .L) 0xFFFFFFFF = (some 0, 0xFFFFFFFFFFFFFFFF)) := by decide
/-- A page of the vat of die 0 at virtual address 0x100000. -/
def paged : State := my (fun k => { k with tlbLS := [{ asid := 0, glob := true, r := true, w := true, x := false, a := true, pa := 0x40000000, va := 0x100000, size := 0 }] })
  (xs [(2, 0x100000), (3, 0x3F800000)] u0)
theorem test_CurdCells : (∀ i ∈ [Instr.accf 2 3 .f32 .die .G, .cellrd 1 2 false .f32 .die .G], Ready i paged ∧ cellBytes .G 0x100000 (issued i paged) = .ok (span 0x40000000 64)
      ∧ (issued i paged).vecMeets (span 0x40000000 64) = false) ∧ vaof (paged.me.xptr 2) = 0x100000 ∧ paged.me.accRoom (.atomic .nop) = true ∧ paged.me.vecMem = false
    ∧ (cellSum 0 + 2 ^ 149).natAbs < 2 ^ 200 ∧ cellCount 0 < 2 ^ 32 - 1 ∧ scaled false 1 0 (-149) = 2 ^ 149 := by decide
/-- CELLRD of FP32 (R209): a NaN, both infinities, one, and SUM = 3 × 2^149, which reads 3.0; COUNT beside it. -/
theorem test_CurdCells_values : (let j : Instr := .cellrd 1 2 true .f32 .die .G
    let v (cell : Nat) : Nat × FFlags := ((atomicEffect (acc (.atomic j)) j cell).2 % 2 ^ 64, cellFlags (atomicEffect (acc (.atomic j)) j cell).2)
    v (2 ^ 352) = (0x7FC00000, {}) ∧ v (2 ^ 353 + 2 ^ 354) = (0x7FC00000, { nv := true }) ∧ v (2 ^ 353) = (0x7F800000, {}) ∧ v (2 ^ 354) = (0xFF800000, {})
      ∧ v (3 * 2 ^ 149 + 2 * 2 ^ 320) = (0x40400000, {}) ∧ (atomicEffect (acc (.atomic j)) j 5).1 = some 0) := by decide

/-! ## Witnesses: barriers, messages, exchange -/

/-- Cluster domain 5, assigned to launch 0, with core 0 its one member. -/
def dom5 : Domain := { launch := some 0, masks := [(0, 1)] }
def joined (d : Domain) : State := data.setDomain (domKey .cluster 0 5) d
theorem test_BarrierWords : (∀ i ∈ [Instr.bari 5 .cluster, .bar 5 .cluster], Ready i (joined dom5) ∧ Ready i data ∧ Ready i (joined { dom5 with broken := true }))
    ∧ (joined dom5).domOf .cluster 5 = domKey .cluster 0 5 ∧ (joined dom5).domain (domKey .cluster 0 5) = dom5 ∧ dom5.launch = some data.myPart.launch
    ∧ dom5.member 0 = true ∧ (joined dom5).arrived dom5 = false ∧ data.me.vecMem = false ∧ (data.domain (domKey .cluster 0 5)).launch = none := by decide
/-- The strand's last arrival was at episode 0 and had stamp 7. -/
def barred (n : Nat) : State := me (fun st => { st with bars := [(domKey .cluster 0 5, { episode := 0, stamp := 7, open_ := true })] }) (joined { dom5 with episode := n })
theorem test_BarrierWords_wait : Ready (.barw 5 .cluster) (barred 1) ∧ Ready (.barw 5 .cluster) (barred 0)
    ∧ (barred 0).me.bars.find? (fun e => e.1 == domKey .cluster 0 5) = some (domKey .cluster 0 5, { episode := 0, stamp := 7, open_ := true })
    ∧ runs (.barw 5 .cluster) (barred 1) (fun t => t.me.regs.arrive == 7 && t.me.asleep.isNone) = true
    ∧ runs (.barw 5 .cluster) (barred 0) (fun t => t.me.asleep.isSome) = true
    ∧ Ready (.bset 2 5 .cluster) (xs [(2, 1)] (joined dom5)) ∧ (∀ q < 32, (1#64).getLsbD q = true → data.holds (clusterOf data.curCore * 32 + q) data.myPart.launch = true)
    ∧ (let s := xs [(2, 2 ^ 32)] (joined dom5); Ready (.bset 2 5 .cluster) s ∧ 2 ^ 32 ≤ (s.me.xr 2).toNat)
    ∧ (let q : BsetReq := { core := 0, strand := 0, key := domKey .cluster 0 5, mask := 1 }
       let s : State := { joined dom5 with clusters := [(0, { bsets := [q] })] }
       (s.clusters.flatMap fun e => e.2.bsets) = [q] ∧ ((s.pass 1).domain q.key).pendingMasks = [(0, 1)]) := by decide
/-- A BAR #5 at address 0 that a fault has interrupted after its arrival, in episode 0; the domain is at episode n. -/
def again5 (n : Nat) : State := me (fun st => { st with bars := [(domKey .cluster 0 5, { episode := 0, stamp := 7, open_ := true, again := some 0 })] })
  (joined { dom5 with episode := n })
theorem test_BarrierWords_again : (∀ n ∈ [0, 1], Ready (.bar 5 .cluster) (again5 n) ∧ (issued (.bar 5 .cluster) (again5 n)).barAgain (domKey .cluster 0 5) = true)
    ∧ (issued (.bar 5 .cluster) (joined dom5)).barAgain (domKey .cluster 0 5) = false
    ∧ runs (.bar 5 .cluster) (again5 1) (fun t => t.me.regs.arrive == 7 && t.me.asleep.isNone && (t.domain (domKey .cluster 0 5)).arrivals == []) = true
    ∧ runs (.bar 5 .cluster) (again5 0) (fun t => t.me.asleep.isSome && (t.domain (domKey .cluster 0 5)).arrivals == []) = true := by decide
/-- The strand sleeps in BAR #5 and has arrived with stamp 7. -/
def asleep5 : State := me (fun st => { st with npc := 4, bars := [(domKey .cluster 0 5, { episode := 0, stamp := 7, open_ := false })], asleep := some { kind := .barrier, control := .bar 5 .cluster, words := [domKey .cluster 0 5] } })
  (joined { dom5 with arrivals := [{ core := 0, strand := 0, stamp := 7, covers := [] }] })
theorem test_BarrierWords_release : asleep5.episodeDone (asleep5.domain (domKey .cluster 0 5)) = true ∧ (asleep5.domain (domKey .cluster 0 5)).pendingMasks = []
    ∧ (asleep5.strand 0 0).stat.slave = false ∧ (joined dom5).episodeDone dom5 = false
    ∧ runs (.barrierRelease .cluster 0 5) asleep5 (fun t => t.me.asleep.isNone && t.me.regs.arrive == 7 && t.me.pc == 4 && (t.domain (domKey .cluster 0 5)).episode == 1) = true := by decide
/-- A second core of the context, core 33. -/
def pal : State := (xs [(9, 33), (6, 0), (7, 0x20)] data).setCore 33 { (data.core 33) with part := { resident := true } }
/-- A strand whose send buffers, of 16 sends and of 8 register sends, are full. -/
def full (s : State) : State :=
  me (fun st => { st with sends := List.replicate 16 { id := 0, kind := 2, target := 0, left := [] } }) s
theorem test_SendWords : Ready (.send 14 9) pal ∧ pal.me.mBusy = false ∧ (pal.me.xr 9).toNat = 33 ∧ pal.inMap 33 = true ∧ pal.ctxAt 33 pal.myPart.ctx = true ∧ pal.me.sends.length < 16
    ∧ Ready (.send 14 9) (full pal) ∧ (full pal).me.mBusy = false ∧ 16 ≤ (full pal).me.sends.length ∧ (full pal).ctxAt 33 (full pal).myPart.ctx = true
    ∧ Ready (.send 14 3) pal ∧ pal.ctxAt 5 pal.myPart.ctx = false ∧ Ready (.mcast 2 6) pal ∧ mcastOk 0 = true ∧ Ready (.mcast 2 7) pal ∧ mcastOk 0x20 = false
    ∧ Ready (.post 2 2) paged ∧ paged.me.sends.length < 16 ∧ paged.translate 0 .loadStore 0 .store 0x100000 = .ok [0x40000000] := by decide
theorem test_SendWords_values : runs (.send 14 9) pal (fun t => t.me.xr 14 == 0 && t.flits.map (·.dst) == [33] && t.me.sends.length == 1) = true
    ∧ runs (.send 14 9) (full pal) (fun t => t.me.xr 14 == 1 && t.flits == []) = true
    ∧ runs (.send 14 3) pal (fun t => t.me.regs.cause == 0x23 && t.me.stat.sup) = true := by decide
/-- A capability: CORE, STRAND, REG and GEN 0. -/
def capWord : Word := (0 : BitVec 40) ++ Config.capCheck 0
theorem cap_zero : capOk capWord .x = true := by
  have h : capWord.toNat = (Config.capCheck 0).toNat := by
    show ((0 : BitVec 40) ++ Config.capCheck 0 : BitVec (40 + 24)).toNat = _
    rw [BitVec.toNat_append]; simp
  have hl := (Config.capCheck 0).isLt
  unfold capOk; rw [h, Nat.div_eq_of_lt hl, Nat.div_eq_of_lt (Nat.lt_trans hl (by decide))]
  simp [RClass.code]
/-- A capability in X1; lanes and a predicate for RSENDV. -/
def capped : State := me (fun st => st.xput 1 { val := capWord }) data
theorem test_SendWords_register : (Ready (.rsend 1 3) capped ∧ capOk (capped.me.xr 1) .x = true ∧ capped.me.regSends.length < 8)
    ∧ Ready (.rsend 2 3) data ∧ Ready (.rsendv 2 3 1) (me (fun st => { st with p := [(1, predBits 4 .w32)] }) (lanes 4 data))
    ∧ ((lanes 4 data).me.pred 0 32) = (4, 32) ∧ (me (fun st => { st with p := [(1, predBits 4 .w32)] }) (lanes 4 data)).me.pred 1 32 = (4, 32) :=
  ⟨⟨by decide, cap_zero, by decide⟩, by decide⟩
/-- A pail of 256 bytes at 0x1000 with one message, and the same pail empty. -/
def mailed : State := part (fun p => { p with pailBase := 0x1000, pailSize := 256, pailTail := 64 }) data
def unmailed : State := part (fun p => { p with pailBase := 0x1000, pailSize := 256 }) data
/-- A record in the cluster's task queue, an entry in the schedule. -/
def tasked : State := part (fun p => { p with sched := [0xFC00000000000007] }) { data with clusters := [(0, { tasks := [{ ctx := 0, data := 77 }] })] }
theorem test_ReceiveWords : (∀ i ∈ [Instr.recv 4, .rpeek 4, .rack], Ready i mailed ∧ Ready i unmailed) ∧ mailed.myPart.pailHead ≠ mailed.myPart.pailTail
    ∧ mailed.myPart.overflow = [] ∧ unmailed.myPart.pailHead = unmailed.myPart.pailTail ∧ Ready (.take 3 false) tasked ∧ Ready (.take 3 false) data
    ∧ (tasked.cluster 0).tasks.find? (fun x => x.ctx == tasked.myPart.ctx) = some { ctx := 0, data := 77 } ∧ (data.cluster 0).tasks = [] ∧ tasked.me.mBusy = false
    ∧ Ready (.next 4) tasked ∧ tasked.myPart.sched[tasked.myPart.schedCur]? = some 0xFC00000000000007 ∧ Ready (.next 4) data ∧ data.myPart.sched[data.myPart.schedCur]? = none
    ∧ (∀ b : Bool, Ready (.msgmov 2 b .L) data ∧ (issued (.msgmov 2 b .L) data).accessBytes (if b then .store else .load) .L 0x100 64 64 false = .ok (span 0x100 64)
      ∧ (issued (.msgmov 2 b .L) data).vecMeets (span 0x100 64) = false) := by decide
theorem test_ReceiveWords_values : runs (.recv 4) mailed (fun t => t.me.xr 4 == 0x1000) = true ∧ runs (.rpeek 4) unmailed (fun t => t.me.xr 4 == BitVec.allOnes 64) = true
    ∧ runs .rack mailed (fun t => t.myPart.pailHead == 64) = true ∧ runs (.take 3 false) tasked (fun t => t.me.m == 77 && t.me.xr 3 == 1 && (t.cluster 0).tasks == []) = true
    ∧ runs (.next 4) tasked (fun t => t.me.xreg 4 == { val := 0xFC00000000000007, mark := true } && t.myPart.schedCur == 1) = true := by decide
/-- Exchange domain 3 is cluster domain 3; a phase is active. -/
def phase0 : State := part (fun p => { p with xdomsClu := 8 }) (data.setDomain (domKey .cluster 0 3) { launch := some 0, masks := [(0, 1)], exch := true })
def phase1 : State := my (fun k => { k with exch := { active := true }, part := { k.part with xsrc := [(3, 0x80000001)] } }) (lanes 4 data)
theorem test_ExchangeWords : Ready (.xphase 3) phase0 ∧ phase0.me.seq = [] ∧ phase0.myCore.exch.active = false ∧ phase0.myCore.curve.floor = false
    ∧ phase0.exchDomain phase0.curCore 3 = some (.cluster, domKey .cluster 0 3) ∧ (phase0.domain (domKey .cluster 0 3)).member 0 = true
    ∧ (phase0.domain (domKey .cluster 0 3)).launch = some phase0.myPart.launch ∧ (phase0.domain (domKey .cluster 0 3)).broken = false
    ∧ phase0.arrived (phase0.domain (domKey .cluster 0 3)) = false ∧ phase0.me.vecMem = false
    ∧ ((issued (.xphase 3) phase0).raiseFloor.rail (quadOf 0)).settledFor (issued (.xphase 3) phase0).raiseFloor.myCore.curve.phaseVolt = true ∧ phase0.noMargin 0 0 = false ∧ Ready (.xphase 2) phase0 ∧ phase0.exchDomain 0 2 = none := by decide
theorem test_ExchangeWords_phase : (∀ i ∈ [Instr.xmit 40 6 0, .xsel 49 8 3, .xend], Ready i phase1 ∧ Ready i data) ∧ phase1.myCore.exch.active = true
    ∧ 16 * (0 : BitVec 4).toNat + 16 ≤ 4 * phase1.me.nlanes ∧ phase1.me.seq.length < 16 ∧ (Tab.get 0 3 phase1.myPart.xsrc).getLsbD 31 = true
    ∧ 16 * entrySeg (Tab.get 0 3 phase1.myPart.xsrc) + 16 ≤ 4 * phase1.me.nlanes ∧ phase1.myCore.exch.armed = [] ∧ data.myCore.exch.active = false := by decide

/-! ## Witnesses: engines -/

/-- A descriptor of one element at 0x200, with the completion word at 0x300; FP32 pointers to 0x400 and 0x500. -/
def described : State := ptr 5 8 0 0x400 (ptr 6 8 0 0x500 (xs [(7, 0x200)] (data.writeN 0x238 8 0x300)))
theorem test_CopyWords : (∀ i ∈ [Instr.cpy 5 6 7 false false .L .L, .cpyg 5 6 7 false true .L .L, .cpysc 5 6 7 false false .L .L], Ready i described
      ∧ descOk i (described.descFields 0 0x200) 8 0 8 0 = true ∧ (issued i described).vecMeets (span 0x200 64) = false)
    ∧ Ready (.cpys 0 6 7 false false .L) described ∧ descOk (.cpys 0 6 7 false false .L) (described.descFields 0 0x200) 8 0 (fmtof (described.me.copyDst none 6))
      (blkof (described.me.copyDst none 6)) = true
    ∧ described.copyFormats (described.me.xptr 6) (described.me.copyDst none 6) = true
    ∧ described.copyFormats (described.me.xptr 6) (described.me.xptr 5) = true ∧ vaof (described.me.xptr 7) = 0x200 ∧ described.rects = [] ∧ described.badWords = []
    ∧ described.myCore.engQ.length < 2 ∧ described.me.holdsBytes (span 0x200 64) = false := by decide
/-- Ring 1 defined for launch 0. -/
def ring1 : Ring := { ea := 0x800, size := 4096, cluster := false, fmt := 1, blk := 0, head := 0, tail := 512, owner := 0, launch := 0 }
def ringed : State := part (fun p => { p with rings := [(1, ring1)] }) data
theorem test_EngineWords : (∀ i ∈ [Instr.cpyq 6, .ringdef 1 2 3 .L, .ringst 6 1, .tguard 3 0, .tslot 3 0], Ready i data ∧ Ready i ringed) ∧ data.myCore.churnQ.length < 2
    ∧ data.myCore.ring 1 data.myPart.launch = none ∧ ringed.myCore.ring 1 ringed.myPart.launch = some ring1 := by decide
theorem test_EngineWords_completion : (∀ i ∈ [Instr.cbinit 2 3, .cbwait 4 2, .cbtest 4 2], Ready i data) ∧ data.me.out = [] ∧ data.me.seq = [] ∧ data.records = []
    ∧ (data.me.xr 3).toNat < 2 ^ 24 ∧ (let s := xs [(3, 2 ^ 24)] data; Ready (.cbinit 2 3) s ∧ 2 ^ 24 ≤ (s.me.xr 3).toNat)
    ∧ data.readN 0x100 4 % 2 ^ 24 ≠ 0 ∧ (let s := data.writeN 0x100 4 0x80000000; Ready (.cbwait 4 2) s ∧ s.readN 0x100 4 % 2 ^ 24 = 0
      ∧ runs (.cbwait 4 2) s (fun t => t.me.xr 4 == 1) = true) ∧ runs (.cbtest 4 2) data (fun t => t.me.xr 4 == 2) = true := by decide

/-! ## Witnesses: vector and matrix words -/

/-- Four lanes; P1 counts 4 at width 32 and P2 counts 0; V0 holds 1, 2, 3, 4 and V1 holds 10, 20, 30, 40 (width 32). -/
def vec4 : State := me (fun st => { st with
  p := [(1, predBits 4 .w32), (2, predBits 0 .w32)]
  v := [(0, { val := 0x4000000030000000200000001 }), (1, { val := 0x280000001E000000140000000A })] }) (lanes 4 data)
theorem test_VectorHandover : (∀ i ∈ [Instr.vadd 2 0 1 1 .i32 false, .vfadd 2 0 1 1 .f32 false, .vld 2 2 1 .L, .vst 2 2 1 .L, .vlds 2 2 3 1 .L, .vldg 2 2 1 1 .L,
      .vsts 2 2 3 1 .L, .vstg 2 2 1 1 .L, .vldb 2 2 1 .L, .vldsy 2 2 1 .L, .vfmin 2 0 1 1 .f32, .vfmax 2 0 1 1 .f32, .vfabs 2 0 1 .f32, .vfrnd 2 0 1 .f32 .rtz,
      .vaddx 2 0 1 1 .f32, .vsubx 2 0 1 1 .f32, .vmulx 2 0 1 1 .f32, .dwadd 2 4 6 1, .dwsub 2 4 6 1, .dwmul 2 4 6 1, .dwnorm 2 4 1, .vsum 2 0 1 .f32, .vsumc 2 0 1,
      .vredmax 2 0 1 .f32, .vscale 2 0 3 1 .f32 false, .vsfu 2 0 1 .f32 .recip], Ready i vec4 ∧ vectorWord i = true ∧ ¬NoElements vec4.me i)
    ∧ Ready (.vadd 2 0 1 2 .i32 false) vec4 ∧ NoElements vec4.me (.vadd 2 0 1 2 .i32 false) ∧ Ready (.vadd 2 0 1 0 .i32 false) data
    ∧ ¬NoElements data.me (.vadd 2 0 1 0 .i32 false) ∧ data.me.nlanes = 0 ∧ vec4.me.seq.length < 16 := by decide
theorem groups_fit {st : Strand} {i : Instr} {n w : Nat} (hg : i.govern = some (n, w)) (h : 0 < st.nlanes ∧ (st.captured i).2 = w
    ∧ ∀ o ∈ vOps i (st.captured i).2, o.single = false → o.len st.nlanes (st.captured i).1 ≤ 6) : GroupsFit st i :=
  ⟨h.1, fun p v hp => by rw [hg] at hp; cases hp; exact h.2.1, h.2.2⟩
theorem test_VectorHandover_fits : GroupsFit vec4.me (.vadd 2 0 1 1 .i32 false) ∧ GroupsFit vec4.me (.vext 4 1 3 1 .i32) ∧ Ready (.vext 4 1 3 1 .i32) vec4
    ∧ Ready (.mmovzv 4 0 3) vec4 ∧ 0 < vec4.me.nlanes ∧ Ready (.mmovzv 4 0 3) data ∧ ¬GroupsFit data.me (.vadd 2 0 1 0 .i32 false) :=
  ⟨groups_fit (by rfl) (by decide), groups_fit (by rfl) (by decide), by decide, by decide, by decide, by decide, fun h => absurd h.1 (by decide)⟩
theorem test_VectorControl : (∀ i ∈ [Instr.vclaim 1 64, .vfree, .pset 1 2 .w32, .pseti 1 9 .w8, .pget 1 1, .pget 1 0, .rbset 15, .rbget 1], Ready i vec4) ∧ vec4.me.seq = []
    ∧ runs (.vclaim 1 64) vec4 (fun t => t.me.claim == some { n := 64, xd := some 1 } && (t.me.xreg 1).busy) = true
    ∧ runs .vfree vec4 (fun t => t.me.nlanes == 0) = true := by decide
/-- A claim of 33 lanes in an octet all of whose lanes were measured at 4,000 MHz: 64 are granted. -/
def claimed : State := me (fun st => { st.xbusy 1 with claim := some { n := 33, xd := some 1 } })
  { u0 with octets := [(0, { lanes := (List.range 128).map fun j => (j, { pts := List.replicate 8 4000 }) })] }
theorem test_VectorControl_claim : claimed.me.claim = some { n := 33, xd := some 1 }
    ∧ (claimed.cores.flatMap fun e => (e.2.part.strands.filter fun x => x.2.claim.isSome).map fun x => (e.1, x.1)) = [(0, 0)]
    ∧ ((claimed.serveClaim 0 0).me.nlanes == 64 && (claimed.serveClaim 0 0).me.xreg 1 == { val := 64 } && (claimed.serveClaim 0 0).me.claim.isNone) = true := by decide
/-- A member that records notes the grant in its LANES record (R242). -/
theorem test_VectorControl_record : ((((claimed.setMyPart { claimed.myPart with tape := { mode := 1, seg := { recs := [{ header := 6, value := 0 }, { header := 1, value := 7 }] } } }).serveClaim 0 0).myPart.tape.seg.recs.map (·.value)) == [64, 7]) = true := by decide
/-- The smallest valid decode table: entry 0 is 0, all others carry the special flag (R85). -/
def smallTable : Nat := (span 1 255).foldl (fun n k => n + (if k < 128 then 0x80000 else if k = 128 then 0x40000 else 0xC0000) * 2 ^ (32 * k)) 0
def tabled : State := (xs [(2, 0x400)] u0).writeN 0x400 1024 smallTable
theorem smallTable_ok : smallTable < 256 ^ 1024 ∧ tableOk (BitVec.ofNat 8192 smallTable) = true := by decide +kernel
theorem test_VectorControl_table : Ready (.dtload 2 .L) u0 ∧ vaof ((xs [(2, 0x400)] u0).me.xptr 2) = 0x400 ∧ u0.rects = [] ∧ u0.badWords = [] ∧ u0.myCore.tableIdle = true
    ∧ u0.me.out = [] ∧ u0.me.seq = [] ∧ tableOk 0 = false := by decide
theorem test_VectorControl_tableOk : tableOk (BitVec.ofNat 8192 (tabled.readN 0x400 1024)) = true := by
  unfold tabled; rw [State.readN_writeN, Nat.mod_eq_of_lt smallTable_ok.1]; exact smallTable_ok.2
/-- VSEQ X3, #1, #1 or VREP of the one word VADD.I32 V2, V0, V1, P1 that follows it; X3 = 5; and a body that is no sequencer word. -/
def looped (w : Nat) : State := code 4 w vec4
theorem test_VectorControl_loops : (∀ rep : Bool, let i : Instr := if rep then .vrep 3 0 1 else .vseq 3 0 1
      Ready i (looped 0xD4880124) ∧ (issued i (looped 0xD4880124)).readBody 0 0 1 4 = .body [{ instr := .vadd 2 0 1 1 .i32 false, pc := 4, npc := 8 }] 8 1
        ∧ (issuedMe i (looped 0xD4880124)).bodyChecks rep 5 1 [{ instr := .vadd 2 0 1 1 .i32 false, pc := 4, npc := 8 }] = none
        ∧ (looped 0xD4880124).me.seq.length + 1 ≤ 16 ∧ (looped 0xD4880124).me.loop = none
        ∧ (issuedMe i (looped 0xD4880124)).ycnt.toNat + 1 ≤ (looped 0xD4880124).me.ybound.toNat
        ∧ Ready i (looped 0x80000000) ∧ (issued i (looped 0x80000000)).readBody 0 0 1 4 = .trap { code := 0x02 })
    ∧ Ready (.vseq 0 0 1) (looped 0xD4880124) ∧ (looped 0xD4880124).me.xr 0 = 0
    ∧ (∀ r ∈ (Instr.vadd 2 0 1 1 .i32 false).xReads, (looped 0xD4880124).me.canRead r = true)
    ∧ (let s := xs [(3, 2 ^ 32)] (looped 0xD4880124); Ready (.vseq 3 0 1) s ∧ 2 ^ 32 ≤ (s.me.xr 3).toNat)
    ∧ (let s := xs [(3, 200)] (looped 0xD4880124); (issuedMe (.vrep 3 0 1) s).bodyChecks true 200 1 [{ instr := .vadd 2 0 1 1 .i32 false, pc := 4, npc := 8 }] = some 0x02)
    ∧ (let s := me (fun st => { st with ybound := 1 }) (looped 0xD4880124); Ready (.vseq 3 0 1) s ∧ s.me.ybound.toNat < (issuedMe (.vseq 3 0 1) s).ycnt.toNat + 1) := by decide
/-- The word VADD.I32 V2, V0, V1, P1 stands at address 4. -/
theorem test_VectorControl_body : LoneWordsAt (looped 0xD4880124) 4 [.vadd 2 0 1 1 .i32 false] ∧ (looped 0xD4880124).me.stat.slave = false
    ∧ LoneWordsAt (looped 0x80000000) 4 [.nop] ∧ [Instr.nop].all vectorWord = false ∧ [Instr.vadd 2 0 1 1 .i32 false].all vectorWord = true :=
  ⟨⟨⟨0xD4880124, fetches _ _ (placedAt + 4) _ (by decide) (by decide) (by decide) (by decide) (by decide), by decide, by decide, by decide⟩, trivial⟩, by decide,
    ⟨⟨0x80000000, fetches _ _ (placedAt + 4) _ (by decide) (by decide) (by decide) (by decide) (by decide), by decide, by decide, by decide⟩, trivial⟩, by decide, by decide⟩
/-- An entry of the strand in the Churn's queue. -/
def churned (i : Instr) : State := my (fun k => { k with churnQ := [{ instr := i, strand := 0, pc := 0, npc := 4, pa := 0x400, len := 512 }] }) data
theorem test_MatrixWords : (∀ i ∈ [Instr.mzero 1, .mma 1 0 1 true, .mmas 0 2 3 false, .msemi .minPlus, .mprog 2 .L, .mrun 0 0 1 true, .mstz 2 0 .L .native, .mldz 1 2 .L,
      .msync, .mstat 5], Ready i data ∧ Ready i (churned (.mzero 0))) ∧ data.myCore.churnQ.length < 2 ∧ data.myCore.churnOf data.curStrand = false
    ∧ (churned (.mzero 0)).myCore.churnOf 0 = true := by decide
theorem test_RegisterWordFrame : registerWord (.add 1 2 3 false) = true ∧ registerWord (.fadd 1 2 3 .f32 true) = true ∧ floatWord (.add 1 2 3 false) = false := by decide

/-! ## Witnesses: the sequencer -/

/-- The word as the one entry of strand 0's sequencer. -/
def headed (i : Instr) (s : State) : State := me (fun st => { st with seq := [st.entry i] }) s
def headOf (i : Instr) (s : State) : SeqEntry := s.me.entry i
theorem test_VectorElements : (∀ i ∈ [Instr.vadd 2 0 1 1 .i32 false, .vsub 2 0 1 1 .n32 true, .vsel 2 0 1 1 .i32, .vfadd 2 0 1 1 .f32 false, .vperm 2 0 1 1 .i32],
      Starts (headed i vec4) 0 0 (headOf i vec4) ∧ vectorWord i = true ∧ i.memPred = none
        ∧ (vOps i 32).head? = some { n := 2, w := 32, dst := true, single := false }) ∧ (headOf (.vadd 2 0 1 1 .i32 false) vec4).pwidth = 32
    ∧ (headOf (.vadd 2 0 1 1 .i32 false) vec4).pcount = 4 ∧ vec4.me.nlanes = 4 ∧ 2 + groupRegs 4 32 4 ≤ 16 ∧ (headOf (.vadd 2 0 1 1 .i32 false) vec4).rbase = 0 := by decide
theorem test_VectorElements_values : runs (.sequencerEntryStart 0 0) (headed (.vadd 2 0 1 1 .i32 false) vec4)
      (fun t => (t.me.vreg 2).val == 0x2C00000021000000160000000B && t.me.seq == []) = true
    ∧ runs (.sequencerEntryStart 0 0) (headed (.vsub 2 0 1 1 .n32 true) vec4) (fun t => (t.me.vreg 2).val == 0 && t.me.vstat.sat) = true
    ∧ runs (.sequencerEntryStart 0 0) (headed (.vsub 2 0 1 1 .i32 false) vec4)
        (fun t => (t.me.vreg 2).val == 0xFFFFFFDCFFFFFFE5FFFFFFEEFFFFFFF7) = true := by decide
/-- Words whose result is a pair, and reductions. -/
theorem test_VectorElements_heads : (∀ i ∈ [Instr.vaddx 2 0 1 1 .f32, .vsubx 2 0 1 1 .f32, .vmulx 2 0 1 1 .f32, .dwadd 2 4 6 1, .dwsub 2 4 6 1, .dwmul 2 4 6 1, .dwnorm 2 4 1],
      Starts (headed i vec4) 0 0 (headOf i vec4) ∧ vectorWord i = true ∧ i.memPred = none
        ∧ (vOps i 32).head? = some { n := 2, w := 32, pair := true, dst := true }) ∧ 2 + 2 * groupRegs 4 32 4 ≤ 16
    ∧ (∀ i ∈ [Instr.vsum 2 0 1 .f32, .vredmax 2 0 1 .f32, .vsumc 2 0 1, .vfmin 2 0 1 1 .f32, .vfmax 2 0 1 1 .f32, .vfabs 2 0 1 .f32, .vfrnd 2 0 1 .f32 .rtz,
        .vscale 2 0 3 1 .f32 true, .vfcvt 2 0 1 (.int .i32) (.flt .f32) true], Starts (headed i vec4) 0 0 (headOf i vec4))
    ∧ (headOf (.vsum 2 0 1 .f32) vec4).pcount ≤ 2 ^ 2 ∧ 2 ^ (2 - 1) < (headOf (.vsum 2 0 1 .f32) vec4).pcount := by decide
/-- 1.0 + 2.0 + 4.0 + 8.0 by VSUM's tree, the largest of them by VREDMAX; VFMIN of a NaN and 2.0 is 2.0; VFABS of −1.0. -/
theorem test_VectorElements_reductions : (let s := me (fun st => { st with v := [(0, { val := 0x4100000040800000400000003F800000 }), (1, { val := 0xBF8000007FC00000 })] }) vec4
    runs (.sequencerEntryStart 0 0) (headed (.vsum 2 0 1 .f32) s) (fun t => (t.me.vreg 2).val.toNat % 2 ^ 32 == 0x41700000) = true
      ∧ runs (.sequencerEntryStart 0 0) (headed (.vredmax 2 0 1 .f32) s) (fun t => (t.me.vreg 2).val.toNat % 2 ^ 32 == 0x41000000) = true
      ∧ runs (.sequencerEntryStart 0 0) (headed (.vfmin 2 0 1 1 .f32) s) (fun t => (t.me.vreg 2).val.toNat % 2 ^ 64 == 0xBF8000003F800000) = true
      ∧ runs (.sequencerEntryStart 0 0) (headed (.vfabs 2 1 1 .f32) s) (fun t => (t.me.vreg 2).val.toNat % 2 ^ 64 == 0x3F8000007FC00000) = true) := by decide
/-- The exact sum of two words of Table 6.8: 1.0 and 2^−30 leave the result 1.0 and the remainder 2^−30. -/
theorem test_exact_sum : runs (.sequencerEntryStart 0 0)
      (headed (.vaddx 2 0 1 1 .f32) (me (fun st => { st with v := [(0, { val := 0x3F800000 }), (1, { val := 0x30800000 })] }) vec4))
      (fun t => (t.me.vreg 2).val == 0x3F800000 && (t.me.vreg 3).val == 0x30800000) = true := by decide
/-- VEXT and RBGET write X4; a load and a store of FP32 memory at 0x100; a pointer of a format that is none. -/
def headedX (i : Instr) (s : State) : State := me (fun st => { (st.xbusy 4) with seq := [{ st.entry i with xd := st.xplace 4 }] }) s
def fp32 : State := ptr 2 8 0 0x100 vec4
theorem test_SequencerEntries : (∀ i ∈ [Instr.vext 4 1 3 1 .i32, .rbget 4], Starts (headedX i vec4) 0 0 { headOf i vec4 with xd := vec4.me.xplace 4 })
    ∧ Starts (headed (.rbset 5) vec4) 0 0 (headOf (.rbset 5) vec4)
    ∧ (∀ i ∈ [Instr.vld 2 2 1 .L, .vst 1 2 1 .L], Starts (headed i fp32) 0 0 (headOf i fp32) ∧ (headOf i fp32).pwidth = 32 ∧ (headOf i fp32).pcount = 4
      ∧ fmtof (headOf i fp32).xa.ptr = 8 ∧ blkof (headOf i fp32).xa.ptr = 0 ∧ vaof (headOf i fp32).xa.ptr = 0x100) ∧ fp32.me.holdsBytes (span 0x100 16) = false
    ∧ (let s := ptr 2 0x0D 0 0x100 vec4; Starts (headed (.vld 2 2 1 .L) s) 0 0 (headOf (.vld 2 2 1 .L) s)
        ∧ vecFormatOk (.vld 2 2 1 .L) 0x0D 0 (headOf (.vld 2 2 1 .L) s).pwidth = false) := by decide
/-- MKRCAP of V2 waits while an entry writes it; XEND waits for the sequencer. -/
theorem test_MkrcapAndXend_wait : (let s := headed (.vadd 2 0 1 1 .i32 false) vec4
    Ready (.mkrcap 1 2 .v false) s ∧ (issued (.mkrcap 1 2 .v false) s).vregBusy 0 0 (phys 0 2) = true ∧ Ready .xend s ∧ s.me.seq ≠ []
      ∧ runs (.mkrcap 1 2 .v false) s (fun t => t.me.pc == 0) = true ∧ runs .xend s (fun t => t.me.pc == 0) = true
      ∧ runs .xend vec4 (fun t => t.me.pc == 4) = true) := by decide
/-- In a phase a store leaves at the end of the second cycle (R220). -/
theorem test_SequencerEntries_phase : (let s := my (fun k => { k with exch := { active := true } }) ({ headed (.vst 1 2 1 .L) fp32 with time := 1 } : State)
    Starts s 0 0 (headOf (.vst 1 2 1 .L) fp32) ∧ runs (.sequencerEntryStart 0 0) s (fun t => t.me.seq.length == 1 && t.me.leaving == some 3 && t.me.out.length == 1) = true) := by decide
theorem test_SequencerEntries_values : runs (.sequencerEntryStart 0 0) (headedX (.vext 4 1 3 1 .i32) (xs [(3, 2)] vec4)) (fun t => t.me.xr 4 == 30) = true
    ∧ runs (.sequencerEntryStart 0 0) (headed (.vld 2 2 1 .L) fp32) (fun t => (t.me.vreg 2).val == 0x1122334455667788) = true
    ∧ runs (.sequencerEntryStart 0 0) (headed (.vst 1 2 1 .L) fp32) (fun t => t.me.out.map (·.data) == [0x280000001E000000140000000A]) = true := by decide
/-- An SFU request; an XMIT at its slot; an armed selection of the lane of core 1. -/
def sfu1 : SfuReq := { core := 0, strand := 0, launch := 0, entry := headOf (.vsfu 2 0 1 .f32 .recip) vec4, src := vec4.me.v, lanes := 4 }
def armed1 : Armed := { slot := 49, src := 1, seg := 0, reg := 8, strand := 0 }
def sampling (l : Tab (BitVec 128)) : State := ({ vec4 with time := 60 } : State).setCore 1 { exch := { active := true, lane := l } }
  |> my fun k => { k with exch := { active := true, armed := [armed1] } }
theorem test_SequencerEntries_units : Starts (headed (.vsfu 2 0 1 .f32 .recip) vec4) 0 0 (headOf (.vsfu 2 0 1 .f32 .recip) vec4) ∧ (vec4.octet (octetOf 0)).sfu.length < 16
    ∧ vec4.me.sfuAt = none ∧ (let s : State := { me (fun st => { st with sfuAt := some 0 }) (headed (.vsfu 2 0 1 .f32 .recip) vec4) with time := 1 }
        s.asksFirst 0 0 = true ∧ runs (.sfuRequestAccept 0 0) s (fun t => (t.octet 0).sfu.length == 1 && t.me.seq == []) = true)
    ∧ runs (.sfuRequestAccept 0 0) (headed (.vsfu 2 0 1 .f32 .recip) vec4) (fun t => t.me.sfuAt == some 0 && t.me.seq.length == 1) = true
    ∧ (({ vec4 with octets := [(0, { sfu := [sfu1] })] } : State).octet 0).sfu = [sfu1] ∧ (vec4.core 0).part.occupied = true ∧ (vec4.core 0).part.launch = 0
    ∧ (let s := my (fun k => { k with exch := { active := true } }) ({ vec4 with time := 40 } : State)
       Starts (headed (.xmit 40 1 0) s) 0 0 (headOf (.xmit 40 1 0) s) ∧ (headed (.xmit 40 1 0) s).xcyc 0 = 40 ∧ Tab.has 40 s.myCore.exch.lane = false
        ∧ runs (.xmitDrive 0 0) (headed (.xmit 40 1 0) s) (fun t => Tab.get 0 40 t.myCore.exch.lane == 0x280000001E000000140000000A) = true)
    ∧ (sampling []).myCore.exch.armed = [armed1] ∧ 49 ≤ (sampling []).xcyc 0 ∧ (sampling []).laneWord 0 armed1 = none
    ∧ (sampling [(49 - exchDelay 0 1, 77)]).laneWord 0 armed1 = some 77
    ∧ runs (.xselSample 0) (sampling [(49 - exchDelay 0 1, 77)]) (fun t => segOf (t.me.vreg 8).val 0 == 77 && !t.myCore.exch.miss) = true
    ∧ runs (.xselSample 0) (sampling []) (fun t => t.myCore.exch.miss) = true := by decide

/-! ## Witnesses: events -/

theorem test_RegisterWriteEvents : data.me.seq.length < 16 ∧ mailed.myPart.headOk 64 = true ∧ mailed.myPart.headOk 0 = true ∧ mailed.myPart.overflow = [] ∧ w0.me.stat.sup = true
    ∧ pailPlaced 0x1000 256 = true ∧ (part (fun p => { p with pailBase := 0x1000, pailSize := 256 }) w0).myPart.pailSize = 256
    ∧ (0x8000002B#64) &&& ~~~0x800F07FF#64 = 0 ∧ data.myCore.exch.active = false ∧ data.myCore.exch.waiting = false ∧ phase1.myCore.exch.active = true
    ∧ (0x2D#64) &&& ~~~0x3F#64 = 0 ∧ (0x2D#64).toNat % 8 = 5 ∧ (0x2D#64).toNat / 8 % 8 = 5 ∧ (0x06#64).toNat % 8 = 6 ∧ selSuper 0x008 = false
    ∧ (match data.writeSel 0 0 0x008 5 with | .ok _ => true | _ => false) = true ∧ (match data.writeSel 0 0 0x007 5 with | .bad => true | _ => false) = true := by decide
theorem test_RegisterWriteEvents_values : runs (.rbaseWrite 0 0 15) data (fun t => t.me.rbase == 15 && t.me.seq.length == 1) = true
    ∧ runs (.rbaseWrite 0 0 16) data (fun t => t.me.regs.cause == 0x02) = true ∧ runs (.pailheadWrite 0 0 64) mailed (fun t => t.myPart.pailHead == 64) = true
    ∧ runs (.pailGeometryWrite 0 0 true 512) (part (fun p => { p with pailBase := 0x1000 }) w0) (fun t => t.myPart.pailSize == 512) = true
    ∧ runs (.pailGeometryWrite 0 0 true 512) data (fun t => t.me.regs.cause == 0x05) = true
    ∧ runs (.xsrcentWrite 0 0 0x8000002B) data (fun t => Tab.get 0 0 t.myPart.xsrc == 0x8000002B) = true
    ∧ runs (.mscopeWrite 0 0 0x23) data (fun t => t.me.regs.ldasc == 3 && t.me.regs.stlsc == 4) = true
    ∧ runs (.mscopeWrite 0 0 0x30) data (fun t => t.me.regs.cause == 0x02 && t.me.regs.stlsc == 5) = true
    ∧ runs (.engerrWrite 0 0 0xC000000000000000) (me (fun st => { st with regs := { st.regs with engerr := 0xB600000000000100 } }) data)
        (fun t => t.me.regs.engerr == 0x3600000000000100) = true := by decide
/-- A deferred fault that waits, and a user event that is pending and enabled. -/
def arrived0 : State := me (fun st => { st with arrivals := [{ code := 0x22, eva := 5 }], pc := 8, regs := { st.regs with fvec := 0x1000 } }) data
def evented : State := me (fun st => { st with pc := 8, regs := { st.regs with evpend := 0x28, evena := 0x28, uevec := 0x2000 } }) data
theorem test_DeliveryEvents : arrived0.me.status = .running ∧ arrived0.me.inBarrier = false ∧ arrived0.me.stat.sup = false ∧ arrived0.me.seqFault = none
    ∧ arrived0.me.churnFault = none ∧ evented.me.status = .running ∧ evented.me.inBarrier = false ∧ evented.me.stat.sup = false ∧ evented.me.stat.uev = false
    ∧ evented.me.stat.slave = false ∧ evented.me.regs.uevec ≠ 0 ∧ evented.myCore.exch.active = false ∧ evented.myCore.exch.waiting = false
    ∧ (evented.me.regs.evpend &&& evented.me.regs.evena).getLsbD 3 = true ∧ (∀ j < 3, (evented.me.regs.evpend &&& evented.me.regs.evena).getLsbD j = false)
    ∧ evented.me.seqFault = none ∧ evented.me.churnFault = none ∧ evented.me.arrivals = [] ∧ evented.me.refusals = [] ∧ evented.me.yieldDue = false
    ∧ (data.me.regs.evpend &&& data.me.regs.evena).toNat = 0 := by decide
/-- A deferred sequencer fault, in a barrier as well. -/
def faulted0 : State := me (fun st => { st with pc := 8, seqHeld := [{ st.entry (.rbset 1) with pc := 4 }], seqFault := some { code := 0x13, acc := 1 } }) arrived0
theorem test_DeliveryEvents_deferred : faulted0.me.status = .running ∧ faulted0.me.stat.sup = false ∧ faulted0.me.churnFault = none ∧ faulted0.me.loop = none
    ∧ (∀ s ∈ [faulted0, me (fun st => { st with asleep := some { kind := .barrier, control := .bar 5 .cluster, words := [] } }) faulted0],
      runs (.faultEntry 0 0 false) s (fun t => t.me.regs.cause == 0x593 && t.me.regs.epc == 4 && t.me.vresume == { pc := 8, pend := true }) = true) := by decide
theorem test_DeliveryEvents_values : runs (.faultEntry 0 0 false) arrived0 (fun t => t.me.regs.cause == 0xA2 && t.me.regs.eva == 5 && t.me.regs.epc == 8 && t.me.pc == 0x1000
      && t.me.stat.sup && t.me.arrivals == []) = true ∧ runs (.faultEntry 0 0 true) arrived0 (fun t => t.me.regs.cause == 0x3F) = true
    ∧ runs (.userEventDelivery 0 0) evented (fun t => t.me.pc == 0x2000 && t.me.regs.uevpc == 8 && t.me.regs.uevcode == 3 && t.me.regs.evpend == 0x20 && t.me.stat.uev) = true := by decide
/-- A strand asleep in the word `i`. -/
def asleep (k : SleepKind) (i : Instr) (w : List Nat) (r : Bool) (s : State) : State :=
  me (fun st => { st with npc := 4, asleep := some { kind := k, control := i, words := w, registered := r } }) s
def sleepsOn (k : SleepKind) (i : Instr) (w : List Nat) (s : State) : Bool :=
  match sleepEff { kind := k, control := i, words := w } ((s.at_ 0 0).setMe { s.me with asleep := none }) with
  | .done t => t.curCore == 0 && t.curStrand == 0 && (t.strand 0 0).asleep.isNone
  | _ => false
theorem test_WakeEvents : sleepsOn .recv (.recv 4) [] (asleep .recv (.recv 4) [] true mailed) = true
    ∧ sleepsOn .full (.lds 1 2 .L 0) [0x40, 0x41] (asleep .full (.lds 1 2 .L 0) [0x40, 0x41] true data) = true
    ∧ sleepsOn .completion (.cbwait 4 2) [0x40] (asleep .completion (.cbwait 4 2) [0x40] true (data.writeN 0x100 4 0)) = true
    ∧ sleepsOn .event (.evwait 1) [] (asleep .event (.evwait 1) [] true (me (fun st => { st with regs := { st.regs with evpend := 8 } }) data)) = true
    ∧ sleepsOn .task (.take 3 true) [] (asleep .task (.take 3 true) [] true tasked) = true ∧ mailed.me.stat.slave = false ∧ mailed.myPart.pailHead ≠ mailed.myPart.pailTail
    ∧ unmailed.myPart.pailHead = unmailed.myPart.pailTail := by decide
theorem test_WakeEvents_ready : (∀ acc ∈ [AccKind.load, .loadEmpty], (((asleep .full (.lds 1 2 .L 0) [0x40, 0x41] true data).at_ 0 0).setMe { data.me with asleep := none, npc := 4 }).check
        0 false 0 .loadStore acc .L 0x100 8 8 true = .ok (span 0x100 8)) ∧ (∀ w ∈ wordsOf (span 0x100 8), w ∉ data.empties) ∧ data.me.holdsBytes (span 0x100 8) = false
    ∧ data.vecMeets (span 0x100 8) = false ∧ data.badWords = [] ∧ fmtof (data.me.xptr 2) = 0 ∧ data.me.stat.slave = false ∧ data.rects = [] ∧ data.records = []
    ∧ data.me.out = [] ∧ data.me.seq = [] ∧ (data.writeN 0x100 4 0).readN 0x100 4 % 2 ^ 24 = 0 ∧ tasked.me.mBusy = false
    ∧ (tasked.cluster 0).tasks.find? (fun x => x.ctx == tasked.myPart.ctx) = some { ctx := 0, data := 77 }
    ∧ runs (.fullWaitWake 0 0) (asleep .full (.lde 1 2 .L 0) [0x40, 0x41] true data) (fun t => t.me.asleep.isNone && t.me.xr 1 == 0x1122334455667788 && !t.isFull 0x100) = true := by decide
theorem test_WakeEvents_values : runs (.recvWake 0 0) (asleep .recv (.recv 4) [] true mailed) (fun t => t.me.asleep.isNone && t.me.xr 4 == 0x1000 && t.me.pc == 4) = true
    ∧ runs (.fullWaitWake 0 0) (asleep .full (.lds 1 2 .L 0) [0x40, 0x41] true data) (fun t => t.me.asleep.isNone && t.me.xr 1 == 0x1122334455667788) = true
    ∧ runs (.fullWaitWake 0 0) (asleep .full (.lds 1 2 .L 0) [0x40, 0x41] true emptied) (fun t => t.me.asleep.isSome) = true
    ∧ runs (.cbwaitWake 0 0) (asleep .completion (.cbwait 4 2) [0x40] true (data.writeN 0x100 4 0x80000000)) (fun t => t.me.asleep.isNone && t.me.xr 4 == 1) = true
    ∧ runs (.evwaitWake 0 0) (asleep .event (.evwait 1) [] true (me (fun st => { st with regs := { st.regs with evpend := 8 } }) data))
        (fun t => t.me.asleep.isNone && t.me.xr 1 == 3 && t.me.regs.evpend == 0) = true
    ∧ runs (.takeWaitWake 0 0) (asleep .task (.take 3 true) [] true tasked) (fun t => t.me.asleep.isNone && t.me.m == 77) = true := by decide
/-- An exchange phase whose cycle 0 has come. -/
def starting : State := my (fun k => { k with exch := { waiting := true, start := 60 } })
  (asleep .barrier (.xphase 3) [domKey .cluster 0 3] true (me (fun st => { st with bars := [(domKey .cluster 0 3, { episode := 0, stamp := 7, open_ := false })] }) ({ phase0 with time := 60 })))
theorem test_WakeEvents_more : (match sleepEff { kind := .full, control := .lds 1 2 .L 0, words := [0x40, 0x41], registered := false }
        (((asleep .full (.lds 1 2 .L 0) [0x40, 0x41] false emptied).at_ 0 0).setMe { emptied.me with asleep := none }) with | .sleep _ _ _ => true | _ => false) = true
    ∧ emptied.roomToWait .full [0x40, 0x41] = true ∧ runs (.waitRequestRetry 0 0) (asleep .full (.lds 1 2 .L 0) [0x40, 0x41] false emptied) (fun t => t.me.asleep.any (·.registered)) = true
    ∧ starting.myCore.exch.waiting = true ∧ starting.myCore.exch.start ≤ starting.time ∧ starting.myCore.exch.strand = 0 ∧ starting.me.stat.slave = false
    ∧ runs (.exchangePhaseStart 0) starting (fun t => t.me.asleep.isNone && t.me.regs.arrive == 7 && t.me.pc == 4 && !t.myCore.exch.waiting) = true := by decide
/-- The Churn with the one entry `i` in its queue, with the pointer 0x400 and length 512, and with it running. -/
def entry0 (i : Instr) : ChurnEntry := { instr := i, strand := 0, pc := 0, npc := 4, pa := 0x400, len := 512 }
def churning (i : Instr) (s : State) : State := my (fun k => { k with churnRun := some (entry0 i) }) s
theorem test_ChurnEvents : (∀ i ∈ [Instr.mzero 1, .msemi .minPlus, .mstz 2 0 .L .native, .mldz 1 2 .L], (churned i).myCore.churnRun = none
        ∧ (churned i).myCore.churnQ = [entry0 i] ∧ (churned i).myCore.churnMiss = none ∧ (churned i).myCore.churnMissFault = none
        ∧ (churned i).tileFault 0 (entry0 i) = none ∧ (churned i).otherFormatFault 0 (entry0 i) = none
        ∧ ((churned i).churnBytes 0 (entry0 i) = .ok [] ∨ (churned i).churnBytes 0 (entry0 i) = .ok (span 0x400 1024))
        ∧ (churned i).churnHeldUp 0 (entry0 i) [] = false ∧ (churned i).churnHeldUp 0 (entry0 i) (span 0x400 1024) = false
        ∧ (churned i).churnBad (entry0 i) [] = none ∧ (churned i).churnBad (entry0 i) (span 0x400 1024) = none)
    ∧ (churned (.mma 0 0 1 false)).tileFault 0 (entry0 (.mma 0 0 1 false)) = some { code := 0x30 } ∧ vaof (entry0 .nop).pa = 0x400 ∧ 0x400 % 128 = 0 ∧ data.me.churnHeld = []
    ∧ (churning (.ringdef 1 2 3 .L) data).myCore.copiesToRing 1 0 = false := by decide
/-- MPROG's block: MOV S, S, then END (Table 7.5); and a block whose first word is no operation. -/
def progAt (w : Nat) : State := (churned (.mprog 2 .L)).writeN 0x400 4 w
theorem test_ChurnEvents_mprog : progOk (BitVec.ofNat 256 ((progAt 0).readN 0x400 32)) = false
    ∧ (∀ w ∈ [0, 0x60000000], (progAt w).churnBytes 0 (entry0 (.mprog 2 .L)) = .ok (span 0x400 32) ∧ (progAt w).churnHeldUp 0 (entry0 (.mprog 2 .L)) (span 0x400 32) = false
      ∧ (progAt w).churnBad (entry0 (.mprog 2 .L)) (span 0x400 32) = none)
    ∧ progOk (BitVec.ofNat 256 ((progAt 0x60000000).readN 0x400 32)) = true
    ∧ runs (.churnEntryStart 0) (progAt 0) (fun t => t.me.churnFault == some { code := 0x13 }) = true
    ∧ runs (.churnEntryStart 0) (progAt 0x60000000) (fun t => t.myCore.churnRun.any fun n => n.block == 0x60000000) = true
    ∧ runs (.churnEntryRetire 0) (my (fun k => { k with churnRun := some { entry0 (.mprog 2 .L) with block := 0x60000000 } }) data) (fun t => t.me.mx.prog == some 0x60000000) = true
    ∧ (∀ q ∈ ([] : List ChurnEntry), q.strand ≠ 0) ∧ data.fenced 0 = false := by decide
theorem test_ChurnEvents_values : runs (.churnEntryStart 0) (churned (.mzero 1)) (fun t => t.myCore.churnRun == some (entry0 (.mzero 1)) && t.myCore.churnQ == []) = true
    ∧ runs (.churnEntryStart 0) (churned (.mma 0 0 1 false)) (fun t => t.myCore.churnRun.isNone && t.me.churnFault == some { code := 0x30 }) = true
    ∧ runs (.churnEntryRetire 0) (churning (.msemi .minPlus) data) (fun t => t.me.mx.semi == .minPlus && t.myCore.churnRun.isNone) = true
    ∧ runs (.churnEntryRetire 0) (churning (.ringdef 1 2 3 .L) data) (fun t => (t.myCore.ring 1 0).any fun r => r.ea == 0x400 && r.size == 512) = true
    ∧ runs (.churnEntryRetire 0) (churning (.mzero 1) (me (fun st => { st with mx := { st.mx with z1 := { bits := 5, int := true } } }) data)) (fun t => t.me.mx.z1 == {}) = true := by decide
/-- Rings 0 and 1 of INT8 with a tile each, rings 2 and 3 empty. -/
def rings2 : State := part (fun p => { p with rings := [(0, { ring1 with ea := 0x2000 }), (1, ring1), (2, { ring1 with tail := 0 }), (3, { ring1 with fmt := 0x20, tail := 2048 })] })
  ({ data with time := 2000000 } : State)
theorem test_ChurnEvents_tiles : (∀ i ∈ [Instr.mma 0 0 1 true, .mrun 0 0 1 true], (churning i rings2).myCore.churnRun = some (entry0 i))
    ∧ rings2.myCore.ring 0 0 = some { ring1 with ea := 0x2000 } ∧ rings2.myCore.ring 1 0 = some ring1 ∧ isSparse 1 = false ∧ tileBytes 1 ≤ ring1.occ ∧ rings2.badWords = []
    ∧ isSparse 0x20 = true ∧ tileBytes 0x20 ≤ ({ ring1 with fmt := 0x20, tail := 2048 } : Ring).occ
    ∧ ((churning (.mma 0 2 1 false) rings2).waitsRing 0 (.mma 0 2 1 false)).isSome = true ∧ (entry0 .nop).since + 2000000 ≤ rings2.time := by decide
theorem test_ChurnEvents_starved : runs (.ringStarved 0) (churning (.mma 0 2 1 false) rings2) (fun t => t.myCore.churnRun.isNone && t.me.churnFault == some { code := 0x31 }) = true
    ∧ runs (.ringStarved 0) (churning (.mma 0 2 1 false) ({ rings2 with time := 1999999 } : State)) (fun t => t.me.churnFault.isNone) = true := by decide
/-- One FP32 element from 0x500 to 0x400; a command that has finished; the same with its word at REMAIN 0. -/
def copy1 : CopyCmd := { instr := .cpy 5 6 7 false false .L .L, strand := 0, pc := 0, launch := 0, dst := described.me.xr 5, src := described.me.xr 6, desc := described.descFields 0 0x200, seed := 0 }
def copying : State := my (fun k => { k with engQ := [copy1] }) (described.writeN 0x500 4 0x3F800000)
def finished1 (n : Nat) (i : Instr) : State := my (fun k => { k with engRun := some { cmd := { copy1 with instr := i }, finished := true } }) (described.writeN 0x300 4 n)
theorem test_CopyEvents : copying.myCore.engRun = none ∧ copying.myCore.engQ = [copy1] ∧ copying.copyReady 0 copy1 = true ∧ fmtof copy1.src = 8 ∧ fmtof copy1.dst = 8
    ∧ (∀ j < 4, descCount copy1.desc j = 1) ∧ vaof copy1.src = 0x500 ∧ vaof copy1.dst = 0x400 ∧ copying.rects = [] ∧ copying.badWords = [] ∧ descCtl copy1.desc = 0x300
    ∧ (finished1 2 copy1.instr).readN 0x300 4 = 2 ∧ (finished1 0 copy1.instr).readN 0x300 4 = 0 ∧ (finished1 0 copy1.instr).me.regs.engerr = 0
    ∧ copyEv (.cpy 5 6 7 false true .L .L) = true := by decide
/-- The command running, with its element moved or not. -/
def copyRuns (n : Nat) : State := my (fun k => { k with engRun := some { cmd := copy1, moved := n } }) (described.writeN 0x500 4 0x3F800000)
theorem test_CopyEvents_values : runs (.copyCommandStart 0) copying (fun t => t.myCore.engQ == [] && t.myCore.engRun == some { cmd := copy1 }) = true
    ∧ runs (.copyCommandStart 0) (copyRuns 0) (fun t => t.readN 0x400 4 == 0x3F800000 && t.myCore.engRun.any fun n => n.moved == 1 && !n.finished) = true
    ∧ runs (.copyCommandStart 0) (copyRuns 1) (fun t => t.myCore.engRun.any fun n => n.finished && n.err.isNone) = true
    ∧ copying.fenced 0 = false ∧ (copyRuns 0).myCore.engMiss = none ∧ (copyRuns 0).myCore.engMissFault = none ∧ data.myCore.ringdefsBefore 1 0 = false
    ∧ runs (.copyCommandStart 0) (my (fun k => { k with engRun := some { cmd := { copy1 with instr := .cpys 1 6 7 false false .L } } }) data)
        (fun t => t.myCore.engRun.any fun n => n.finished && n.err.map Prod.fst == some 0x30) = true
    ∧ runs (.completionArrival 0) (finished1 2 (.cpy 5 6 7 false true .L .L)) (fun t => t.readN 0x300 4 == 1 && t.me.regs.evpend == 2 && t.me.regs.englast == 0x300 && t.myCore.engRun.isNone) = true
    ∧ runs (.completionArrival 0) (finished1 0 copy1.instr) (fun t => t.readN 0x300 4 == 0x80000000 && t.me.regs.engerr == 0xB600000000000300) = true := by decide
/-- CPYS to ring 1 of INT8 (16 rows of 32 elements), with room and without it. -/
def descRing : List Word := [(31 : Word) + 15 * 2 ^ 16, 1, 32, 0, 0, 0, 0, 0x300]
def cmdRing : CopyCmd := { copy1 with instr := .cpys 1 6 7 false false .L, src := BitVec.ofNat 64 (2 ^ 58 + 0x500), desc := descRing }
def pushing (r : Ring) (n : Nat) : State := my (fun k => { k with engRun := some { cmd := cmdRing, bound := some (1, 0) }, part := { k.part with rings := [(1, r)] } }) ({ described with time := n } : State)
def emptyRing : Ring := { ring1 with tail := 0, ea := 0x2000, size := 1024 }
theorem test_CopyEvents_ring : (pushing emptyRing 0).myCore.ring 1 0 = some emptyRing ∧ emptyRing.occ + tileBytes 1 ≤ emptyRing.size ∧ (pushing emptyRing 0).rects = []
    ∧ (match (pushing emptyRing 0).readRows 0 cmdRing emptyRing 0 (span 0 (tileRows 1)) with | .ok _ => true | .error _ => false) = true
    ∧ (let r : Ring := { emptyRing with tail := 1024 }; r.size < r.occ + tileBytes r.fmt ∧ 2000000 ≤ (pushing r 2000000).time
      ∧ runs (.ringRoomTimeout 0) (pushing r 2000000) (fun t => t.myCore.engRun.any fun n => n.finished && n.err == some (0x37, 0x2000)) = true) := by decide
/-- Flits to core 0: a message, a register send to X20 of strand 0, a post. -/
def flit0 (k : Nat) : Flit := { id := 7, kind := k, src := 1, strand := 0, launch := 0, ctx := 0, entry := 0, source := 8, seq := 0, dst := 0, data := 99, target := BitVec.ofNat 64 (20 * 2 ^ 41) }
def flying (f : Flit) (s : State) : State := { s with flits := [f] }
theorem test_MessageEvents : (∀ k ∈ [1, 2, 3], (flying (flit0 k) mailed).flit 7 = some (flit0 k) ∧ (flying (flit0 k) mailed).arrivalGate (flit0 k) = some none
        ∧ (flying (flit0 k) mailed).targetOf (flit0 k) 0 = .resident 0) ∧ mailed.myPart.done = false ∧ mailed.myPart.occupancy ≠ mailed.myPart.pailSize.toNat
    ∧ (flying (flit0 4) data).arrivalGate (flit0 4) = some none ∧ (data.cluster 0).tasks.length < 4096
    ∧ (let s := part (fun p => { p with pailTail := 256, overflow := [] }) mailed; s.myPart.occupancy = s.myPart.pailSize.toNat)
    ∧ (let s := part (fun p => { p with pailTail := 256, overflow := List.replicate 64 { data := 0, core := 0, strand := 0 } }) mailed; 64 ≤ s.myPart.overflow.length
      ∧ (flying (flit0 2) s).arrivalGate (flit0 2) = some none) ∧ (flying { flit0 2 with state := .acked, src := 0 } data).senderOf { flit0 2 with state := .acked, src := 0 } = .resident 0
    ∧ BitVec.ofNat 16 ((flit0 1).target.toNat / 2 ^ 24) = data.me.regs.capgen ∧ (data.me.xreg 20).full = true ∧ data.me.status = .running := by decide
theorem test_MessageEvents_values : runs (.messageAccept 7) (flying (flit0 2) mailed) (fun t => t.readN 0x1040 64 == 99 && t.myPart.pailTail == 128 && (t.flit 7).any fun f => f.state == .acked) = true
    ∧ runs (.messageResend 7) (flying { flit0 2 with state := .refusedRoom 0 } ({ data with time := 256 } : State)) (fun t => (t.flit 7).any fun f => f.state == .inFlight) = true
    ∧ runs (.sendAcknowledge 7) (flying { flit0 2 with state := .acked, src := 0 } data) (fun t => (t.flit 7).isNone) = true
    ∧ runs (.sendRefusal 7) (flying { flit0 2 with state := .refused 0x25, src := 0 } data) (fun t => (t.flit 7).isNone && t.me.refusals.map (·.code) == [0x25]) = true
    ∧ runs (.postDelivery 7) (flying (flit0 4) data) (fun t => (t.cluster 0).tasks.map (·.data) == [99]) = true
    ∧ runs (.registerArrival 7) (flying (flit0 1) data) (fun t => t.me.arrivals == [{ code := 0x22, eva := 20 }]) = true
    ∧ runs (.registerArrival 7) (flying (flit0 1) (me (fun st => st.xput 20 { full := false }) data)) (fun t => t.me.xreg 20 == { val := 99 }) = true
    ∧ runs (.registerArrival 7) (flying (flit0 1) (me (fun st => { st with regs := { st.regs with capgen := 1 } }) data)) (fun t => (t.flit 7).any fun f => f.state == .refused 0x20) = true := by decide
/-- A message and a register send forwarded to core 0, which lies behind a fence. -/
theorem test_MessageEvents_fenced : (let s : State := { mailed with rects := [(9, { d := 0, x0 := 0, y0 := 0, w := 1, h := 1, state := .fenced, since := 0 })] }
    (s.forwardFenced { flit0 2 with src := 5 } 0 = true ∧ mailed.forwardFenced (flit0 2) 0 = false)) := by decide
/-- An access of the strand with an error, one to a peer while no port is up, and a long one that can be split. -/
def peerAcc : Access := { acc .load with bytes := [0x4000000000000] }
theorem test_AccessFaultEvents : runs (.accessReply 0 0 9) (outs { acc .load with err := some { code := 0x1E, acc := 1, eva := 0x100 } }) (fun t => t.me.out == [] && t.me.arrivals.map (·.code) == [0x1E]) = true
    ∧ (∀ x ∈ [(0x20100, false), (0x100, true)], runs (.detectedLinkError 9) (outs { acc (.atomic (.aadd 1 2 3 false .relaxed .die .N)) with performed := true, bytes := span x.1 8 })
      (fun t => (t.me.access 9).any fun a => a.performed == x.2) = true)
    ∧ (outs { acc .store with bytes := span 0x100 128 }).splitAccess 9 = true ∧ (outs (acc .store)).nacked = []
    ∧ runs (.reassemblyTimeout 9) (outs { acc .store with bytes := span 0x100 128 }) (fun t => t.nacked == [9]) = true
    ∧ runs (.nackResend 9) ({ outs (acc .store) with nacked := [9] } : State) (fun t => t.nacked == []) = true := by decide
theorem test_AccessFaultEvents_peer : (let s (n : Nat) : State := { outs peerAcc with ports := 0, time := n }
      peerAcc.bytes.any (s 128000).peerDown = true ∧ (s 127999).time < max peerAcc.since (s 0).portsDown + 128000
        ∧ runs (.peerNoPortTimeout 0 0 9) (s 128000) (fun t => t.me.out == [] && t.me.arrivals.map (·.code) == [0x1E]) = true
        ∧ runs (.peerNoPortTimeout 0 0 9) (s 127999) (fun t => t.me.out.length == 1) = true) := by decide
theorem test_CopyEvents_push : runs (.cpysTilePush 0) (pushing emptyRing 0) (fun t => ((t.myCore.ring 1 0).any fun r => r.tail == 512 && r.head == 0)
      && t.myCore.engRun.any fun n => n.moved == 1) = true := by decide
/-- Eight points of 300 MHz, and of 2 units of leakage. -/
def pts300 : BitVec 128 := 0x012C012C012C012C012C012C012C012C
theorem test_PowerEvents : (pointsOf pts300 = some [300, 300, 300, 300, 300, 300, 300, 300] ∧ someBelow [300, 300, 300, 300, 300, 300, 300, 300] data.myCore.curve.cvf = true)
    ∧ runs (.remeasurement 0 pts300 pts300) data (fun t => t.myCore.curve.cgen == 1 && t.myCore.curve.due == some 100000 && t.myCore.curve.cvf.headD 0 == 300) = true
    ∧ (let s := my (fun k => { k with curve := { k.curve with due := some 100000, laneDue := some 5 } }) ({ data with time := 100000 } : State)
       runs (.curveUpdateTimeout 0) s (fun t => t.myCore.curve.due.isNone) = true ∧ runs (.laneCapApply 0) s (fun t => t.myCore.curve.laneDue.isNone) = true
        ∧ s.time % 20000 = 0 ∧ s.lastTick ≠ s.time ∧ Tab.has 0 s.cores = true ∧ runs .powerControlTick s (fun t => t.lastTick == 100000) = true)
    ∧ (let s : State := { data with rails := [(0, { target := some 600 })] }; runs (.railSettle 0) s (fun t => t.rail 0 == { volt := 600, stepUp := true }) = true)
    ∧ runs (.railSettle 0) ({ data with rails := [(0, { volt := 600, stepUp := true })] } : State) (fun t => (t.rail 0).volt == 600 && !(t.rail 0).stepUp) = true
    ∧ runs (.laneRemeasurement 0 5 pts300) data (fun t => ((t.octet 0).lane 5).pts.headD 0 == 300) = true
    ∧ runs (.budgetTick 0 0 0 0) ({ data with time := 200000, meter := { bytes := 2690000000 } } : State) (fun t => t.budgetMem == 900 && t.budgetArray == 2100 && t.meter == {}) = true
    ∧ runs (.junctionSample 0 106) data (fun t => t.myCore.curve.tj == 106 && t.myCore.curve.heating) = true := by decide
/-- The host port at sequence number 0; a ring of 4 entries at 0x1000 of host memory with one entry held. -/
def hosted : State := { data with host := { eqbase := 0x1000, hold := [5] }, control := { step := 7, standby := true } }
/-- BAR2 with 16 bytes of the vat of die 0 at offset 0x100. -/
def mapped2 : State := { hosted with host := { hosted.host with bar2 := [(0x100, 16, 0x40000000)] } }
theorem test_HostEvents : runs (.submissionCommit 0 (3 * 2 ^ 32)) hosted (fun t => t.host.nextSeq == 1 && t.host.fifo == [(0, 3, 0)]) = true
    ∧ runs (.submissionCommit 0 5) hosted (fun t => t.host.gap && t.host.nextSeq == 0) = true
    ∧ runs (.submissionCommit 0 0) ({ hosted with host := { hosted.host with nextSeq := 1 } } : State) (fun t => t.host.dup == 1) = true
    ∧ runs (.substatWrite 0xFFFFFFFF) ({ hosted with host := { hosted.host with dup := 1, gap := true } } : State) (fun t => t.host.dup == 0 && !t.host.gap) = true
    ∧ runs (.eqheadWrite 9) hosted (fun t => t.host.eqhead == 9) = true ∧ runs (.bar0RegisterWrite 0 0x0000 7) hosted (fun t => Tab.get 0 0 t.host.sublo == 7) = true
    ∧ placeAll mapped2.host.bar2Byte (span 0x104 8) = some (span 0x40000004 8) ∧ mapped2.remoteOk (span 0x40000004 8) = true
    ∧ runs (.hostBar2Access 0x104 (.write 8 258)) mapped2 (fun t => t.readN 0x40000004 8 == 258) = true
    ∧ runs (.hostBar2Access 0x104 (.read 8)) (mapped2.writeN 0x40000004 8 77) (fun t => t.host.readData == 77) = true
    ∧ placeAll mapped2.host.bar2Byte (span 0x10C 8) = none
    ∧ runs (.linkPortDown 3) hosted (fun t => t.ports == 0xFFF7) = true ∧ runs (.linkPortUp 3) hosted (fun t => t.ports == 0xFFFF) = true
    ∧ runs (.linkPortDown 3) ({ hosted with ports := 8, time := 9 } : State) (fun t => t.ports == 0 && t.portsDown == 9) = true := by decide
/-- A peer's MIN on signed words, at an aligned word of the vat. -/
theorem test_HostEvents_peer : hosted.ports ≠ 0 ∧ (∀ b ∈ span 0x40000000 4, ownRegion b ≠ .hole) ∧ hosted.remoteOk (span 0x40000000 4) = true
    ∧ runs (.peerRequest 5 0x40000000 (.atomic .min true false 0xFFFFFFFE 0)) (hosted.writeN 0x40000000 4 7)
        (fun t => t.readN 0x40000000 4 == 0xFFFFFFFE && Tab.get 0 5 t.host.peerData == 7) = true
    ∧ runs (.peerRequest 5 0x40000000 (.read 4)) (hosted.writeN 0x40000000 4 7) (fun t => Tab.get 0 5 t.host.peerData == 7) = true
    ∧ runs (.peerRequest 5 0x40000000 (.write 4 9)) hosted (fun t => t.readN 0x40000000 4 == 9) = true := by decide
/-- An uncorrectable word at the vat gives a peer none of its bits, and takes no atomic's store (R93, R201). -/
theorem test_HostEvents_bad : (let s : State := { hosted.writeN 0x40000000 4 7 with badWords := [0x10000000] }
    s.badIn (span 0x40000000 4) ≠ none ∧ hosted.badIn (span 0x40000000 4) = none
      ∧ runs (.peerRequest 5 0x40000000 (.read 4)) s (fun t => Tab.get 0 5 t.host.peerData == 0) = true
      ∧ runs (.peerRequest 5 0x40000000 (.atomic .add true false 1 0)) s (fun t => t.readN 0x40000000 4 == 7) = true) := by decide
theorem test_HostEvents_queue : hosted.host.hold = [5] ∧ (hosted.host.eqtail - hosted.host.eqhead).toNat < hosted.host.ring ∧ hosted.host.eqbase ≠ 0 ∧ hosted.host.store = []
    ∧ runs .eventQueueWrite hosted (fun t => t.hostRead 0x1000 32 == 5 && t.host.eqtail == 1 && Tab.get 0 0 t.host.msix == 1 && t.host.hold == []) = true := by decide
/-- Context 0 with a page of the vat at 0x100000; a launch of core 0 alone, by a list of one rectangle, at 0x100000. -/
def packet0 : Packet := { Packet.ofBits 0 with version := 1, plog := 8, pbase := 0x1000, nent := 1, mlist := 0x100000, compl := 0x100040, ydef := 256, image := 0x101000, isize := 0x80, entry := 0x40 }
def page0 : TlbEntry := { asid := 0, glob := true, r := true, w := true, x := true, a := true, pa := 0x40000000, va := 0x100000, size := 0 }
def launch0 : Launch := { ctx := 0, packet := packet0 }
def launching : State := ({ State.reset with ctxs := [(0, { pages := [page0], queue := [1] })], launches := [(1, launch0)], control := { step := 7 } } : State).writeN 0x40000000 8 0x101
theorem test_LaunchEvents : launching.launch? 1 = some launch0 ∧ launching.control.step = 7 ∧ launching.control.stopped = false ∧ launching.eligibleLaunch 1 launch0 = true
    ∧ launching.unavailable 0 packet0 = false ∧ launching.depFailed packet0.dep0 = false ∧ launching.nextRelease = some 1 ∧ launching.pick launch0 = some [(0, 0)]
    ∧ launch0.restart = false ∧ launch0.reruns = [] ∧ packet0.dual = false ∧ packet0.tape = 0 ∧ packet0.convoy = false ∧ 0 ∈ (launching.core 0).test.strands.take (packet0.strands + 1) ∧ 0 ∈ diesOf [0]
    ∧ runs (.launchRelease 1) launching (fun t => (t.core 0).part.resident && (t.strand 0 0).pc == 0x101040
      && (t.strand 0 0).stat.sup == false && (t.strand 0 0).xr 31 == 0x16000 && (t.launch? 1).any (·.released)) = true := by decide
/-- A launch that depends on a failed one; a released one whose member is core 0. -/
def failing : State := { launching with launches := [(0, { launch0 with complete := true, err := true }), (1, { launch0 with packet := { packet0 with dep0 := some 0 } })] }
def released0 : Launch := { launch0 with released := true, members := [{ core := 0, stage := 0 }], packet := { packet0 with timeout := 1, steal := true, split := 1, n := 100 } }
def ended0 : State := ({ data with launches := [(0, released0)], time := 2000000 } : State) |> me fun st => { st with status := .ended }
theorem test_LaunchEvents_more : failing.depFailed (some 0) = true ∧ failing.partnerGone { launch0 with packet := { packet0 with dep0 := some 0 } } = false ∧ failing.eligibleLaunch 1 { launch0 with packet := { packet0 with dep0 := some 0 } } = true
    ∧ runs (.launchRelease 1) failing (fun t => (t.launch? 1).any fun l => l.complete && l.refused == 4 && l.flags.getLsbD 0) = true
    ∧ ended0.myPart.occupied = true ∧ ended0.myPart.mirror = false ∧ ended0.myPart.allEnded = true ∧ ended0.drained 0 = true ∧ ended0.launch? ended0.myPart.launch = some released0
    ∧ runs (.taskEnd 0) ended0 (fun t => t.myPart.done && (t.launch? 0).any fun l => l.count == 1 && l.complete) = true
    ∧ (let s := me (fun st => { st with status := .running }) ended0; s.myPart.allEnded = false ∧ (released0.releaseTime + 2000000 * released0.packet.timeout ≤ s.time)
      ∧ s.memberAt 0 0 = .resident 0 ∧ runs (.launchTimeout 0) s (fun t => t.myPart.allEnded && (t.launch? 0).any fun l => l.flags == 5) = true)
    ∧ (let s := me (fun st => { st with status := .running, stat := { st.stat with sup := true }, regs := { st.regs with cause := 0x22 } }) ended0
       s.myPart.monitorCause = some 0x22 ∧ runs (.taskEnd 0) s (fun t => t.myPart.allEnded && t.myPart.taskFault == some 0x22) = true) := by decide
theorem test_LaunchEvents_end : ended0.pairFenced 0 = false ∧ ended0.myPart.charged = false
    ∧ (let s := part (fun p => { p with charged := true }) ended0; s.myPart.allEnded = true ∧ runs (.taskEnd 0) s (fun t => !t.myPart.done) = true)
    ∧ (let s : State := { ended0 with rects := [(9, { d := 0, x0 := 0, y0 := 0, w := 1, h := 1, state := .fenced, since := 0 })] }
       s.pairFenced 0 = true ∧ runs (.taskEnd 0) s (fun t => !t.myPart.done) = true) := by decide
/-- Dies 0 and 1 of one launch with their range words: die 0 is exhausted, die 1 has 10 items left. -/
def stealing : State := (({ data with launches := [(0, { released0 with members := [{ core := 0, stage := 0 }, { core := 2048, stage := 0 }], dies := [0, 1] })] } : State).writeN (rangeWord 0 0) 8
  (50 + 50 * 2 ^ 32)).writeN (rangeWord 0 1) 8 (90 + 100 * 2 ^ 32)
theorem test_LaunchEvents_steal : stealing.readN (rangeWord 0 0) 8 ≠ doneWord ∧ stealing.richest 0 0 [0, 1] = some (1, 10) ∧ released0.rangeSlot < 8192 ∧ released0.packet.steals = true
    ∧ runs (.stealReport 0 0) stealing (fun t => t.readN (rangeWord 0 1) 8 == 90 + 95 * 2 ^ 32 && t.readN (rangeWord 0 0) 8 == 95 + 100 * 2 ^ 32) = true := by decide
/-- A replay of a tape that holds one MZERO Z1, and one that has run through. -/
def replaying (l : List TapeRec) : State := part (fun p => { p with tape := { mode := 2, seg := { recs := l } } }) data
theorem test_LaunchEvents_replay : (replaying []).myPart.tape.mode = 2 ∧ runs (.replayRecord 0) (replaying []) (fun t => t.me.status == .ended) = true
    ∧ (let l := [tapeRec 1 false 0xE9800100 0]; runs (.replayRecord 0) (replaying l) (fun t => t.myCore.churnQ.map (·.instr) == [.mzero 1] && t.myPart.tape.next == 1) = true)
    ∧ runs (.replayRecord 0) (replaying [tapeRec 1 false 0x8F000000 0]) (fun t => t.me.status == .ended && t.myPart.taskFault == some 0x34) = true
    ∧ runs (.replayRecord 0) (replaying [tapeRec 7 false 0 0]) (fun t => t.me.status == .ended && t.myPart.taskFault.isNone) = true := by decide
theorem test_LaunchEvents_replayWaits : (let s := me (fun st => { st with claim := some { n := 4, xd := none } }) (replaying [tapeRec 1 false 0xE9800100 0])
    s.me.claim ≠ none ∧ s.me.status = .running ∧ s.fenced 0 = false ∧ runs (.replayRecord 0) s (fun t => t.myPart.tape.next == 0) = true)
    ∧ (let s : State := { replaying [tapeRec 1 false 0xE9800100 0] with rects := [(9, { d := 0, x0 := 0, y0 := 0, w := 1, h := 1, state := .fenced, since := 0 })] }
       s.myPart.tape.mode = 2 ∧ s.fenced 0 = true ∧ runs (.replayRecord 0) s (fun t => t.myPart.tape.next == 0) = true) := by decide
/-- A member that is marked and held at its YIELD; its save image; the walker's request of the strand. -/
def held0 : State := part (fun p => { p with marked := true, rank := 3 }) (me (fun st => { st with status := .held, pc := 8 }) data)
def image0 : Image := { part := held0.myPart, oldCore := 0, kv := false, tcm := [], empties := [] }
def saved : State := { State.reset with images := [(4, image0)], time := 128000 }
def miss0 : MissReq := { who := .scalar, kind := .loadStore, core := 0, strand := 0, va := 0x123456, asid := 0 }
def walking (l o : List MissReq) : State := { me (fun st => { st with miss := some miss0 }) data with clusters := [(0, { walker := l, overflow := o })] }
theorem test_ContextEvents : held0.myPart.occupied = true ∧ held0.myPart.allHeld = true ∧ held0.drained 0 = true ∧ held0.myPart.partner = none
    ∧ runs (.contextSwitchOut 0) held0 (fun t => !t.myPart.resident && (t.image? 0).any fun i => i.oldCore == 0 && i.part.rank == 3) = true
    ∧ (let s := ({ held0 with time := 40000 } : State) |> part fun p => p.setStrand 1 { status := .running }; s.myPart.allHeld = false ∧ runs (.holdTimeout 0) s (fun t => !t.myPart.marked && t.me.status == .running) = true)
    ∧ saved.image? 4 = some image0 ∧ saved.placeOk image0 33 = true ∧ saved.sfuLanded image0 = true ∧ saved.takesSave image0 33 = true ∧ image0.part.strands[0]?.map (·.1) = some 0 ∧ (saved.core 33).test.strands[0]? = some 0 ∧ saved.lanesFit image0 33 = true
    ∧ runs (.contextRestore 4 33) saved (fun t => (t.core 33).part.rank == 3 && (t.strand 33 0).pc == 8 && (t.image? 4).any fun i => i.restored == some 33) = true := by decide
/-- The part is to migrate: it is saved where a core takes it, runs on where its launch is unknown, and is restored on the core selected alone. -/
def moving (l : Tab Launch) : State := part (fun p => { p with migrate := true }) ({ held0 with launches := l })
theorem test_ContextEvents_stays : (moving []).myPart.charged = false ∧ (moving []).pairFenced 0 = false ∧ (moving []).myCore.curve.notified = false ∧ (((moving []).save 0).2.migrateTo ((moving []).save 0).1) = none
    ∧ runs (.contextSwitchOut 0) (moving []) (fun t => t.myPart.marked && t.me.status == .running && t.images == []) = true
    ∧ runs (.contextSwitchOut 0) (part (fun p => { p with charged := true }) held0) (fun t => t.myPart.resident) = true := by decide
/-- The scheduler has a notification of core 0, which runs a FAST launch of MINF 1,500 MHz and has points of 300 MHz. -/
def notified0 : State := my (fun k => { k with curve := { k.curve with cvf := List.replicate 8 300, notified := true } })
  ({ data with launches := [(0, { released0 with packet := { released0.packet with sel := 2, minf := 1500 } })] } : State)
theorem test_ContextEvents_notified : Curve.speed { notified0.myCore.curve with cfreq := curvef notified0.myCore.curve.cvf 950 } < 1500 ∧ notified0.myPart.occupied = true
    ∧ runs (.contextSwitchOut 0) notified0 (fun t => t.myPart.marked && t.myPart.migrate && t.me.regs.evpend == 0x10 && !t.myCore.curve.notified) = true := by decide
theorem test_ContextEvents_window : (let s : State := { held0 with images := [(4, { image0 with restored := some 0, until_ := 5 })], time := 5 }
      let same (x : Part) : Bool := x.launch == image0.part.launch && x.rank == image0.part.rank
      image0.part.strands.length = 1 ∧ s.findPart same 0 8 = .resident 0 ∧ s.numberAt same 0 (s.newNumber image0 0 0) 8 = 0
        ∧ runs (.forwardingWindowEnd 4) s (fun t => t.me.regs.capgen == 1 && (t.image? 4).any (·.closed)) = true) := by decide
theorem test_ContextEvents_walker : (walking [miss0] []).me.miss = some miss0 ∧ ((walking [miss0] []).cluster 0).walker = [miss0]
    ∧ (walking [] [miss0]).me.miss = some miss0 ∧ runs (.walkerQueueRetry 0 .loadStore 0) (walking [] [miss0]) (fun t => (t.cluster 0).walker == [miss0] && (t.cluster 0).overflow == []) = true
    ∧ runs (.tscReply 0 .noMapping) (walking [miss0] []) (fun t => t.me.miss.isNone && t.me.missFault == some { code := 0x11, eva := 0x123456 }) = true
    ∧ runs (.tscReply 0 .unavailable) (walking [miss0] []) (fun t => t.me.missFault == some { code := 0x1B, eva := 0x123456 } && (t.cluster 0).tscDown) = true
    ∧ (paged.cores.any fun x => x.2.stillUses 0 0x100000 0x100FFF) = false
    ∧ runs (.shootdown 0 0x100000 0x100FFF) (my (fun k => { k with tlbLS := k.tlbLS.map fun e => { e with glob := false } }) paged) (fun t => t.myCore.tlbLS == []) = true := by decide
/-- Rectangles; a redundant pair of the cores 0 and 16, failed and fenced; a core under test for which a launch of higher PRIO waits. -/
def rect0 (r : RectState) (n : Nat) : State := { data with rects := [(3, { d := 0, x0 := 0, y0 := 0, w := 1, h := 1, state := r, since := 0 })], time := n }
def paired : State := (part (fun p => { p with partner := some 16 }) ({ data with launches := [(0, { released0 with packet := { released0.packet with dual := true } })] } : State)).setCore 16
  { part := { resident := true, mirror := true, partner := some 0 } }
def failed0 (r : RectState) : State := { paired with rects := [(3, { d := 0, x0 := 0, y0 := 0, w := 1, h := 2, state := r, since := 0, dual := true })] }
def testing0 : State := ({ launching with time := 400000, launches := [(1, { launch0 with packet := { packet0 with prio := 1 } })] } : State).setCore 0 { test := { testing := true } }
theorem test_ReliabilityEvents : runs (.containmentFence 0 5 6 2 3) data (fun t => (t.rect? 0).any fun r => r.state == .fencing && r.x0 == 5) = true
    ∧ runs (.containmentFenced 3) (rect0 .fencing 0) (fun t => (t.rect? 3).any fun r => r.state == .fenced) = true
    ∧ runs (.containmentReset 3) (rect0 .fenced 0) (fun t => ((t.rect? 3).any fun r => r.state == .reset) && !(t.core 0).part.resident) = true
    ∧ runs (.containmentTest 3) (rect0 .reset 40000) (fun t => (t.rect? 3).any fun r => r.state == .test) = true
    ∧ runs (.containmentTestEnd 3 [0]) (rect0 .test 400000) (fun t => (t.rect? 3).isNone && !(t.core 0).test.inMap) = true
    ∧ runs (.containmentTestEnd 3 []) (rect0 .test 400000) (fun t => (t.core 0).test.inMap && (t.core 0).test.passed) = true
    ∧ (let a := acc .store
       runs (.containmentFenced 3) ({ outs a with rects := (rect0 .fencing 0).rects } : State) (fun t => t.me.out == []) = true
        ∧ (let r : Rect := { d := 0, x0 := 1, y0 := 0, w := 1, h := 1, state := .fencing, since := 0 }
           r.has 0 = false ∧ r.holds (span 0x20100 8) = true
            ∧ runs (.containmentFenced 3) ({ outs { a with bytes := span 0x20100 8 } with rects := [(3, r)] } : State)
                (fun t => t.me.out.map (fun x => x.err.map (·.code)) == [some 0x16]) = true)) := by decide
/-- 16 rectangles at most; a pair's mismatch fences it; its reset runs the task again on the pair of the cores 1 and 17, or ends it where none is free. -/
theorem test_ReliabilityEvents_pair : (∀ e ∈ paired.rects, e.2.dual = true → e.2.has 0 = false) ∧ paired.selfCore 0 = 0 ∧ released0.reruns = [] ∧ paired.myPart.partner = some 16 ∧ paired.myPart.occupied = true
    ∧ runs (.dualMismatch 0) paired (fun t => t.rects == (failed0 .fenced).rects.map fun e => (0, e.2)) = true ∧ paired.itemWaits 0 = false
    ∧ (let s : State := { (outs (acc .store)) with time := 128000 }; s.itemWaits 0 = true)
    ∧ (((failed0 .fenced).rect? 3).map fun r => r.cores.find? fun n => ((failed0 .fenced).core n).part.occupied && !((failed0 .fenced).core n).part.mirror
        && ((failed0 .fenced).core n).part.partner.isSome) = some (some 0) ∧ ((failed0 .fenced).core (partnerOf 0)).part.occupied = true
    ∧ runs (.containmentReset 3) (failed0 .fenced) (fun t => !(t.core 0).part.resident && (t.core 1).part.occupied && (t.core 17).part.mirror
      && (t.launch? 0).any fun l => l.flags.getLsbD 6) = true
    ∧ runs (.containmentReset 3) (my (fun k => { k with effects := [(5, 65)] }) (failed0 .fenced)) (fun t => !(t.core 0).part.resident && !(t.core 1).part.occupied
      && (t.launch? 0).any fun l => l.flags.getLsbD 0) = true := by decide
/-- A member that waits for a fresh pair takes the cores 1 and 17; one whose launch's TIMEOUT has ended it is reported at the reset. -/
def rerunning : State := { data with launches := [(0, { released0 with packet := { released0.packet with dual := true }, reruns := [{ old := data.myPart, core := 0 }] })] }
theorem test_ReliabilityEvents_rerun : (rerunning.launch? 0).bind (fun l => rerunning.freshPair l 0 0) = some 1
    ∧ runs (.launchRelease 0) rerunning (fun t => (t.core 1).part.occupied && (t.core 17).part.mirror && (t.launch? 0).any fun l => l.reruns == [] && l.flags.getLsbD 6) = true
    ∧ runs (.containmentReset 3) ({ failed0 .fenced with launches := [(0, { released0 with packet := { released0.packet with dual := true }, flags := 5 })] } : State)
        (fun t => !(t.core 0).part.resident && !(t.core 1).part.occupied && (t.launch? 0).any fun l => l.count == 1) = true := by decide
/-- No core has five usable strands for a member that waits. -/
def stranded : Launch := { released0 with packet := { packet0 with dual := true, strands := 4 }, reruns := [{ old := data.myPart, core := 0 }] }
theorem test_ReliabilityEvents_noPair : stranded.released = true ∧ ({ State.reset with launches := [(0, stranded)] } : State).freshPair stranded 0 0 = none := by
  refine ⟨by decide, List.find?_eq_none.2 fun q _ h => ?_⟩
  have h5 : 5 ≤ (({} : Core).test.strands).length := by simp [State.placeable, State.isFree] at h; exact h.1.1.1.2
  exact absurd h5 (by decide)
/-- A step of a pair: both cores run MOVI X1, #7, and nothing that leaves the pair differs. -/
theorem test_pair_step : (let s : State := (part (fun p => { p with partner := some 16 }) (code 0 0xCD840007 u0)).setCore 16 { part := { resident := true, mirror := true, partner := some 0 } }
    match step s with
    | .next t => t.me.xr 1 == 7 && ((Tab.get {} 16 t.twins).core.part.strands.any fun e => e.2.xr 1 == 7) && t.rects == []
    | _ => false) = true := by decide +kernel
theorem test_ReliabilityEvents_test : State.reset.inMap 0 = true ∧ testing0.testInWay 0 = true ∧ (rect0 .fenced 0).testInWay 0 = false ∧ State.reset.lastPass 0 = none ∧ runs (.infieldTestStart 0) State.reset (fun t => (t.core 0).test.testing) = true ∧ testing0.patternOver 0 = true
    ∧ runs (.infieldTestAbort 0) testing0 (fun t => !(t.core 0).test.testing && !(t.core 0).test.passed) = true ∧ runs (.infieldTestPass 0) testing0 (fun t => (t.core 0).test.passed) = true
    ∧ runs (.infieldTestFail 0) testing0 (fun t => !(t.core 0).test.inMap) = true
    ∧ runs (.infieldPassExpiry 0) ({ State.reset with time := 172800000000000 } : State) (fun t => (t.core 0).test.heldOut) = true
    ∧ runs (.softErrorCorrected 0 false) data (fun t => (t.core 0).softCore == 1) = true ∧ runs (.softErrorCorrected 0 true) data (fun t => (t.octet 0).soft == 1) = true := by decide
/-- An image without a byte, whose keys have not the root hash of mask ROM; the steps of Table 19.4 in order; a start whose image verifies. -/
def image1 : BootImage := { rsaKey := [], slhKey := [], body := [], rsaSig := [], slhSig := [] }
def start1 : StartData :=
  { image := image1, identity := 5, trainOk := true, measureOk := true, sweepOk := true, source := .link 0, peer := 3, failed := [5], ms := 900, version := 7 }
theorem test_StartupEvents : (let s : State := { data with control := { standby := true, imported := true, standbyVersion := 8 } }
       runs .roleSwap s (fun t => t.control.activeB && t.control.version == 8 && t.host.hold.map entryKind == [3]) = true
        ∧ runs .failover s (fun t => t.control.activeB && !t.control.standby) = true ∧ s.host.takes 3 = true)
    ∧ runs .roleSwap data (fun t => !t.control.activeB) = true ∧ runs .failover data (fun t => t.control.stopped && t.control.fail == 5) = true
    ∧ data.control.startFailed = false ∧ (({ data with control := { fail := 3 } } : State).control.startFailed = true)
    ∧ data.inMap 5 = true ∧ data.freshPass 5 = false
    ∧ (let s := data.started image1 start1 true {} (fun _ => false) []
       s.control.step = 7 ∧ s.control.cold = true ∧ s.mem = [] ∧ (s.core 0).part.resident = false ∧ (s.core 5).test.inMap = false)
    ∧ (let s := data.started image1 start1 false { train := true } data.freshPass data.mem
       s.control.step = 7 ∧ s.control.cold = false ∧ s.mem = data.mem ∧ (s.core 0).part.resident = false ∧ s.host = data.host) := by decide
theorem test_StartupEvents_update : runs (.liveUpdate image1 true 8) data (fun t => !t.control.standby && !t.control.imported) = true := by decide
theorem test_StartupEvents_rootHash : runs (.coldStart start1) data (fun t => t.control.fail == 2 && t.control.step == 1 && t.control.cold) = true
    ∧ runs (.warmStart start1) data (fun t => t.control.fail == 2 && t.control.step == 1 && !t.control.cold) = true := by decide
/-- Where the image verifies, the first failing step of Table 19.4 ends the start: training, measurement, the sweep; none. -/
theorem test_startEnd (rom : BitVec 384) (i : BootImage) (hk : imageKeyHash i = rom) : (imageSigned i = false → startEnd rom i start1 true true true = (1, 1))
    ∧ (imageSigned i = true → startEnd rom i { start1 with trainOk := false } true true true = (3, 3)
      ∧ startEnd rom i { start1 with measureOk := false } true true true = (4, 4) ∧ startEnd rom i { start1 with sweepOk := false } true true true = (4, 5)
      ∧ startEnd rom i { start1 with trainOk := false } false true true = (0, 7) ∧ startEnd rom i start1 true true true = (0, 7)) := by
  refine ⟨fun h => ?_, fun h => ?_⟩ <;> simp [startEnd, hk, h, start1]

end Sys2Proof.Tests
end

section
/-!
Proofs of O54 (power and speed). First what tables list after a write and after a change to every entry; then which words can sleep, and that a sleeper's
new try, a fault, a cap or a clock step moves no rail's voltage; then the events of R13 to R15, R110, R293 and R295 one by one.
-/
namespace Sys2Proof.Tab

variable {α : Type}

theorem get_map (f : α → α) (d : α) (k : Nat) (t : Tab α) (h : has k t = true) :
    get d k (t.map fun e => (e.1, f e.2)) = f (get d k t) := by
  induction t with
  | nil => cases h
  | cons e t ih =>
    obtain ⟨i, v⟩ := e
    by_cases hi : i = k
    · simp [get, hi]
    · have ht : has k t = true := by simpa [has, hi] using h
      simp [get, hi, ih ht]
theorem has_of_mem {k : Nat} {v : α} {t : Tab α} (h : (k, v) ∈ t) : has k t = true :=
  List.any_eq_true.2 ⟨_, h, by simp⟩
theorem mem_place_self (k : Nat) (v : α) (t : Tab α) : (k, v) ∈ place k v t := by
  induction t with
  | nil => exact List.mem_singleton_self _
  | cons e t ih =>
    obtain ⟨i, w⟩ := e
    unfold place
    split
    · exact List.mem_cons_self
    · exact List.mem_cons_of_mem _ ih
theorem mem_place_of_mem (k : Nat) (v : α) {t : Tab α} {e : Nat × α} (h : e ∈ t) : e ∈ place k v t := by
  induction t with
  | nil => cases h
  | cons x t ih =>
    obtain ⟨i, w⟩ := x
    unfold place
    split
    · exact List.mem_cons_of_mem _ h
    · rcases List.mem_cons.1 h with rfl | h
      · exact List.mem_cons_self
      · exact List.mem_cons_of_mem _ (ih h)
theorem mem_erase_of_ne {k : Nat} {t : Tab α} {e : Nat × α} (h : e ∈ t) (hk : e.1 ≠ k) : e ∈ erase k t := by
  induction t with
  | nil => cases h
  | cons x t ih =>
    obtain ⟨i, w⟩ := x
    unfold erase
    rcases List.mem_cons.1 h with rfl | h
    · rw [if_neg hk]; exact List.mem_cons_self
    · split
      · exact ih h
      · exact List.mem_cons_of_mem _ (ih h)
/-- A write lists its key and unlists none. -/
theorem has_put (j k : Nat) (v : α) {t : Tab α} (h : has j t = true) : has j (put k v t) = true := by
  by_cases hj : j = k
  · subst hj; exact has_of_mem (mem_place_self ..)
  · obtain ⟨e, he, hk⟩ := List.any_eq_true.1 h
    have hk : e.1 = j := by simpa using hk
    exact List.any_eq_true.2 ⟨e, mem_place_of_mem _ _ (mem_erase_of_ne he (hk ▸ hj)), by simpa using hk⟩

end Sys2Proof.Tab
end

section
namespace Sys2Proof.Machine

/-! ## Which words can sleep -/

/-- The effect neither sleeps nor faults after an arrival: it holds no state that stands without the word's completion. -/
def Eff.settles : Eff → Bool
  | .sleep _ _ _ | .trapIn _ _ => false
  | _ => true
/-- The words that can sleep (R97, R270), XPHASE among them, which can also fault after its arrival (R185). -/
def sleeps : Instr → Bool
  | .evwait _ | .lds _ _ _ _ | .lde _ _ _ _ | .bar _ _ | .barw _ _ | .recv _ | .take _ _ | .xphase _ | .cbwait _ _ => true
  | _ => false

/-- Of two effects that settle, either does. -/
theorem ite_settles {c : Prop} [Decidable c] {a b : Eff} (ha : a.settles = true) (hb : b.settles = true) :
    (if c then a else b).settles = true := by
  split <;> assumption
theorem branchIf_settles (s : State) (b : Bool) (off : Int) : (branchIf s b off).settles = true := ite_settles rfl rfl
theorem pushEntry_settles (s : State) (st : Strand) (e : SeqEntry) : (pushEntry s st e).settles = true := ite_settles rfl rfl
theorem handOver_settles (i : Instr) (s : State) : (handOver i s).settles = true := by
  refine ite_settles rfl ?_
  split
  · rfl
  · exact pushEntry_settles ..
theorem handExt_settles (i : Instr) (d : Reg) (s : State) : (handExt i d s).settles = true := by
  refine ite_settles rfl ?_
  split
  · rfl
  · exact pushEntry_settles ..
theorem pushChurn_settles (i : Instr) (a : Reg) (len : Word) (s : State) : (pushChurn i a len s).settles = true := ite_settles rfl rfl
/-- An access settles where its effect on the translated bytes does. -/
theorem onBytes_settles {r : Chk} {k : List Nat → Eff} (h : ∀ l, (k l).settles = true) : (onBytes r k).settles = true := by
  cases r with
  | ok l => exact h l
  | fault f => rfl
  | miss va => rfl
theorem onFormat_settles {p : Word} {k : Nat → Eff} (h : ∀ f, (k f).settles = true) : (onFormat p k).settles = true :=
  ite_settles (h _) rfl
theorem loadOp_settles (d b : Reg) (m : Mode) (off : BitVec 11) (acq : Option Scope) (s : State) :
    (loadOp d b m off acq s).settles = true := by
  unfold loadOp
  dsimp only
  refine onFormat_settles fun _ => onBytes_settles fun _ => ?_
  exact ite_settles rfl rfl
theorem storeOp_settles (d b : Reg) (m : Mode) (off : BitVec 11) (fe : Bool) (rel : Option Scope) (s : State) :
    (storeOp d b m off fe rel s).settles = true := by
  unfold storeOp
  dsimp only
  refine onFormat_settles fun _ => onBytes_settles fun _ => ?_
  exact ite_settles rfl rfl
theorem rawLdp_settles (d b : Reg) (m : Mode) (off : BitVec 11) (s : State) : (rawLdp d b m off s).settles = true := by
  unfold rawLdp
  dsimp only
  refine onFormat_settles fun _ => onBytes_settles fun _ => ?_
  exact ite_settles rfl rfl
theorem rawStp_settles (d b : Reg) (m : Mode) (off : BitVec 11) (s : State) : (rawStp d b m off s).settles = true := by
  unfold rawStp
  dsimp only
  refine onFormat_settles fun _ => onBytes_settles fun _ => ?_
  exact ite_settles rfl rfl
theorem atomicOp_settles (i : Instr) (d a b : Reg) (w : Bool) (o : Order) (sc : Scope) (m : Mode) (s : State) :
    (atomicOp i d a b w o sc m s).settles = true :=
  ite_settles rfl (ite_settles rfl (onBytes_settles fun _ => ite_settles rfl rfl))
theorem rawClfe_settles (a b : Reg) (m : Mode) (s : State) : (rawClfe a b m s).settles = true :=
  ite_settles rfl (ite_settles rfl (ite_settles rfl (ite_settles rfl (onBytes_settles fun _ =>
    ite_settles rfl (ite_settles rfl (ite_settles rfl rfl))))))
theorem sendTo_settles (d : Reg) (kind : Nat) (v : Word) (l : List Nat) (s : State) : (sendTo d kind v l s).settles = true :=
  ite_settles rfl (ite_settles rfl rfl)
theorem copyOp_settles (i : Instr) (a : Option Reg) (b c : Reg) (s : State) : (copyOp i a b c s).settles = true :=
  onBytes_settles fun _ => ite_settles rfl (ite_settles rfl (ite_settles rfl (ite_settles rfl rfl)))
theorem cbRead_settles {s : State} {a : Reg} {k : Nat → List Nat → State → Eff} (h : ∀ w l t, (k w l t).settles = true) :
    (cbRead s a k).settles = true :=
  onBytes_settles fun _ => ite_settles rfl (ite_settles rfl (ite_settles (h ..) (h ..)))
theorem rawCbtest_settles (d a : Reg) (s : State) : (rawCbtest d a s).settles = true := by
  refine cbRead_settles fun _ _ _ => ?_
  rfl
theorem ofSelWrite_settles (w : SelWrite) : (ofSelWrite w).settles = true := by
  cases w <;> rfl
theorem rawGets_settles (d : Reg) (sel : BitVec 12) (s : State) : (rawGets d sel s).settles = true :=
  ite_settles rfl (by split <;> rfl)
theorem rawSwaps_settles (d : Reg) (sel : BitVec 12) (a : Reg) (s : State) : (rawSwaps d sel a s).settles = true :=
  ite_settles rfl (by split <;> rfl)
theorem rawSpill_settles (cls : RClass) (d c : Reg) (s : State) : (rawSpill cls d c s).settles = true := by
  cases cls with
  | x => exact ite_settles rfl rfl
  | v => exact ite_settles rfl (ite_settles rfl (ite_settles rfl rfl))
theorem rawFill_settles (cls : RClass) (d c : Reg) (s : State) : (rawFill cls d c s).settles = true := by
  unfold rawFill
  dsimp only
  split
  · rfl
  · refine ite_settles rfl ?_
    cases cls with
    | x => rfl
    | v => exact pushEntry_settles ..
theorem rawMkrcap_settles (d a : Reg) (cls : RClass) (wm : Bool) (s : State) : (rawMkrcap d a cls wm s).settles = true := by
  cases cls <;> exact ite_settles rfl rfl
theorem rawPfch_settles (b : Reg) (m : Mode) (off : BitVec 11) (s : State) : (rawPfch b m off s).settles = true := by
  cases m with
  | G => unfold rawPfch; dsimp only; split <;> rfl
  | L | C | N => rfl
theorem arriveAt_settles (lv : BLevel) (k : BitVec 4) {s : State} {go : State → Eff} (h : ∀ t, (go t).settles = true) :
    (arriveAt lv k s go).settles = true :=
  ite_settles rfl (ite_settles rfl (ite_settles rfl (h _)))
theorem rawPost_settles (d a : Reg) (s : State) : (rawPost d a s).settles = true := by
  unfold rawPost
  dsimp only
  split
  · rfl
  · rfl
  · exact sendTo_settles ..
theorem rawNext_settles (d : Reg) (s : State) : (rawNext d s).settles = true := by
  unfold rawNext; dsimp only; split <;> rfl
theorem loopOver_settles (a : Reg) (len step : BitVec 4) (rep : Bool) (s : State) : (loopOver a len step rep s).settles = true := by
  unfold loopOver
  dsimp only
  split
  · rfl
  · rfl
  · refine ite_settles rfl (ite_settles rfl ?_)
    split
    · rfl
    · exact ite_settles rfl (ite_settles rfl (ite_settles rfl rfl))
theorem rawFence_settles (k : FenceKind) (sc : Scope) (s : State) : (rawFence k sc s).settles = true :=
  ite_settles rfl (ite_settles rfl (by cases k <;> rfl))
theorem rawPromote_settles (a : Reg) (sc : Scope) (m : Mode) (s : State) : (rawPromote a sc m s).settles = true :=
  onBytes_settles fun l => by
    cases l with
    | nil => rfl
    | cons x l => dsimp only; split <;> rfl

/-- Every other word completes, faults precisely, waits or misses a translation: none of its tries changes the state without completing. -/
theorem rawOf_settles (s : State) {i : Instr} (h : sleeps i = false) : (rawOf i s).settles = true := by
  cases i with
  | evwait | lds | lde | bar | barw | recv | take | xphase | cbwait => cases h
  | beq | bne | blt | bge | bltn | bgen | beqi | bnei | bz | bnz => exact branchIf_settles ..
  | vadd | vsub | vmul | vmulh | vand | vor | vxor | vshl | vshr | vsra | vmin | vmax | vcmp | vsel | vbcst | vperm | vslide | viota
  | vfadd | vfsub | vfmul | vfma | vfms | vfmin | vfmax | vfabs | vfcmp | vfcvt | vfrnd | vaddx | vsubx | vmulx | dwadd | dwsub | dwmul
  | dwnorm | vsum | vsumc | vredmax | vscale | vsfu | vld | vlds | vldg | vst | vsts | vstg | vldb | vldsy => exact handOver_settles ..
  | vext => exact handExt_settles ..
  | rbset | rbget => exact pushEntry_settles ..
  | mzero | mma | mmas | msemi | mprog | mrun | mstz | mldz | ringdef => exact pushChurn_settles ..
  | ld | lda => exact loadOp_settles ..
  | st | stf | stl => exact storeOp_settles ..
  | aadd | aand | aor | axor | amin | amax | aswp | acas => exact atomicOp_settles ..
  | ldp => exact rawLdp_settles ..
  | stp => exact rawStp_settles ..
  | accf | cellrd => exact onBytes_settles fun _ => ite_settles rfl rfl
  | cbinit => exact onBytes_settles fun _ => ite_settles rfl (ite_settles rfl rfl)
  | msgmov => exact onBytes_settles fun _ => ite_settles rfl (ite_settles rfl rfl)
  | dtload => exact ite_settles rfl (onBytes_settles fun _ => ite_settles rfl (ite_settles rfl rfl))
  | cpy | cpys | cpyg | cpysc => exact copyOp_settles ..
  | vseq | vrep => exact loopOver_settles ..
  | clfe => exact rawClfe_settles ..
  | fence => exact rawFence_settles ..
  | promote => exact rawPromote_settles ..
  | cbtest => exact rawCbtest_settles ..
  | send | mcast => exact ite_settles rfl (sendTo_settles ..)
  | bset | xend => exact ite_settles rfl (ite_settles rfl (ite_settles rfl rfl))
  | yield | rsend | vfree => exact ite_settles rfl (ite_settles rfl rfl)
  | uevret | evmask | ptag | rpeek | rack | vclaim | msync | mstat => exact ite_settles rfl rfl
  | xmit | xsel => exact ite_settles rfl (ite_settles rfl (pushEntry_settles ..))
  | rsendv => exact ite_settles rfl (ite_settles rfl (ite_settles rfl (pushEntry_settles ..)))
  | mmovzv => exact ite_settles rfl (pushEntry_settles ..)
  | gets => exact rawGets_settles ..
  | sets => exact ofSelWrite_settles _
  | swaps => exact rawSwaps_settles ..
  | spill => exact rawSpill_settles ..
  | fill => exact rawFill_settles ..
  | mkrcap => exact rawMkrcap_settles ..
  | pfch => exact rawPfch_settles ..
  | bari => exact arriveAt_settles _ _ fun _ => rfl
  | post => exact rawPost_settles ..
  | next => exact rawNext_settles ..
  | _ => rfl

/-! ## Rails whose voltage stands -/

/-- Every rail has the voltage that it had, and the clocks of a raise have stepped up where they had. -/
def KeepsVolts (s u : State) : Prop := ∀ q, (u.rail q).volt = (s.rail q).volt ∧ (u.rail q).stepUp = (s.rail q).stepUp
theorem KeepsVolts.refl (s : State) : KeepsVolts s s := fun _ => ⟨rfl, rfl⟩
theorem KeepsVolts.trans {s t u : State} (h : KeepsVolts s t) (k : KeepsVolts t u) : KeepsVolts s u := fun q =>
  ⟨(k q).1.trans (h q).1, (k q).2.trans (h q).2⟩
theorem KeepsVolts.of_rails {s u : State} (h : u.rails = s.rails) : KeepsVolts s u := fun _ => by
  simp only [State.rail, h, and_self]

/-- A fold keeps a property that each of its steps keeps. -/
theorem foldl_preserves {α : Type} {Q : State → Prop} {f : State → α → State} (h : ∀ s a, Q s → Q (f s a)) (l : List α) (s : State)
    (hs : Q s) : Q (l.foldl f s) :=
  List.foldlRecOn l f hs fun t ht a _ => h t a ht
theorem KeepsVolts.foldl {α : Type} {f : State → α → State} (h : ∀ s a, KeepsVolts s (f s a)) (l : List α) (s : State) :
    KeepsVolts s (l.foldl f s) :=
  foldl_preserves (fun t a ht => ht.trans (h t a)) l s (.refl s)

/-- What clocks, caps and faults change: `u` differs from `s` in its cores, its control complexes and the targets of its rails alone. -/
structure OnlyClocks (s u : State) : Prop where
  rest : u = { s with cores := u.cores, control := u.control, rails := u.rails }
  volts : KeepsVolts s u

theorem OnlyClocks.refl (s : State) : OnlyClocks s s := ⟨rfl, .refl s⟩
theorem OnlyClocks.trans {s t u : State} (h : OnlyClocks s t) (k : OnlyClocks t u) : OnlyClocks s u :=
  ⟨by rw [k.rest, h.rest], h.volts.trans k.volts⟩
theorem OnlyClocks.ite {s a b : State} {c : Prop} [Decidable c] (ha : OnlyClocks s a) (hb : OnlyClocks s b) :
    OnlyClocks s (if c then a else b) := by
  split <;> assumption
theorem OnlyClocks.foldl {α : Type} {f : State → α → State} (h : ∀ s a, OnlyClocks s (f s a)) (l : List α) (s : State) :
    OnlyClocks s (l.foldl f s) :=
  foldl_preserves (fun t a ht => ht.trans (h t a)) l s (.refl s)
theorem OnlyClocks.sameMemory {s u : State} (h : OnlyClocks s u) : SameMemory s u := by
  rw [h.rest]; exact ⟨fun _ => rfl, fun _ => rfl⟩
theorem OnlyClocks.octet {s u : State} (h : OnlyClocks s u) (o : Nat) : u.octet o = s.octet o := by
  rw [h.rest]; rfl
theorem OnlyClocks.lastTick {s u : State} (h : OnlyClocks s u) : u.lastTick = s.lastTick := by
  rw [h.rest]

theorem setCore_onlyClocks (s : State) (c : Nat) (k : Core) : OnlyClocks s (s.setCore c k) := ⟨rfl, .of_rails rfl⟩
theorem onCurve_onlyClocks (s : State) (c : Nat) (f : Curve → Curve) : OnlyClocks s (s.onCurve c f) := setCore_onlyClocks ..
theorem setStrand_onlyClocks (s : State) (c t : Nat) (st : Strand) : OnlyClocks s (s.setStrand c t st) := setCore_onlyClocks ..
theorem clockAt_onlyClocks (s : State) (c v w : Nat) : OnlyClocks s (s.clockAt c v w) := onCurve_onlyClocks ..
theorem matchCap_onlyClocks (s : State) (c : Nat) : OnlyClocks s (s.matchCap c) := by
  obtain h | ⟨f, h⟩ := matchCap_cases s c <;> rw [h]
  · exact .refl s
  · exact onCurve_onlyClocks ..
theorem rematch_onlyClocks (s : State) (c : Nat) : OnlyClocks s (s.rematch c) := .foldl matchCap_onlyClocks ..
/-- What lane caps can do to a core: nothing, or a new lane cap. -/
theorem capLanes_cases (s : State) (c : Nat) :
    s.capLanes c = s ∨ ∃ m, s.capLanes c = s.onCurve c fun k => { k with lnCap := m } := by
  unfold State.capLanes
  dsimp only
  split
  · exact .inl rfl
  · exact .inr ⟨_, rfl⟩
theorem capLanes_onlyClocks (s : State) (c : Nat) : OnlyClocks s (s.capLanes c) := by
  obtain h | ⟨m, h⟩ := capLanes_cases s c <;> rw [h]
  · exact .refl s
  · exact onCurve_onlyClocks ..

theorem rail_setRail (s : State) (q p : Nat) (r : Rail) : (s.setRail q r).rail p = if p = q then r else s.rail p := Tab.get_put ..
@[simp] theorem rail_setRail_self (s : State) (q : Nat) (r : Rail) : (s.setRail q r).rail q = r := Tab.get_put_self ..
/-- A new target leaves a rail's voltage and step-up alone. -/
theorem setTarget_onlyClocks (s : State) (q : Nat) (v : Option Nat) : OnlyClocks s (s.setRail q { s.rail q with target := v }) := by
  refine ⟨rfl, fun p => ?_⟩
  rw [rail_setRail]
  split
  · next h => subst h; exact ⟨rfl, rfl⟩
  · exact ⟨rfl, rfl⟩
theorem startRail_onlyClocks (s : State) (q v : Nat) : OnlyClocks s (s.startRail q v) := by
  unfold State.startRail
  dsimp only
  refine ((setTarget_onlyClocks s q (some v)).trans (.foldl (fun t c => ?_) _ _)).trans (rematch_onlyClocks ..)
  exact .ite (clockAt_onlyClocks ..) (.ite (clockAt_onlyClocks ..) (.refl t))
theorem evalQuad_onlyClocks (s : State) (q : Nat) : OnlyClocks s (s.evalQuad q) :=
  .ite (.refl s) (startRail_onlyClocks ..)
theorem leaveConvoy_onlyClocks (s : State) (c t : Nat) (pc : VAddr) : OnlyClocks s (s.leaveConvoy c t pc) := by
  refine .foldl (fun s k => ?_) _ _
  exact .ite (setStrand_onlyClocks ..) (.refl s)
/-- Taking a fault changes cores, and at supervisor privilege the control complexes' reports (R251, R252). -/
theorem takeFault_onlyClocks (s : State) (c t : Nat) (f : FaultInfo) (w d v m : Bool) (e : VAddr) :
    OnlyClocks s (s.takeFault c t f w d v m e) := by
  unfold State.takeFault
  dsimp only
  split
  · exact ⟨rfl, .of_rails rfl⟩
  · have h (k : Core) (st : Strand) : OnlyClocks s (((s.leaveConvoy c t (s.strand c t).pc).setCore c k).setStrand c t st) :=
      ((leaveConvoy_onlyClocks ..).trans (setCore_onlyClocks ..)).trans (setStrand_onlyClocks ..)
    exact .ite ((h ..).trans (rematch_onlyClocks ..)) (h ..)
theorem losePhase_onlyClocks (s : State) (c : Nat) : OnlyClocks s (s.losePhase c) :=
  .ite (takeFault_onlyClocks ..) (.refl s)
theorem phaseMargin_onlyClocks (s : State) (c : Nat) : OnlyClocks s (s.phaseMargin c) :=
  .ite (.refl s) (.ite (losePhase_onlyClocks ..) (evalQuad_onlyClocks ..))

/-! ## A sleeper's new try keeps the rails -/

/-- The state that stands without the word's completion has the voltages of `s`. -/
def Eff.Keeps (s : State) : Eff → Prop
  | .sleep _ _ u | .trapIn u _ => KeepsVolts s u
  | _ => True
def BEff.Keeps (s : State) : BEff → Prop
  | .sleep _ _ u | .trapIn u _ => KeepsVolts s u
  | _ => True
theorem Eff.keeps_of_settles {s : State} {e : Eff} (h : e.settles = true) : e.Keeps s := by
  cases e with
  | sleep | trapIn => cases h
  | done | trap | wait | miss => trivial
theorem Eff.lone_keeps {s : State} {e : Eff} (h : e.Keeps s) : e.lone.Keeps s := by
  cases e with
  | sleep | trapIn => exact h
  | done | trap | wait | miss => trivial
theorem ite_keeps {s : State} {c : Prop} [Decidable c] {a b : Eff} (ha : a.Keeps s) (hb : b.Keeps s) : (if c then a else b).Keeps s := by
  split <;> assumption
theorem onBytes_keeps {s : State} {r : Chk} {k : List Nat → Eff} (h : ∀ l, (k l).Keeps s) : (onBytes r k).Keeps s := by
  cases r with
  | ok l => exact h l
  | fault | miss => trivial
theorem cbRead_keeps {s : State} {a : Reg} {k : Nat → List Nat → State → Eff} (h : ∀ w l t, (k w l t).Keeps s) :
    (cbRead s a k).Keeps s := by
  unfold cbRead
  dsimp only
  exact onBytes_keeps fun _ => ite_keeps trivial (ite_keeps trivial (ite_keeps (h ..) (h ..)))

@[simp] theorem charge_rails (s : State) (c e : Nat) (cls : Option Nat) : (s.charge c e cls).rails = s.rails := by
  unfold State.charge State.spend; split <;> rfl
@[simp] theorem moved_rails (s : State) (c : Nat) (l : List Nat) : (s.moved c l).rails = s.rails := charge_rails ..

theorem rawEvwait_keeps (d : Reg) (s : State) : (rawEvwait d s).Keeps s := by
  unfold rawEvwait
  split
  · trivial
  · exact .refl s
theorem waitLoad_keeps (d b : Reg) (m : Mode) (off : BitVec 11) (e : Bool) (s : State) : (waitLoad d b m off e s).Keeps s := by
  unfold waitLoad onFormat
  dsimp only
  refine ite_keeps (onBytes_keeps fun l => ite_keeps trivial (ite_keeps ?_ (.refl s))) trivial
  split <;> trivial
theorem rawBarw_keeps (k : BitVec 4) (lv : BLevel) (s : State) : (rawBarw k lv s).Keeps s := by
  unfold rawBarw
  dsimp only
  refine ite_keeps trivial (ite_keeps trivial ?_)
  split
  · exact ite_keeps trivial (ite_keeps trivial (.refl s))
  · trivial
theorem rawBar_keeps (k : BitVec 4) (lv : BLevel) (s : State) : (rawBar k lv s).Keeps s :=
  ite_keeps (rawBarw_keeps k lv s) (ite_keeps trivial (ite_keeps trivial (ite_keeps trivial (.of_rails rfl))))
theorem rawRecv_keeps (d : Reg) (s : State) : (rawRecv d s).Keeps s := ite_keeps (.refl s) trivial
theorem rawTake_keeps (d : Reg) (wait : Bool) (s : State) : (rawTake d wait s).Keeps s := by
  unfold rawTake
  dsimp only
  refine ite_keeps trivial ?_
  split
  · trivial
  · exact ite_keeps (.refl s) trivial
theorem rawCbwait_keeps (d a : Reg) (s : State) : (rawCbwait d a s).Keeps s := by
  refine cbRead_keeps fun w l t => ?_
  exact ite_keeps trivial (.of_rails (moved_rails ..))
/-- XPHASE sets the target of its quad's rail at most (R185). -/
theorem raiseFloor_onlyClocks (s : State) : OnlyClocks s s.raiseFloor := (setCore_onlyClocks ..).trans (evalQuad_onlyClocks ..)
theorem enterPhase_keeps (k : BitVec 4) (s : State) : (enterPhase k s).Keeps s := by
  have h := (raiseFloor_onlyClocks s).volts
  unfold enterPhase
  dsimp only
  refine ite_keeps trivial ?_
  split
  · trivial
  · next key _ =>
    have ha : KeepsVolts s (s.raiseFloor.arrive key) := h.trans (.of_rails rfl)
    exact ite_keeps trivial (ite_keeps trivial (ite_keeps trivial (ite_keeps h (ite_keeps ha ha))))

theorem rawOf_keeps (i : Instr) (s : State) : (rawOf i s).Keeps s := by
  by_cases h : sleeps i = false
  · exact Eff.keeps_of_settles (rawOf_settles s h)
  · cases i with
    | evwait => exact rawEvwait_keeps ..
    | lds | lde => exact waitLoad_keeps ..
    | bar => exact rawBar_keeps ..
    | barw => exact rawBarw_keeps ..
    | recv => exact rawRecv_keeps ..
    | take => exact rawTake_keeps ..
    | xphase => exact enterPhase_keeps ..
    | cbwait => exact rawCbwait_keeps ..
    | _ => exact absurd rfl h
theorem pairedRaw_keeps (i : Instr) (s : State) : (pairedRaw i s).Keeps s := by
  unfold pairedRaw
  split
  · exact ite_keeps trivial trivial
  · exact rawOf_keeps ..
theorem pairEff_keeps (i j : Instr) (s : State) : (pairEff i j s).Keeps s := by
  have h := pairedRaw_keeps i s
  unfold pairEff
  cases hi : pairedRaw i s with
  | done sc =>
    dsimp only
    split
    · split <;> trivial
    all_goals trivial
  | sleep k l sc =>
    rw [hi] at h
    dsimp only
    split
    · exact h
    all_goals trivial
  | trapIn sc f => rw [hi] at h; exact h
  | trap | wait | miss => trivial
/-- A sleeping bundle that sleeps on, or faults after an arrival, has changed no rail's voltage (R185, R270). -/
theorem sleepEff_keeps (z : Sleep) (s : State) : (sleepEff z s).Keeps s := by
  unfold sleepEff
  split
  · split
    · trivial
    · exact Eff.lone_keeps (rawOf_keeps ..)
  · exact pairEff_keeps ..

theorem railWake_keepsVolts (s : State) (c : Nat) : KeepsVolts s (s.railWake c) := by
  unfold State.railWake
  dsimp only
  split
  · exact .refl s
  · next z _ =>
    split
    · exact .refl s
    · have h := sleepEff_keeps z
        ((s.at_ c (s.core c).exch.strand).setMe { s.strand c (s.core c).exch.strand with asleep := none })
      split
      · next e => rw [e] at h; exact h
      · next e => rw [e] at h; exact KeepsVolts.trans h (takeFault_onlyClocks ..).volts
      · exact KeepsVolts.trans (.of_rails rfl) (takeFault_onlyClocks ..).volts
      · exact .refl s
/-- Clocks, caps, phases and waiting XPHASEs follow a rail; no rail's voltage does (R13). -/
theorem clocksStand_keepsVolts (s : State) (q : Nat) : KeepsVolts s (s.clocksStand q) := by
  unfold State.clocksStand
  dsimp only
  have hcaps := OnlyClocks.foldl capLanes_onlyClocks (octetCores (q / 2)) s
  have hmatch := (hcaps.trans (rematch_onlyClocks _ (8 * (q / 2)))).trans (rematch_onlyClocks _ (8 * (q / 2) + 4))
  have hphase := (hmatch.trans (OnlyClocks.foldl phaseMargin_onlyClocks (quadCores q) _)).volts
  have hwake := hphase.trans (KeepsVolts.foldl railWake_keepsVolts (quadCores q) _)
  exact hwake.trans (evalQuad_onlyClocks ..).volts

/-! ## What clocks, caps and faults leave of a curve -/

@[simp] theorem setPart_curve (s : State) (c d : Nat) (p : Part) : ((s.setPart c p).core d).curve = (s.core d).curve := by
  unfold State.setPart
  rw [State.core_setCore]
  split
  · next h => subst h; rfl
  · rfl
@[simp] theorem setPart_exch (s : State) (c d : Nat) (p : Part) : ((s.setPart c p).core d).exch = (s.core d).exch := by
  unfold State.setPart
  rw [State.core_setCore]
  split
  · next h => subst h; rfl
  · rfl
@[simp] theorem setStrand_curve (s : State) (c t d : Nat) (st : Strand) : ((s.setStrand c t st).core d).curve = (s.core d).curve :=
  setPart_curve ..
@[simp] theorem leaveConvoy_curve (s : State) (c t : Nat) (pc : VAddr) (d : Nat) :
    ((s.leaveConvoy c t pc).core d).curve = (s.core d).curve :=
  foldl_keeps (fun s => (s.core d).curve) _ (fun s k => by dsimp only; split <;> simp) ..
theorem onCurve_core_self (s : State) (c : Nat) (f : Curve → Curve) :
    (s.onCurve c f).core c = { s.core c with curve := f (s.core c).curve } := State.core_setCore_self ..
theorem onCurve_core_ne (s : State) {c d : Nat} (h : d ≠ c) (f : Curve → Curve) : (s.onCurve c f).core d = s.core d :=
  State.core_setCore_ne s h _
@[simp] theorem onCurve_exch (s : State) (c d : Nat) (f : Curve → Curve) : ((s.onCurve c f).core d).exch = (s.core d).exch := by
  by_cases h : d = c
  · subst h; rw [onCurve_core_self]
  · rw [onCurve_core_ne s h]
@[simp] theorem onCurve_rate (s : State) (c d p : Nat) (f : Curve → Curve) : ((s.onCurve c f).core d).rate p = (s.core d).rate p := by
  by_cases h : d = c
  · subst h; rw [onCurve_core_self]; rfl
  · rw [onCurve_core_ne s h]

/-- What matching a core's cap can do: nothing, or a new matching cap of that core. -/
theorem matchCap_cap (s : State) (c : Nat) : s.matchCap c = s ∨ ∃ m, s.matchCap c = s.onCurve c fun k => { k with mCap := m } :=
  iteInduction (motive := fun u => u = s ∨ ∃ m, u = s.onCurve c fun k => { k with mCap := m }) (fun _ => .inl rfl) fun _ => .inr ⟨_, rfl⟩

section
variable {P : Curve → Prop}

/-- What holds of every curve that `f` makes of one of which it holds is left by `onCurve`. -/
theorem onCurve_curve {f : Curve → Curve} (h : ∀ k, P k → P (f k)) (s : State) (c d : Nat) (hp : P (s.core d).curve) :
    P ((s.onCurve c f).core d).curve := by
  by_cases e : d = c
  · subst e; rw [onCurve_core_self]; exact h _ hp
  · rwa [onCurve_core_ne s e]
theorem capLanes_curve (h : ∀ k m, P k → P { k with lnCap := m }) (s : State) (c d : Nat) (hp : P (s.core d).curve) :
    P ((s.capLanes c).core d).curve := by
  obtain e | ⟨m, e⟩ := capLanes_cases s c <;> rw [e]
  · exact hp
  · exact onCurve_curve (fun k => h k m) s c d hp
theorem clockAt_curve (h : ∀ k f w, P k → P { k.releak w with cfreq := f, due := none }) (s : State) (c v w d : Nat)
    (hp : P (s.core d).curve) : P ((s.clockAt c v w).core d).curve :=
  onCurve_curve (fun k => h k (curvef k.cvf v) w) s c d hp

variable (hm : ∀ k m, P k → P { k with mCap := m })
include hm

theorem matchCap_curve (s : State) (c d : Nat) (hp : P (s.core d).curve) : P ((s.matchCap c).core d).curve := by
  obtain e | ⟨m, e⟩ := matchCap_cap s c <;> rw [e]
  · exact hp
  · exact onCurve_curve (fun k => hm k m) s c d hp
theorem rematch_curve (s : State) (c d : Nat) (hp : P (s.core d).curve) : P ((s.rematch c).core d).curve :=
  foldl_preserves (Q := fun t => P (t.core d).curve) (fun t a => matchCap_curve hm t a d) _ _ hp
theorem evalQuad_curve (hc : ∀ k f w, P k → P { k.releak w with cfreq := f, due := none }) (s : State) (q d : Nat)
    (hp : P (s.core d).curve) : P ((s.evalQuad q).core d).curve := by
  unfold State.evalQuad State.startRail
  dsimp only
  split
  · exact hp
  · refine rematch_curve hm _ _ _ (foldl_preserves (Q := fun t => P (t.core d).curve) (fun t a ht => ?_) _ _ hp)
    split
    · exact clockAt_curve hc _ _ _ _ _ ht
    · split
      · exact clockAt_curve hc _ _ _ _ _ ht
      · exact ht
/-- A fault changes a matching cap, or ends a phase (R251, R256). -/
theorem losePhase_curve (hf : ∀ k, P k → P { k with floor := false }) (s : State) (c d : Nat) (hp : P (s.core d).curve) :
    P ((s.losePhase c).core d).curve := by
  have hphase (s : State) (t : Nat) (h : P (s.core d).curve) : P ((s.setCore c ((s.core c).faultPhase t)).core d).curve := by
    by_cases e : d = c
    · subst e
      rw [State.core_setCore_self]
      unfold Core.faultPhase
      split
      · exact hf _ h
      · exact h
    · rwa [State.core_setCore_ne s e]
  unfold State.losePhase State.takeFault
  dsimp only
  split
  · split
    · exact (setPart_curve s c d _).symm ▸ hp
    · split
      · refine rematch_curve hm _ _ _ ?_
        rw [setStrand_curve]
        exact hphase _ _ (by rwa [leaveConvoy_curve])
      · rw [setStrand_curve]
        exact hphase _ _ (by rwa [leaveConvoy_curve])
  · exact hp

end

/-! ## Re-measurements and junction samples -/

theorem exec_remeasurement (c : CoreId) (cvf cvl : BitVec 128) (s : State) :
    exec (.remeasurement c cvf cvl) s = .next ((s.remeasure c.val cvf cvl).getD s) := rfl
theorem exec_curveUpdateTimeout (c : CoreId) (s : State) : exec (.curveUpdateTimeout c) s = .next ((s.curveDue c.val).getD s) :=
  rfl
theorem exec_laneRemeasurement (o : Fin 1024) (j : Fin 128) (pts : BitVec 128) (s : State) :
    exec (.laneRemeasurement o j pts) s = .next ((s.remeasureLane o.val j.val pts).getD s) := rfl
theorem exec_laneCapApply (c : CoreId) (s : State) : exec (.laneCapApply c) s =
    .next ((if (s.core c.val).curve.laneDue.isSome then
      some (((s.capLanes c.val).onCurve c.val fun k => { k with laneDue := none }).rematch c.val) else none).getD s) := rfl
theorem exec_junctionSample (c : CoreId) (tj : Int) (s : State) : exec (.junctionSample c tj) s = .next (s.sample c.val tj) :=
  rfl
theorem exec_railSettle (q : Fin 2048) (s : State) : exec (.railSettle q) s = .next ((s.settleRail q.val).getD s) := rfl
theorem exec_powerControlTick (s : State) : exec .powerControlTick s = .next (s.powerTick.getD s) := rfl
theorem exec_budgetTick (bw st est : Nat) (p : Fin 4) (s : State) :
    exec (.budgetTick bw st est p) s = .next ((s.budgetTick bw st est p.val).getD s) := rfl

/-- Without an active phase no margin is lost (R185). -/
theorem phaseMargin_of_inactive {s : State} {c : Nat} (h : (s.core c).exch.active = false) : s.phaseMargin c = s := by
  unfold State.phaseMargin; simp [h]

/-- A lowering takes effect in the points and CGEN at once, and is due within 50 µs, no later than one that is due already (R15). -/
theorem remeasure_lowers {s : State} {c : Nat} {cvf cvl : BitVec 128} {f l : List Nat} (hf : pointsOf cvf = some f)
    (hl : pointsOf cvl = some l) (hlow : someBelow f (s.core c).curve.cvf = true) (hex : (s.core c).exch.active = false) :
    ∃ u, s.remeasure c cvf cvl = some u ∧ (u.core c).curve.cvf = f ∧ (u.core c).curve.cvl = l
      ∧ (u.core c).curve.cgen = (s.core c).curve.cgen + 1
      ∧ (u.core c).curve.due = some (min (s.time + 100000) ((s.core c).curve.due.getD (s.time + 100000))) := by
  unfold State.remeasure
  simp only [hf, hl, hlow, Bool.true_or, if_true]
  refine ⟨_, rfl, ?_⟩
  split
  · rw [phaseMargin_of_inactive (by simpa using hex), setPart_curve, onCurve_core_self]
    exact ⟨rfl, rfl, rfl, rfl⟩
  · rw [phaseMargin_of_inactive (by simpa using hex), onCurve_core_self]
    exact ⟨rfl, rfl, rfl, rfl⟩

/-- The curve's points are `f`, and no lowering of them is due. -/
def Curve.settledAt (f : List Nat) (k : Curve) : Prop := k.due = none ∧ k.cvf = f
/-- A lowering that is due steps the clock down; points and rails stand (R15). -/
theorem curveDue_due {s : State} {c d : Nat} (hd : (s.core c).curve.due = some d) (ht : d ≤ s.time) :
    ∃ u, s.curveDue c = some u ∧ (u.core c).curve.settledAt (s.core c).curve.cvf ∧ KeepsVolts s u := by
  unfold State.curveDue
  simp only [hd, if_neg (Nat.not_lt.2 ht)]
  refine ⟨_, rfl, ?_, ?_⟩
  · have hclock (v w : Nat) : ((s.clockAt c v w).core c).curve.settledAt (s.core c).curve.cvf := by
      rw [State.clockAt, onCurve_core_self]; exact ⟨rfl, rfl⟩
    have hcaps := rematch_curve (fun _ _ h => h) _ c c (capLanes_curve (fun _ _ h => h) _ c c
      (hclock (s.rail (quadOf c)).clockVolt (s.rail (quadOf c)).volt))
    exact evalQuad_curve (fun _ _ h => h) (fun _ _ _ h => ⟨rfl, h.2⟩) _ (quadOf c) c hcaps
  · have hcaps := (clockAt_onlyClocks s c (s.rail (quadOf c)).clockVolt (s.rail (quadOf c)).volt).trans (capLanes_onlyClocks _ c)
    exact ((hcaps.trans (rematch_onlyClocks _ c)).trans (evalQuad_onlyClocks _ (quadOf c))).volts
theorem curveDue_early {s : State} {c d : Nat} (hd : (s.core c).curve.due = some d) (ht : s.time < d) : s.curveDue c = none := by
  unfold State.curveDue; simp only [hd, if_pos ht]

theorem octet_setOctet_self (s : State) (o : Nat) (x : Octet) : (s.setOctet o x).octet o = x := Tab.get_put_self ..
/-- A lane takes its points; its holder keeps it, and clocks, caps and faults alone follow (R110, R186). -/
theorem remeasureLane_onlyClocks {s : State} {o j : Nat} {pts : BitVec 128} {l : List Nat} (hl : pointsOf pts = some l) :
    ∃ u, s.remeasureLane o j pts = some u ∧ OnlyClocks
      (s.setOctet o { s.octet o with lanes := Tab.put j { (s.octet o).lane j with pts := l } (s.octet o).lanes }) u := by
  unfold State.remeasureLane
  simp only [hl]
  split
  · exact ⟨_, rfl, .refl _⟩
  · split
    · exact ⟨_, rfl, .refl _⟩
    · refine ⟨_, rfl, ?_⟩
      refine .ite (.trans ?_ (losePhase_onlyClocks ..)) ?_ <;>
        exact .ite ((setStrand_onlyClocks ..).trans (onCurve_onlyClocks ..)) (.refl _)
theorem remeasureLane_points {s : State} {o j : Nat} {pts : BitVec 128} {l : List Nat} (hl : pointsOf pts = some l) :
    ∃ u, s.remeasureLane o j pts = some u ∧ ((u.octet o).lane j).pts = l
      ∧ ((u.octet o).lane j).owner = ((s.octet o).lane j).owner ∧ SameMemory s u := by
  obtain ⟨u, hu, hc⟩ := remeasureLane_onlyClocks (s := s) (o := o) (j := j) hl
  have hlane : (u.octet o).lane j = { (s.octet o).lane j with pts := l } := by
    rw [hc.octet, octet_setOctet_self]; exact Tab.get_put_self ..
  exact ⟨u, hu, by rw [hlane], by rw [hlane], hc.sameMemory⟩

/-- A curve at junction temperature `tj`: it heats past 105 °C, and does not below 100 °C (R295). -/
def Curve.sampledAt (tj : Int) (k : Curve) : Prop := k.tj = tj ∧ (105 < tj → k.heating = true) ∧ (tj < 100 → k.heating = false)
theorem sample_curve (s : State) (c : Nat) (tj : Int) : ((s.sample c tj).core c).curve.sampledAt tj := by
  have h (k : Curve) (v : Nat) : Curve.sampledAt tj
      { (({ k with tj := tj } : Curve).releak v) with heating := decide (105 < tj) || (k.heating && decide (100 ≤ tj)) } := by
    refine ⟨rfl, fun ht => by simp [ht], fun ht => ?_⟩
    have h1 : ¬105 < tj := by omega
    have h2 : ¬100 ≤ tj := by omega
    simp [h1, h2]
  unfold State.sample
  dsimp only
  split
  · refine losePhase_curve (fun _ _ hp => hp) (fun _ hp => hp) _ c c ?_
    rw [onCurve_core_self]
    exact h ..
  · rw [onCurve_core_self]
    exact h ..

/-! ## Lane caps and rails -/

/-- A lane cap that is due is applied, below the clock that stands (R110). -/
theorem laneCapApply_due {s : State} {c : CoreId} {d : Nat} (hd : (s.core c.val).curve.laneDue = some d) :
    ∃ u, exec (.laneCapApply c) s = .next u ∧ (u.core c.val).curve.laneDue = none
      ∧ (u.core c.val).curve.cfreq = (s.core c.val).curve.cfreq := by
  rw [exec_laneCapApply]
  simp only [hd, Option.isSome_some, if_true, Option.getD_some]
  refine ⟨_, rfl, rematch_curve (P := fun k => k.laneDue = none) (fun _ _ h => h) _ c.val c.val ?_,
    rematch_curve (P := fun k => k.cfreq = (s.core c.val).curve.cfreq) (fun _ _ h => h) _ c.val c.val ?_⟩
  · rw [onCurve_core_self]
  · rw [onCurve_core_self]
    exact capLanes_curve (P := fun k => k.cfreq = (s.core c.val).curve.cfreq) (fun _ _ h => h) s c.val c.val rfl

/-- The same change to several cores' curves leaves every rail alone. -/
theorem foldl_onCurve_rail (f : Curve → Curve) (l : List Nat) (s : State) (q : Nat) :
    (l.foldl (fun t c => t.onCurve c f) s).rail q = s.rail q :=
  foldl_keeps (fun t => t.rail q) (fun t c => t.onCurve c f) (fun _ _ => rfl) ..
/-- In a raise the rail reaches its level first; the clocks have not stepped up yet (R13). -/
theorem settleRail_raise {s : State} {q v : Nat} (hs : (s.rail q).stepUp = false) (ht : (s.rail q).target = some v)
    (hv : (s.rail q).volt < v) : ∃ u, s.settleRail q = some u ∧ u.rail q = { volt := v, target := none, stepUp := true }
      ∧ ∀ d, (u.core d).curve.cfreq = (s.core d).curve.cfreq := by
  unfold State.settleRail
  simp only [hs, ht, hv, if_true, decide_true, Option.map_some, Bool.false_eq_true, if_false]
  refine ⟨_, rfl, ?_, fun d => ?_⟩
  · rw [foldl_onCurve_rail, rail_setRail_self]
  · refine foldl_preserves (Q := fun t => (t.core d).curve.cfreq = (s.core d).curve.cfreq) (fun t c => ?_) _ _ rfl
    exact onCurve_curve (f := fun k => k.releak v) (P := fun k => k.cfreq = (s.core d).curve.cfreq) (fun _ h => h) t c d
/-- A lowered rail settles at its target (R13). -/
theorem settleRail_lower {s : State} {q v : Nat} (hs : (s.rail q).stepUp = false) (ht : (s.rail q).target = some v)
    (hv : ¬(s.rail q).volt < v) : ∃ u, s.settleRail q = some u ∧ (u.rail q).volt = v := by
  unfold State.settleRail
  simp only [hs, ht, hv, if_false, decide_false, Option.map_some, Bool.false_eq_true]
  refine ⟨_, rfl, (clocksStand_keepsVolts _ q q).1.trans ?_⟩
  rw [foldl_onCurve_rail, rail_setRail_self]
/-- The clocks of a raise step up; the rail stands (R13). -/
theorem settleRail_stepUp {s : State} {q : Nat} (hs : (s.rail q).stepUp = true) :
    ∃ u, s.settleRail q = some u ∧ (u.rail q).volt = (s.rail q).volt ∧ (u.rail q).stepUp = false := by
  unfold State.settleRail
  simp only [hs, if_true]
  refine ⟨_, rfl, (clocksStand_keepsVolts _ q q).1.trans ?_, (clocksStand_keepsVolts _ q q).2.trans ?_⟩ <;>
    rw [foldl_onCurve_rail, rail_setRail_self]
theorem settleRail_idle {s : State} {q : Nat} (hs : (s.rail q).stepUp = false) (ht : (s.rail q).target = none) :
    s.settleRail q = none := by
  unfold State.settleRail; simp [hs, ht]

/-! ## Requests (R293) -/

theorem powerCore_onlyClocks (s : State) (c : Nat) : OnlyClocks s (s.powerCore c) := setCore_onlyClocks ..
/-- A core on which no member is asks for nothing. -/
theorem requestOf_unoccupied {s : State} {c : Nat} (h : (s.core c).part.occupied = false) : s.requestOf c = 0 := by
  unfold State.requestOf
  dsimp only
  split
  · simp [h]
  · rfl
theorem powerCore_part (s : State) (c d : Nat) : ((s.powerCore d).core c).part = (s.core c).part := by
  unfold State.powerCore
  dsimp only
  rw [State.core_setCore]
  split
  · next h => subst h; rfl
  · rfl
theorem powerCore_request {s : State} {c : Nat} (h : (s.core c).part.occupied = false) (d : Nat) (hd : d = c ∨ (s.core c).curve.request = 0) :
    ((s.powerCore d).core c).curve.request = 0 := by
  by_cases e : c = d
  · subst e
    unfold State.powerCore
    dsimp only
    rw [State.core_setCore_self]
    exact requestOf_unoccupied h
  · unfold State.powerCore
    dsimp only
    rw [State.core_setCore_ne s e]
    exact hd.resolve_left (Ne.symm e)
/-- The update of cores among which is an unoccupied one leaves it without a request. -/
theorem foldl_powerCore_request {c : Nat} (l : List Nat) : ∀ {s : State}, (s.core c).part.occupied = false →
    (c ∈ l ∨ (s.core c).curve.request = 0) → ((l.foldl State.powerCore s).core c).curve.request = 0 := by
  induction l with
  | nil => intro s _ h; exact h.resolve_left List.not_mem_nil
  | cons d l ih =>
    intro s hp h
    rw [List.foldl_cons]
    refine ih (by rwa [powerCore_part]) ?_
    by_cases hl : c ∈ l
    · exact .inl hl
    · refine .inr (powerCore_request hp d (h.imp_left fun hm => ?_))
      exact ((List.mem_cons.1 hm).resolve_right hl).symm
/-- At a multiple of 10 µs requests, caps and rails' targets are worked out anew, once (R293). -/
theorem powerTick_due {s : State} (ht : s.time % 20000 = 0) (hl : s.lastTick ≠ s.time) :
    ∃ u, s.powerTick = some u ∧ OnlyClocks { s with lastTick := s.time } u
      ∧ ∀ c, Tab.has c s.cores = true → (s.core c).part.occupied = false → (u.core c).curve.request = 0 := by
  unfold State.powerTick
  simp only [ht, hl, ne_eq, not_true_eq_false, decide_false, Bool.or_self, Bool.false_eq_true, if_false]
  refine ⟨_, rfl, ?_, fun c hc hp => ?_⟩
  · exact ((OnlyClocks.foldl powerCore_onlyClocks ..).trans (.foldl matchCap_onlyClocks ..)).trans (.foldl evalQuad_onlyClocks ..)
  · have hmem : c ∈ s.cores.map (·.1) := by
      obtain ⟨e, he, hk⟩ := List.any_eq_true.1 hc
      exact List.mem_map.2 ⟨e, he, by simpa using hk⟩
    have hpower := foldl_powerCore_request (s.cores.map (·.1)) (s := { s with lastTick := s.time }) hp (.inl hmem)
    have hmatch := foldl_preserves (fun t a => matchCap_curve (P := fun k => k.request = 0) (fun _ _ h => h) t a c) (s.cores.map (·.1)) _ hpower
    exact foldl_preserves (fun t a => evalQuad_curve (P := fun k => k.request = 0) (fun _ _ h => h) (fun _ _ _ h => h) t a c) _ _ hmatch
theorem powerTick_between {s : State} (ht : s.time % 20000 ≠ 0) : s.powerTick = none := by
  unfold State.powerTick; simp [ht]

/-! ## Budgets (R295, R296) -/

/-- Every core after the same change. -/
def State.mapCores (s : State) (f : Core → Core) : State := { s with cores := s.cores.map fun e => (e.1, f e.2) }
theorem mapCores_core {s : State} {c : Nat} (f : Core → Core) (h : Tab.has c s.cores = true) : (s.mapCores f).core c = f (s.core c) :=
  Tab.get_map f {} c s.cores h
theorem mapCores_has {s : State} {c : Nat} (f : Core → Core) (h : Tab.has c s.cores = true) : Tab.has c (s.mapCores f).cores = true := by
  simpa [Tab.has, State.mapCores, List.any_map, Function.comp_def] using h
theorem mapCores_onlyClocks (s : State) (f : Core → Core) : OnlyClocks s (s.mapCores f) := ⟨rfl, .of_rails rfl⟩

/-- Half the rate of permit class p, at least 1 (R296). -/
def Core.slowed (p : Nat) (k : Core) : Core := k.setRate p (Nat.max (k.rate p / 2) 1)
/-- Every rate full, and no request held down (R295, R296). -/
def Core.unthrottled (k : Core) : Core := { k.fullRate with curve := { k.curve with cut := 0 } }
theorem Core.rate_lt (k : Core) (p : Nat) : k.rate p < 256 := by
  unfold Core.rate; split <;> exact BitVec.isLt _
theorem Core.rate_setRate (k : Core) (p : Nat) {n : Nat} (h : n < 256) : (k.setRate p n).rate p = n := by
  have hn : (BitVec.ofNat 8 n).toNat = n := Nat.mod_eq_of_lt h
  match p with
  | 0 | 1 | 2 | _ + 3 => exact hn
theorem Core.rate_slowed (k : Core) (p : Nat) : (k.slowed p).rate p = max (k.rate p / 2) 1 := by
  have h : max (k.rate p / 2) 1 < 256 := by have := k.rate_lt p; omega
  exact k.rate_setRate p h
theorem Core.unthrottled_throttled (k : Core) : k.unthrottled.throttled = false := rfl

theorem onCurve_has {s : State} {c : Nat} (d : Nat) (f : Curve → Curve) (h : Tab.has c s.cores = true) :
    Tab.has c (s.onCurve d f).cores = true := Tab.has_put c d _ h
/-- Requests give way where some core's rate is down already (R295). -/
def State.giveWay (s : State) : State := if s.cores.any fun e => e.2.throttled then s.cutRequests else s
theorem giveWay_onlyClocks (s : State) : OnlyClocks s s.giveWay :=
  .ite (.foldl (fun t _ => .ite (onCurve_onlyClocks ..) (.refl t)) ..) (.refl s)
theorem giveWay_has {s : State} {c : Nat} (h : Tab.has c s.cores = true) : Tab.has c s.giveWay.cores = true := by
  have hcut : Tab.has c s.cutRequests.cores = true :=
    foldl_preserves (Q := fun t => Tab.has c t.cores = true)
      (fun _ d h => iteInduction (motive := fun u : State => Tab.has c u.cores = true) (fun _ => onCurve_has d _ h) fun _ => h) _ _ h
  unfold State.giveWay
  split
  · exact hcut
  · exact h
theorem giveWay_rate (s : State) (c p : Nat) : (s.giveWay.core c).rate p = (s.core c).rate p := by
  have hcut : (s.cutRequests.core c).rate p = (s.core c).rate p :=
    foldl_keeps (fun t => (t.core c).rate p) _ (fun t _ =>
      iteInduction (motive := fun u : State => (u.core c).rate p = (t.core c).rate p) (fun _ => onCurve_rate ..) fun _ => rfl) ..
  unfold State.giveWay
  split
  · exact hcut
  · rfl

/-- The budget of the memory rails, from what the period has measured and the event adds (R295). -/
def State.memBudget (s : State) (bw st : Nat) : Nat := 350 + (s.meter.plus bw st).share
/-- The period that begins at a budget instant: its budgets are set, its measures start again (R295). -/
def State.nextPeriod (s : State) (pm : Nat) : State :=
  { s.mapCores (fun k => { k with spent := {} }) with budgetMem := pm, budgetArray := 3000 - pm, lastBudget := s.time, meter := {} }
theorem nextPeriod_has {s : State} {c : Nat} (pm : Nat) (h : Tab.has c s.cores = true) : Tab.has c (s.nextPeriod pm).cores = true :=
  mapCores_has (fun k => { k with spent := {} }) h
theorem nextPeriod_rate {s : State} {c : Nat} (pm p : Nat) (h : Tab.has c s.cores = true) :
    ((s.nextPeriod pm).core c).rate p = (s.core c).rate p := by
  have hcore : (s.nextPeriod pm).core c = { s.core c with spent := {} } := mapCores_core (fun k => { k with spent := {} }) h
  rw [hcore]
  rfl
/-- What a budget instant does: beyond the array's budget the class that has spent the most gets half its rate, and within it every rate is full. -/
theorem budgetTick_eq {s : State} (bw st est k : Nat) (ht : s.time % 200000 = 0) (hl : s.lastBudget ≠ s.time) :
    s.budgetTick bw st est k = some (if 1000 * (3000 - s.memBudget bw st) < s.arrayPower + est
      then (s.nextPeriod (s.memBudget bw st)).giveWay.mapCores (Core.slowed (s.spent.top k))
      else (s.nextPeriod (s.memBudget bw st)).mapCores Core.unthrottled) := by
  have htick : ¬(decide (s.time % 200000 ≠ 0) || decide (s.lastBudget = s.time)) = true := by simp [ht, hl]
  unfold State.budgetTick
  rw [if_neg htick, apply_ite some]
  rfl
theorem budgetTick_due {s : State} (bw st est k : Nat) (ht : s.time % 200000 = 0) (hl : s.lastBudget ≠ s.time) :
    ∃ u, s.budgetTick bw st est k = some u ∧ OnlyClocks (s.nextPeriod (s.memBudget bw st)) u ∧ ∀ c, Tab.has c s.cores = true →
      (s.arrayPower + est ≤ 1000 * (3000 - s.memBudget bw st) → (u.core c).throttled = false)
      ∧ (1000 * (3000 - s.memBudget bw st) < s.arrayPower + est →
        (u.core c).rate (s.spent.top k) = max ((s.core c).rate (s.spent.top k) / 2) 1) := by
  refine ⟨_, budgetTick_eq bw st est k ht hl, ?_, fun c hc => ⟨fun h => ?_, fun h => ?_⟩⟩
  · exact .ite ((giveWay_onlyClocks _).trans (mapCores_onlyClocks ..)) (mapCores_onlyClocks ..)
  · rw [if_neg (Nat.not_lt.2 h), mapCores_core _ (nextPeriod_has _ hc), Core.unthrottled_throttled]
  · rw [if_pos h, mapCores_core _ (giveWay_has (nextPeriod_has _ hc)), Core.rate_slowed, giveWay_rate, nextPeriod_rate _ _ hc]
theorem budgetTick_between {s : State} (bw st est k : Nat) (ht : s.time % 200000 ≠ 0) : s.budgetTick bw st est k = none := by
  unfold State.budgetTick; simp [ht]

/-- Settles O54, clause by clause in its order: what clocks, caps and faults change is no rail's voltage, no memory and, of a curve, what each clause names. -/
theorem powerEvents : Obligations.PowerEvents := by
  unfold Obligations.PowerEvents
  intro s c q cvf cvl pts f l o j v d bw st est p tj k curve pm cls rail
  refine ⟨fun hf hl hlow hex => ?_, fun hd ht => ?_, fun hd ht => ?_, fun hl => ?_, fun hd => ?_, fun ht hl => ?_, fun ht => ?_,
    fun hs hv => ?_, fun hs => ?_, fun hs hv => ?_, fun ht hl => ?_, fun ht => ?_, ?_⟩
  · obtain ⟨u, hu, h⟩ := remeasure_lowers hf hl hlow hex
    exact ⟨u, by rw [exec_remeasurement, hu]; rfl, h⟩
  · obtain ⟨u, hu, ⟨hdue, hcvf⟩, hvolt⟩ := curveDue_due hd ht
    exact ⟨u, by rw [exec_curveUpdateTimeout, hu]; rfl, hdue, hcvf, (hvolt _).1⟩
  · rw [exec_curveUpdateTimeout, curveDue_early hd ht]; rfl
  · obtain ⟨u, hu, h⟩ := remeasureLane_points (s := s) (o := o.val) (j := j.val) hl
    exact ⟨u, by rw [exec_laneRemeasurement, hu]; rfl, h⟩
  · exact laneCapApply_due hd
  · obtain ⟨u, hu, hc, hreq⟩ := powerTick_due ht hl
    exact ⟨u, by rw [exec_powerControlTick, hu]; rfl, hc.lastTick, hc.sameMemory, hreq c.val⟩
  · rw [exec_powerControlTick, powerTick_between ht]; rfl
  · by_cases hlow : rail.volt < v
    · obtain ⟨u, hu, hrail, hfreq⟩ := settleRail_raise hs hv hlow
      exact ⟨u, by rw [exec_railSettle, hu]; rfl, by rw [hrail], fun _ => ⟨by rw [hrail], by rw [hrail], hfreq c.val⟩⟩
    · obtain ⟨u, hu, hvolt⟩ := settleRail_lower hs hv hlow
      exact ⟨u, by rw [exec_railSettle, hu]; rfl, hvolt, fun h => absurd h hlow⟩
  · obtain ⟨u, hu, h⟩ := settleRail_stepUp hs
    exact ⟨u, by rw [exec_railSettle, hu]; rfl, h⟩
  · rw [exec_railSettle, settleRail_idle hs hv]; rfl
  · obtain ⟨u, hu, hc, hcore⟩ := budgetTick_due bw st est p.val ht hl
    have hmem : u.budgetMem = pm := by rw [hc.rest]; rfl
    have harr : u.budgetArray = 3000 - pm := by rw [hc.rest]; rfl
    refine ⟨u, by rw [exec_budgetTick, hu]; rfl, hmem, harr, by rw [hc.rest]; rfl, by rw [hc.rest]; rfl, fun hk hle => ?_, fun hk hlt => ?_⟩
    · rw [harr] at hle; exact (hcore c.val hk).1 hle
    · rw [harr] at hlt; exact (hcore c.val hk).2 hlt
  · rw [exec_budgetTick, budgetTick_between bw st est p.val ht]; rfl
  · exact ⟨_, exec_junctionSample c tj s, sample_curve s c.val tj⟩

end Sys2Proof.Machine
end
